-- ==== Sys2Proof/Word.lean ====
section
/-!
DEFINITION. The word types of the Limuno LX9 and the data that the
device's events carry.
Bits are numbered from 0 at the least significant position (R4).
-/
namespace Sys2Proof

/-- One byte of memory. -/
abbrev Byte := BitVec 8

/-- One 32-bit register word or vector lane (R192). -/
abbrev Word := BitVec 32

/-- One 64-bit word: an instruction, a header, a register pair. -/
abbrev DWord := BitVec 64

/-- A set of the 96 logical lanes of a group, lane j in bit j (R195). -/
abbrev Lanes := BitVec 96

/-- The two program-counter slots of a group (R42). -/
inductive SlotId
  | a
  | b
  deriving DecidableEq, Repr

/-- A group: its block's index in the state's list of blocks, and its GID. -/
structure GRef where
  bid : Nat
  gid : Nat
  deriving DecidableEq, Repr

/-- What the front end may bring to a core for the first time (R39, R438): the next block of a launch's grid,
or the oldest closed batch of a node of a work graph. -/
inductive Candidate
  | grid (lid : Nat)
  | batch (lid node : Nat)
  deriving DecidableEq, Repr

/-- A party whose parked fault the front end may retry (R259, R448). -/
inductive ParkedRef
  | slot (g : GRef) (x : SlotId)
  | sequencer (bid : Nat)
  | gangPart (bid : Nat)
  | copy (cid : Nat)
  | writeBack (idx : Nat)
  | step (comm step : Nat)
  deriving DecidableEq, Repr

/-- A host request to the aperture (R466), or the turn of one aligned 4-byte unit, by a physical address in it, of the
interface's request that is under way. -/
inductive ApertureReq
  | read (len : Nat)
  | write (bytes : List Byte)
  | piece (addr : Nat)
  deriving DecidableEq, Repr

/-- The function that sends a management or DOE request (R461, R462). -/
inductive Requester
  | physical (port : Nat)
  | virtual (vif : Nat)
  deriving DecidableEq, Repr

/-- What another rank of a communicator brings to a reduction step (R418, R419): its OP, TY, KIND and COUNT, its
source bytes, whether its timed start had passed, and the cause of its own failure at step 3, 0 for none. -/
structure PeerOffer where
  rank : Nat
  op : Nat
  ty : Nat
  kind : Nat
  count : Nat
  cause : Nat
  bytes : List Byte
  deriving DecidableEq, Repr

/-- What another member answers at communicator set-up (R415): its descriptor's TAG, NRANK, ALLOW and RANK, its
member list, its carried contracts, and whether it found a free record. -/
structure PeerAnswer where
  rank : Nat
  tag : Nat
  nrank : Nat
  allow : Nat
  ownRank : Nat
  members : List Nat
  carries : Nat
  hasRecord : Bool
  deriving DecidableEq, Repr

/-- Who acts in a step. -/
inductive Party
  /-- Nobody: no step has begun. -/
  | nobody
  /-- A slot of a group: issues a word, is translated for, waits for a time. -/
  | slot (g : GRef) (x : SlotId)
  /-- A group as a whole (PARKT_EXPIRY, ACCESS_PERFORM). -/
  | group (g : GRef)
  /-- One part of what a party does, where its parts are seen apart: the piece of a group's access or of a copy's chunk by
  its aligned unit (R146, R332), the element of a communicator's step (R421). -/
  | part (of : Party) (k : Nat)
  /-- A block: its matrix sequencer, its gang port, its swap and re-admission. -/
  | block (bid : Nat)
  /-- A core: its group scheduler, its sheet slice. -/
  | core (c : Nat)
  /-- A launch. -/
  | launch (lid : Nat)
  /-- A copy in flight. -/
  | copy (cid : Nat)
  /-- A hardware queue slot of the front end (R427). -/
  | queue (q : Nat)
  /-- A communicator (R414). -/
  | comm (c : Nat)
  /-- The host side of a virtual interface (R464). -/
  | host (vif : Nat)
  /-- A physical or virtual function's mailbox (R462, R472). -/
  | function (fn : Requester)
  /-- The device itself: firmware, memory controllers, the tether. -/
  | device
  deriving DecidableEq, Repr

end Sys2Proof
end

