-- ==== Sys2Proof/Syntax.lean ====
section
/-!
DEFINITION. The instructions of the LX9: the word formats of R83 and R105 with their fields, and one constructor of Instr for each row of the opcode table. A word's reserved and
unused fields are kept, since their value decides whether the word traps (R84, R107).
-/
namespace Sys2Proof

/-- Format V (R83): classes 1 to 3. C holds an operand or the control value CF (R269). -/
structure WordV where
  stl : BitVec 4
  ru : BitVec 3
  km : BitVec 3
  z : BitVec 1
  rm : BitVec 2
  d : BitVec 9
  a : BitVec 9
  b : BitVec 9
  c : BitVec 9
  ty : BitVec 5
  deriving DecidableEq, Repr

/-- Format VI (R83): VMOVI and VSHFI. `zero` is bits [42:41], which must be zero. -/
structure WordVI where
  stl : BitVec 4
  ru : BitVec 3
  km : BitVec 3
  z : BitVec 1
  zero : BitVec 2
  d : BitVec 9
  imm : BitVec 32
  deriving DecidableEq, Repr

/-- Format S (R83): class-0 register forms. -/
structure WordS where
  stl : BitVec 4
  ru : BitVec 3
  d : BitVec 9
  a : BitVec 9
  b : BitVec 9
  c : BitVec 9
  sub : BitVec 6
  ty : BitVec 5
  deriving DecidableEq, Repr

/-- Format SI (R83): class-0 immediate forms. -/
structure WordSI where
  stl : BitVec 4
  ru : BitVec 3
  d : BitVec 9
  sub : BitVec 6
  imm : BitVec 32
  deriving DecidableEq, Repr

/-- Format B (R83): branches and calls. -/
structure WordB where
  stl : BitVec 4
  ru : BitVec 3
  km : BitVec 3
  a : BitVec 9
  cc : BitVec 3
  disp : BitVec 32
  deriving DecidableEq, Repr

/-- Format M (R83, R87): loads, stores and memory control. -/
structure WordM where
  stl : BitVec 4
  ru : BitVec 3
  km : BitVec 3
  d : BitVec 9
  a : BitVec 9
  w : BitVec 3
  off : BitVec 5
  q : BitVec 3
  pm : BitVec 8
  sc : BitVec 2
  sem : BitVec 2
  as : BitVec 2
  x : BitVec 1
  deriving DecidableEq, Repr

/-- Format MA (R83, R88): atomics. -/
structure WordMA where
  stl : BitVec 4
  ru : BitVec 3
  d : BitVec 9
  a : BitVec 9
  b : BitVec 9
  aop : BitVec 4
  w64 : BitVec 1
  q : BitVec 3
  pm : BitVec 8
  sc : BitVec 2
  sem : BitVec 2
  deriving DecidableEq, Repr

/-- Format C (R83, R89): class 5. -/
structure WordC where
  stl : BitVec 4
  ru : BitVec 3
  desc : BitVec 9
  d : BitVec 9
  q : BitVec 3
  pm : BitVec 8
  x : BitVec 1
  xf : BitVec 4
  ch : BitVec 8
  ty : BitVec 5
  deriving DecidableEq, Repr

/-- Format X (R83, R90): class 6. -/
structure WordX where
  stl : BitVec 4
  ru : BitVec 3
  bar : BitVec 4
  cnt : BitVec 8
  q : BitVec 3
  pm : BitVec 8
  x : BitVec 1
  d : BitVec 9
  a : BitVec 9
  ty : BitVec 5
  deriving DecidableEq, Repr

/-- Format Y (R83, R90): class 7. -/
structure WordY where
  stl : BitVec 4
  ru : BitVec 3
  d : BitVec 9
  a : BitVec 9
  b : BitVec 9
  c : BitVec 9
  q : BitVec 3
  pm : BitVec 8
  deriving DecidableEq, Repr

/-- A clause header (R74), MARK included. -/
structure WordH where
  mark : BitVec 6
  nm1 : BitVec 4
  cls : BitVec 3
  y : BitVec 1
  sck : BitVec 1
  sig : BitVec 16
  wb : BitVec 4
  rsv : BitVec 29
  deriving DecidableEq, Repr

/-- Matrix-stream format MR (R105). HI tells MSET from MSET.hi; MADD, MBNZ and MBRA require it to be 0. -/
structure WordMR where
  hd : BitVec 5
  ha : BitVec 5
  rsv : BitVec 13
  hi : BitVec 1
  imm : BitVec 32
  deriving DecidableEq, Repr

/-- Matrix-stream format MB (R105). -/
structure WordMB where
  bar : BitVec 4
  rsv : BitVec 52
  deriving DecidableEq, Repr

/-- Matrix-stream format MT (R105): bit i of TMASK names tile a(i). -/
structure WordMT where
  rsv : BitVec 40
  tmask : BitVec 16
  deriving DecidableEq, Repr

/-- Matrix-stream format MM (R105): the MMA family. -/
structure WordMM where
  tile : BitVec 4
  ha : BitVec 5
  sa : BitVec 5
  hb : BitVec 5
  sb : BitVec 5
  fa : BitVec 4
  fb : BitVec 4
  steps : BitVec 4
  aux : BitVec 4
  arr : BitVec 4
  wait : BitVec 4
  flags : BitVec 8
  deriving DecidableEq, Repr

/-- Matrix-stream format MD (R105): drains. -/
structure WordMD where
  tile : BitVec 4
  addr : BitVec 5
  stride : BitVec 5
  rsv1 : BitVec 10
  fmt : BitVec 4
  rsv2 : BitVec 12
  arr : BitVec 4
  wait : BitVec 4
  flags : BitVec 8
  deriving DecidableEq, Repr

/-- Matrix-stream format ME (R105). -/
structure WordME where
  rsv : BitVec 56
  deriving DecidableEq, Repr

/-- The instructions and events of spec/opcode_table.json, one constructor for each row. A constructor with a word
format is an instruction word; every other constructor is an event, with what the outside supplies or which of its
party's operations it concerns. Which party acts (a slot, a sequencer, a copy, a queue, a host ...) stands in the
state, for words and events alike. Rows that need no data come last. -/
inductive Instr
  /-- NOP (R103). Free no-operation instruction of class 0. -/
  | nop (f : WordS)
  /-- SMOV (R203). Copies a scalar source into a scalar destination. -/
  | smov (f : WordS)
  /-- SMOVI (R204). Sets a scalar to IMM32 (SUB 0). -/
  | smovi (f : WordSI)
  /-- SMOVI_B64 (R204). Sets an even scalar pair to the sign-extended IMM32 (SUB 1). -/
  | smoviB64 (f : WordSI)
  /-- SADD (R203). Scalar addition modulo 2^w. -/
  | sadd (f : WordS)
  /-- SADDC (R203). Scalar addition with carry-in, giving the sum modulo 2^w. -/
  | saddc (f : WordS)
  /-- SADDC_C (R203). Scalar addition with carry-in, giving the carry out (SUB 1). -/
  | saddcC (f : WordS)
  /-- SSUB (R203). Scalar subtraction modulo 2^w. -/
  | ssub (f : WordS)
  /-- SSUBB (R203). Scalar subtraction with borrow-in, giving the difference. -/
  | ssubb (f : WordS)
  /-- SSUBB_C (R203). Scalar subtraction with borrow-in, giving the borrow out (SUB 1). -/
  | ssubbC (f : WordS)
  /-- SMUL (R203). Scalar multiplication modulo 2^w. -/
  | smul (f : WordS)
  /-- SMULH (R203). High half of a scalar product. -/
  | smulh (f : WordS)
  /-- SAND (R203). Scalar bitwise and. -/
  | sand (f : WordS)
  /-- SOR (R203). Scalar bitwise or. -/
  | sor (f : WordS)
  /-- SXOR (R203). Scalar bitwise exclusive or. -/
  | sxor (f : WordS)
  /-- SANDN (R203). Scalar a and not b. -/
  | sandn (f : WordS)
  /-- SSHL (R203). Scalar left shift. -/
  | sshl (f : WordS)
  /-- SSHR (R203). Scalar logical right shift. -/
  | sshr (f : WordS)
  /-- SSRA (R203). Scalar arithmetic right shift. -/
  | ssra (f : WordS)
  /-- SMIN (R203). Lesser of two scalars. -/
  | smin (f : WordS)
  /-- SMAX (R203). Greater of two scalars. -/
  | smax (f : WordS)
  /-- SSET (R203). Scalar comparison writing 1 or 0. -/
  | sset (f : WordS)
  /-- SSEL (R203). Scalar select on a condition word. -/
  | ssel (f : WordS)
  /-- SCLZ (R203). Counts leading zeros of a scalar. -/
  | sclz (f : WordS)
  /-- SFFS (R203). Finds the lowest set bit of a scalar. -/
  | sffs (f : WordS)
  /-- SPOPC (R203). Counts set bits of a scalar. -/
  | spopc (f : WordS)
  /-- SADDP (R203). Adds a sign-extended 32-bit value to a 64-bit pointer. -/
  | saddp (f : WordS)
  /-- SLEA (R203). Adds a shifted sign-extended index to a 64-bit base. -/
  | slea (f : WordS)
  /-- IXSET (R205). Sets an index register from the low byte of a source. -/
  | ixset (f : WordS)
  /-- KMOV (R206). Copies a k-mask. -/
  | kmov (f : WordS)
  /-- KAND (R206). Bitwise and of two k-masks. -/
  | kand (f : WordS)
  /-- KOR (R206). Bitwise or of two k-masks. -/
  | kor (f : WordS)
  /-- KXOR (R206). Bitwise exclusive or of two k-masks. -/
  | kxor (f : WordS)
  /-- KANDN (R206). k-mask a and not b. -/
  | kandn (f : WordS)
  /-- KNOT (R206). Complements a k-mask over 96 lanes. -/
  | knot (f : WordS)
  /-- KPOPC (R206). Counts lanes set in a k-mask into a scalar. -/
  | kpopc (f : WordS)
  /-- KFFS (R206). Writes the lowest lane set in a k-mask into a scalar. -/
  | kffs (f : WordS)
  /-- BRA (R208). Unconditional branch of the issuing slot. -/
  | bra (f : WordB)
  /-- BRC (R208). Conditional branch on a scalar or mask condition. -/
  | brc (f : WordB)
  /-- BSPLIT (R213). Splits the slot's lanes into two paths, using the other slot or the tail stack. -/
  | bsplit (f : WordB)
  /-- BJOIN (R214). Rejoins, exchanges or waits at a rejoin point, then applies the refill steps. -/
  | bjoin (f : WordB)
  /-- CALL (R209). Writes the return address to a link pair and branches. -/
  | call (f : WordB)
  /-- CALLI (R209). Indirect call through a target pair. -/
  | calli (f : WordB)
  /-- CALLT (R210). Calls through a linkage-table entry read with acquire semantics. -/
  | callt (f : WordB)
  /-- RET (R209). Returns to the address held in a pair. -/
  | ret (f : WordB)
  /-- EXIT (R211). Retires the slot's lanes and empties the slot. -/
  | exit (f : WordB)
  /-- YIELD (R211). Ends the clause and lets the engine take another group. -/
  | yield (f : WordB)
  /-- BBAR (R64). Arrival and wait at the block barrier. -/
  | bbar (f : WordB)
  /-- GBAR (R66). Arrival and wait at the grid barrier, a park point. -/
  | gbar (f : WordB)
  /-- TRAP (R224). Raises SWTRAP with IMM32 in ARG. -/
  | trap (f : WordSI)
  /-- ERET (R223). Restores the group from the trap frame, replays set-aside accesses and returns to user mode. -/
  | eret (f : WordS)
  /-- SIGSET (R225). Sets the issuing slot's signature register. -/
  | sigset (f : WordSI)
  /-- SRD (R226). Reads a special register into a scalar. -/
  | srd (f : WordSI)
  /-- SRD_TIMELO (R13). Reads the low tether-time word and captures the high word into the holding word. -/
  | srdTimelo (f : WordSI)
  /-- SRD_TIMEHI (R13). Returns the holding word, or the current high tether-time word. -/
  | srdTimehi (f : WordSI)
  /-- SWR (R226). Writes a special register that has no row of its own. -/
  | swr (f : WordSI)
  /-- SWR_GSTAT (R202). Clears the GSTAT sticky bits written as 1. -/
  | swrGstat (f : WordSI)
  /-- BRK (R224). Raises BRKPT with IMM32 in ARG. -/
  | brk (f : WordSI)
  /-- CLAUSE_HEADER (R77). Decodes a clause header, checks the clause and waits on its WB barrier. -/
  | clauseHeader (f : WordH)
  /-- VMOV (R279). Copies a vector, scalar or constant into active lanes. -/
  | vmov (f : WordV)
  /-- VMOVI (R279). Writes IMM32 into every active lane. -/
  | vmovi (f : WordVI)
  /-- VADD (R273). Elementwise addition, wrapping or saturating. -/
  | vadd (f : WordV)
  /-- VSUB (R273). Elementwise subtraction, wrapping or saturating. -/
  | vsub (f : WordV)
  /-- VMUL (R273). Elementwise multiplication modulo 2^w. -/
  | vmul (f : WordV)
  /-- VMULH (R273). Elementwise high half of the product. -/
  | vmulh (f : WordV)
  /-- VMAD (R273). Elementwise multiply-add modulo 2^w. -/
  | vmad (f : WordV)
  /-- VABSD (R273). Elementwise absolute difference. -/
  | vabsd (f : WordV)
  /-- VMIN (R273). Elementwise minimum. -/
  | vmin (f : WordV)
  /-- VMAX (R273). Elementwise maximum. -/
  | vmax (f : WordV)
  /-- VAND (R273). Elementwise bitwise and. -/
  | vand (f : WordV)
  /-- VOR (R273). Elementwise bitwise or. -/
  | vor (f : WordV)
  /-- VXOR (R273). Elementwise bitwise exclusive or. -/
  | vxor (f : WordV)
  /-- VANDN (R273). Elementwise a and not b. -/
  | vandn (f : WordV)
  /-- VSHL (R274). Elementwise left shift. -/
  | vshl (f : WordV)
  /-- VSHR (R274). Elementwise logical right shift. -/
  | vshr (f : WordV)
  /-- VSRA (R274). Elementwise arithmetic right shift. -/
  | vsra (f : WordV)
  /-- VROT (R274). Elementwise left rotation. -/
  | vrot (f : WordV)
  /-- VCLZ (R275). Elementwise count of leading zeros. -/
  | vclz (f : WordV)
  /-- VFFS (R275). Elementwise index of the lowest set bit. -/
  | vffs (f : WordV)
  /-- VPOPC (R275). Elementwise count of set bits. -/
  | vpopc (f : WordV)
  /-- VBREV (R275). Elementwise bit reversal. -/
  | vbrev (f : WordV)
  /-- VBFE (R276). Extracts a bit field. -/
  | vbfe (f : WordV)
  /-- VBFI (R276). Inserts a bit field into the destination. -/
  | vbfi (f : WordV)
  /-- VSET (R277). Elementwise integer comparison into a vector or k-mask. -/
  | vset (f : WordV)
  /-- VSEL (R277). Elementwise select on c. -/
  | vsel (f : WordV)
  /-- VSAT (R278). Clamps elements to a narrower range. -/
  | vsat (f : WordV)
  /-- VPACK (R278). Narrows elements of two sources, truncating or saturating. -/
  | vpack (f : WordV)
  /-- VUNPK (R278). Widens the low or high half of a lane. -/
  | vunpk (f : WordV)
  /-- VSHFL (R281). Gathers lanes by per-lane index. -/
  | vshfl (f : WordV)
  /-- VSHFI (R282). Rotates, xors, shifts up or down whole lanes by an immediate. -/
  | vshfi (f : WordVI)
  /-- VBCAST (R280). Broadcasts one lane to all active lanes. -/
  | vbcast (f : WordV)
  /-- VCMPRS (R283). Packs active lanes together in EXEC positions. -/
  | vcmprs (f : WordV)
  /-- VLANE (R280). Writes each lane's logical number. -/
  | vlane (f : WordV)
  /-- VRDLN (R284). Reads one lane into a scalar. -/
  | vrdln (f : WordV)
  /-- VWRLN (R284). Writes a scalar into one lane. -/
  | vwrln (f : WordV)
  /-- VRED (R285). Integer reduction over active lanes. -/
  | vred (f : WordV)
  /-- FADD (R287). Floating-point addition. -/
  | fadd (f : WordV)
  /-- FSUB (R287). Floating-point subtraction. -/
  | fsub (f : WordV)
  /-- FMUL (R287). Floating-point multiplication. -/
  | fmul (f : WordV)
  /-- FFMA (R287). Fused multiply-add with one rounding. -/
  | ffma (f : WordV)
  /-- FMIN (R287). Floating-point minimum. -/
  | fmin (f : WordV)
  /-- FMAX (R287). Floating-point maximum. -/
  | fmax (f : WordV)
  /-- FABS (R287). Clears the sign bit. -/
  | fabs (f : WordV)
  /-- FNEG (R287). Inverts the sign bit. -/
  | fneg (f : WordV)
  /-- FCPSN (R287). Copies the sign of b onto a. -/
  | fcpsn (f : WordV)
  /-- FSET (R288). Floating-point comparison into a vector or k-mask. -/
  | fset (f : WordV)
  /-- FCLASS (R289). Classifies each element into a 10-bit class mask. -/
  | fclass (f : WordV)
  /-- FRND (R287). Rounds to an integral value in format t. -/
  | frnd (f : WordV)
  /-- FCVT (R290). Converts between floating-point formats. -/
  | fcvt (f : WordV)
  /-- FCVTI (R291). Converts floating point to a saturated integer. -/
  | fcvti (f : WordV)
  /-- ICVTF (R291). Converts an integer to floating point. -/
  | icvtf (f : WordV)
  /-- FDOT2 (R292). Two-element dot product accumulated under the contract's group rule. -/
  | fdot2 (f : WordV)
  /-- XCLR (R294). Clears the exact accumulator. -/
  | xclr (f : WordV)
  /-- XADD (R295). Adds active elements exactly into xa. -/
  | xadd (f : WordV)
  /-- XMADD (R295). Adds exact products of active elements into xa. -/
  | xmadd (f : WordV)
  /-- XRND (R296). Writes the rounding of xa. -/
  | xrnd (f : WordV)
  /-- XSCAN (R296). Exact inclusive running sums through xa. -/
  | xscan (f : WordV)
  /-- XRD (R294). Reads one word of xa. -/
  | xrd (f : WordV)
  /-- XWR (R294). Writes one word of xa. -/
  | xwr (f : WordV)
  /-- XSTAT (R294). Reads the xa status with zero and sign bits. -/
  | xstat (f : WordV)
  /-- EX2F (R307). Fast 2^a. -/
  | ex2f (f : WordV)
  /-- EX2R (R306). Reproducible 2^a. -/
  | ex2r (f : WordV)
  /-- LG2F (R307). Fast log2 a. -/
  | lg2f (f : WordV)
  /-- LG2R (R306). Reproducible log2 a. -/
  | lg2r (f : WordV)
  /-- RCPF (R307). Fast reciprocal. -/
  | rcpf (f : WordV)
  /-- RCPR (R306). Reproducible reciprocal. -/
  | rcpr (f : WordV)
  /-- RSQF (R307). Fast reciprocal square root. -/
  | rsqf (f : WordV)
  /-- RSQR (R306). Reproducible reciprocal square root. -/
  | rsqr (f : WordV)
  /-- SQTF (R307). Fast square root. -/
  | sqtf (f : WordV)
  /-- SQTR (R306). Correctly rounded square root. -/
  | sqtr (f : WordV)
  /-- DIVF (R307). Fast division. -/
  | divf (f : WordV)
  /-- DIVR (R306). Correctly rounded division. -/
  | divr (f : WordV)
  /-- SINF (R307). Fast sin(pi a). -/
  | sinf (f : WordV)
  /-- SINR (R306). Reproducible sin(pi a). -/
  | sinr (f : WordV)
  /-- COSF (R307). Fast cos(pi a). -/
  | cosf (f : WordV)
  /-- COSR (R306). Reproducible cos(pi a). -/
  | cosr (f : WordV)
  /-- TNHF (R307). Fast tanh. -/
  | tnhf (f : WordV)
  /-- TNHR (R306). Reproducible tanh. -/
  | tnhr (f : WordV)
  /-- SIGF (R307). Fast logistic sigmoid. -/
  | sigf (f : WordV)
  /-- SIGR (R306). Reproducible logistic sigmoid. -/
  | sigr (f : WordV)
  /-- QSCL (R311). Computes each 16-lane block's E8M0 scale byte. -/
  | qscl (f : WordV)
  /-- QZP (R312). Computes each block's zero point for unsigned targets. -/
  | qzp (f : WordV)
  /-- QCVT (R313). Quantises f32 lanes to narrow codes, optionally dithered. -/
  | qcvt (f : WordV)
  /-- DQCVT (R314). Dequantises narrow codes to f32. -/
  | dqcvt (f : WordV)
  /-- KBPACK (R316). Packs f32 lanes into Kite blocks or an escape mask. -/
  | kbpack (f : WordV)
  /-- KBUNPK (R318). Unpacks Kite blocks to f32 with escapes from b. -/
  | kbunpk (f : WordV)
  /-- RNGK (R320). Sets RKEY from the launch seed and a domain (C 0). -/
  | rngk (f : WordV)
  /-- RNGK_B64 (R320). Sets RKEY from a scalar pair (C 1). -/
  | rngkB64 (f : WordV)
  /-- RNG (R322). Draws a 32-bit counter-based random value per lane. -/
  | rng (f : WordV)
  /-- RNGF (R322). Draws a uniform f32 per lane in [0,1) or (0,1]. -/
  | rngf (f : WordV)
  /-- LD (R233). Per-lane or uniform vector load. -/
  | ld (f : WordM)
  /-- LDS (R235). Scalar load made once. -/
  | lds (f : WordM)
  /-- LDB (R236). Loads a vector quad block at a uniform address. -/
  | ldb (f : WordM)
  /-- ST (R233). Per-lane or uniform vector store. -/
  | st (f : WordM)
  /-- STS (R235). Scalar store made once. -/
  | sts (f : WordM)
  /-- STB (R236). Stores a vector quad block at a uniform address. -/
  | stb (f : WordM)
  /-- ATOM (R238). Per-lane read-modify-write atomic. -/
  | atom (f : WordMA)
  /-- ACAS (R238). Per-lane compare-and-swap. -/
  | acas (f : WordMA)
  /-- ATOMS (R238). Scalar atomic made once. -/
  | atoms (f : WordMA)
  /-- ACASS (R238). Scalar compare-and-swap made once. -/
  | acass (f : WordMA)
  /-- PRFM (R240). Prefetches lines into the core read cache without faulting. -/
  | prfm (f : WordM)
  /-- SGJOIN (R261). Joins the block to a sharing group. -/
  | sgjoin (f : WordM)
  /-- SGLEAVE (R262). Removes the block from its sharing group and revokes its window slot. -/
  | sgleave (f : WordM)
  /-- SGQRY (R264). Returns a snapshot of the block's sharing-group membership. -/
  | sgqry (f : WordM)
  /-- PFMAP (R256). Maps a first-touch placeholder to a zeroed pool page. -/
  | pfmap (f : WordM)
  /-- PFPARK (R258). Leaves the first-touch handler and parks the trapping instruction as a faulted access. -/
  | pfpark (f : WordM)
  /-- TLBI (R252). Invalidates cached translations by page, ASID, all or global. -/
  | tlbi (f : WordM)
  /-- ACCESS_PERFORM (R124). An issued access is performed once its edge-predecessors are performed, returning data or committing stores. -/
  | accessPerform (ser : Nat)
  /-- CPYS (R330). Starts a linear copy, optionally converting or timed. -/
  | cpys (f : WordC)
  /-- CPYT (R330). Starts a two-dimensional tile copy with optional transform. -/
  | cpyt (f : WordC)
  /-- CPYE (R330). Starts a linear copy on a package copy engine. -/
  | cpye (f : WordC)
  /-- CPWP (R340). Returns a copy's write pointer. -/
  | cpwp (f : WordC)
  /-- CPWAIT (R340). Waits until a copy's write pointer reaches a value or the copy ends. -/
  | cpwait (f : WordC)
  /-- CPCAN (R341). Cancels a copy. -/
  | cpcan (f : WordC)
  /-- CPQRY (R342). Returns a copy's status word. -/
  | cpqry (f : WordC)
  /-- MBAR (R352). Arrives on a numbered barrier once performed. -/
  | mbar (f : WordX)
  /-- MWAIT (R352). Waits for a generation of a numbered barrier. -/
  | mwait (f : WordX)
  /-- MARRW (R352). Arrives on a numbered barrier and then waits on it. -/
  | marrw (f : WordX)
  /-- ATOV (R357). Moves a tile row or column into a vector register. -/
  | atov (f : WordX)
  /-- VTOA (R357). Moves a vector register into a tile row or column. -/
  | vtoa (f : WordX)
  /-- MSET (R106). Sets an h register to a sign-extended immediate (HI 0). -/
  | mset (f : WordMR)
  /-- MSET_HI (R106). Sets the high word of an h register (HI 1). -/
  | msetHi (f : WordMR)
  /-- MADD (R106). Adds an immediate to an h register. -/
  | madd (f : WordMR)
  /-- MBNZ (R106). Decrements an h register and branches when nonzero. -/
  | mbnz (f : WordMR)
  /-- MBRA (R106). Unconditional matrix-stream branch. -/
  | mbra (f : WordMR)
  /-- MWAITB (R353). Sequencer wait on a numbered barrier. -/
  | mwaitb (f : WordMB)
  /-- MARRB (R353). Sequencer arrival on a numbered barrier. -/
  | marrb (f : WordMB)
  /-- MALLOC (R354). Binds tile names to physical tiles, waiting or wounding under wound-wait. -/
  | malloc (f : WordMT)
  /-- MFREE (R354). Unbinds tile names and returns physical tiles. -/
  | mfree (f : WordMT)
  /-- MZERO (R354). Zeroes named tiles, renaming when a drain still reads them. -/
  | mzero (f : WordMT)
  /-- MMA (R363). Matrix multiply-accumulate into a tile. -/
  | mma (f : WordMM)
  /-- MMAS (R364). Sparse matrix multiply-accumulate skipping bitmap blocks. -/
  | mmas (f : WordMM)
  /-- MMAZ (R363). Matrix multiply starting from zero. -/
  | mmaz (f : WordMM)
  /-- MMAG (R366). Ganged matrix multiply delivered to sharing-group members. -/
  | mmag (f : WordMM)
  /-- MDRN (R368). Drains a tile to memory with conversion. -/
  | mdrn (f : WordMD)
  /-- MDRNA (R371). Drains a tile by add-on-store. -/
  | mdrna (f : WordMD)
  /-- MEND (R346). Ends the matrix stream. -/
  | mend (f : WordME)
  /-- TMLOAD (R388). Binds a Bridle record or starts a new sequence. -/
  | tmload (f : WordY)
  /-- TMSTEP (R390). Applies a token to an bound record. -/
  | tmstep (f : WordY)
  /-- TMMASK (R389). Writes an bound record's legal-token mask. -/
  | tmmask (f : WordY)
  /-- TMQRY (R391). Returns an bound record's status. -/
  | tmqry (f : WordY)
  /-- TMSAVE (R391). Writes an bound record back, optionally unbinding it. -/
  | tmsave (f : WordY)
  /-- SAMPLE (R396). Samples a token per lane from masked logits. -/
  | sample (f : WordY)
  /-- SARGMX (R397). Returns the masked argmax token per lane. -/
  | sargmx (f : WordY)
  /-- TKBEG (R410). Creates an ordered-chain record. -/
  | tkbeg (f : WordY)
  /-- TKEND (R410). Frees a chain record held by the block. -/
  | tkend (f : WordY)
  /-- TKWAIT (R411). Waits until the block holds the chain token. -/
  | tkwait (f : WordY)
  /-- TKPASS (R410). Passes the chain token to the next BSEQ. -/
  | tkpass (f : WordY)
  /-- CLLRED (R417). Issues a collective reduction step. -/
  | cllred (f : WordY)
  /-- REDUCTION_STEP_RUN (R419). A reduction step runs once every rank has issued it. -/
  | reductionStepRun (step : Nat) (offers : List PeerOffer)
  /-- CLLQRY (R422). Returns a snapshot of a reduction step's state. -/
  | cllqry (f : WordY)
  /-- CONTQ (R423). Returns a numeric behaviour record. -/
  | contq (f : WordY)
  /-- TWAIT (R424). Waits until a tether time. -/
  | twait (f : WordY)
  /-- NEMIT (R437). Emits records to a work-graph node. -/
  | nemit (f : WordY)
  /-- NODE_GATHER_TIMER (R438). A node batch's gather timer expires and the batch closes. -/
  | nodeGatherTimer (node : Nat)
  /-- BLOCK_ADMIT (R39). The front end admits a block to a core and starts its groups. -/
  | blockAdmit (cand : Candidate) (core : Nat)
  /-- BLOCK_READMIT (R62). A ready swapped block is restored, its faulted accesses replayed and copies resumed. -/
  | blockReadmit (core : Nat)
  /-- PARKED_FAULT_RETRY (R448). Each PARKT the front end retries a parked fault's walk. -/
  | parkedFaultRetry (p : ParkedRef)
  /-- PREEMPT (R440). Halts a partition's cores and exchanges contexts with the gondola. -/
  | preempt (cores : List Nat)
  /-- SNAPSHOT_UNIT_COPY (R454). Copies a 4 KiB unit aside before the launch's first write to it. -/
  | snapshotUnitCopy (unit : Nat)
  /-- DOORBELL (R426). A doorbell write maps the queue and makes new entries readable. -/
  | doorbell (queue : Nat) (value : DWord)
  /-- QTBASE_WRITE (R465). Host write that unmaps every queue of the interface and sets the queue table base. -/
  | qtbaseWrite (value : DWord)
  /-- VISTAT_WRITE (R465). Host write that clears VISTAT bits written as 1. -/
  | vistatWrite (value : DWord)
  /-- VIRESET (R465). Host write of 1 that kills every launch of the interface. -/
  | vireset (value : DWord)
  /-- VI_REGISTER_WRITE (R465). Host write to an interface register without a row of its own, such as APCTL or APVA. -/
  | viRegisterWrite (offset size : Nat) (value : DWord)
  /-- APERTURE_ACCESS (R466). Host access through BAR4 translated through APASID. -/
  | apertureAccess (offset : Nat) (req : ApertureReq)
  /-- SET_POWER_LIMIT (R473). Owner request that sets the power limit. -/
  | setPowerLimit (watts : Nat)
  /-- POWER_WINDOW (R473). Each 1 ms window the device throttles issue to keep average power under the limit. -/
  | powerWindow (watts : Nat)
  /-- THERMAL_THROTTLE (R473). Junction temperature reaches 105 C and issue is throttled further. -/
  | thermalThrottle (celsius : Nat)
  /-- THERMAL_SHUTDOWN (R473). Junction temperature reaches 115 C; the device stops and the links go down. -/
  | thermalShutdown (celsius : Nat)
  /-- KEY_ENROLL (R471). Physical-function request that enrols a code-object key for an interface. -/
  | keyEnroll (vif : Nat) (key : Word) (body : List Byte)
  /-- KEY_REMOVE (R471). Physical-function request that removes a code-object key. -/
  | keyRemove (vif : Nat) (key : Word)
  /-- LIVE_UPDATE (R469). Owner request that verifies a new firmware image and hands over to it. -/
  | liveUpdate (addr size : Nat)
  /-- DRAM_REFRESH_SCRUB (R453). A refresh activation reads, corrects or poisons and writes back a DRAM row. -/
  | dramRefreshScrub (words : List (Nat × Bool))
  /-- SHEET_SCRUB (R453). A sheet slice scrubs its words. -/
  | sheetScrub (words : List (Nat × Bool))
  /-- ILLEGAL_OPCODE (R104). An instruction word with an opcode that no table lists issues and traps with ILLOP, and the clause's earlier instructions keep their effects. -/
  | illegalOpcode (w : DWord)
  /-- ILLEGAL_MATRIX_WORD (R107). The sequencer meets an illegal matrix-stream word, stops the context and makes the lowest-GID group trap with ILLOP at CLIDX 0x1F. -/
  | illegalMatrixWord (w : DWord)
  /-- SETUP_EXCHANGE (R415). The set-up answers of the other members arrive and communicator set-up ends with an agreed contract or a failure status. -/
  | setupExchange (answers : List PeerAnswer)
  /-- STEP_ABORT (R459). Another rank reports that the launch that issued a reduction step was killed, so the step fails with ABORT here and the local issuing launch is killed and possibly rolled back. -/
  | stepAbort (step : Nat)
  /-- FIRMWARE_CONFIGURATION (R462). A management request changes the device-wide firmware configuration, such as the placement of virtual interfaces on ports, and is refused with DENIED when it comes from port 1's physical function. -/
  | firmwareConfiguration (vif newPort : Nat)
  /-- PAGE_WALK (R247). Completes a table walk with a translation or a fault. -/
  | pageWalk
  /-- COPY_START (R331). An armed copy begins once its edges are performed and any timed start is reached. -/
  | copyStart
  /-- COPY_CHUNK (R331). A copy chunk's writes are performed and the write pointer advances, or the copy pauses or stops. -/
  | copyChunk
  /-- COPY_RESUME (R338). A paused copy resumes at its write pointer when its pause cause clears. -/
  | copyResume
  /-- MATRIX_WORD_DONE (R345). A matrix word's bands are committed and its accesses performed, and it arrives on its barrier. -/
  | matrixWordDone
  /-- GANG_PART_RUN (R367). A delivered ganged part runs on a member's gang port. -/
  | gangPartRun
  /-- TICKET_RELEASE (R402). The ticket unit releases the head block's staged accesses in staging order. -/
  | ticketRelease
  /-- TETHER_MEMBER_LOST (R421). A communicator member becomes unreachable and its steps fail with LINK. -/
  | tetherMemberLost
  /-- TWAIT_EXPIRY (R424). The tether tick at or after T arrives and the waiting slot continues. -/
  | twaitExpiry
  /-- PENDING_TO_ACTIVE (R49). A pending group whose dependence is satisfied enters the active set. -/
  | pendingToActive
  /-- ACTIVE_SET_EXCHANGE (R52). After 32 clk a long-ready pending group exchanges with the earliest active group. -/
  | activeSetExchange
  /-- BLOCK_SWAP_OUT (R56). A block is drained and swapped to its ballast area. -/
  | blockSwapOut
  /-- PARKT_EXPIRY (R55). A group has been parked for the effective PARKT and its block is swapped. -/
  | parktExpiry
  /-- CORE_RETIRE (R23). Firmware retires a core in service and stops admissions to it. -/
  | coreRetire
  /-- QUANTUM_EXPIRY (R441). A partition's time slice expires while the other partition is ready. -/
  | quantumExpiry
  /-- LAUNCH_COMPLETE (R435). A launch meets all completion conditions and its completion record is written. -/
  | launchComplete
  /-- TIMED_LAUNCH_START (R433). A timed launch admits its first block at the first tick at or after TSTART. -/
  | timedLaunchStart
  /-- QUEUE_IDLE_UNMAP (R427). A queue slot idle for 256 us is unmapped. -/
  | queueIdleUnmap
  /-- LAUNCH (R432). Command that reads a launch parameter block and accepts or refuses the launch. -/
  | launch
  /-- WAIT (R429). Command that holds its queue until a completion record reaches a value. -/
  | wait
  /-- WAIT_SATISFIED (R428). A WAIT's record reaches its value and the queue proceeds. -/
  | waitSatisfied
  /-- SIGNAL (R428). Command that writes its completion record at once. -/
  | signal
  /-- LOAD (R445). Command that verifies, relocates, translates and maps a code object. -/
  | load
  /-- UNLOAD (R447). Command that restores linkage entries and unmaps a code object. -/
  | unload
  /-- RCBSYNC (R29). Command that rereads an RCB. -/
  | rcbsync
  /-- ASIDSET (R428). Command that writes an address-space table entry and invalidates the ASID. -/
  | asidset
  /-- POOL (R448). Command that attaches a device-local page pool to an RCB node. -/
  | pool
  /-- RESUME (R448). Command that retries parked faults in an address range. -/
  | resume
  /-- COMMCREATE (R415). Command that sets up a communicator and agrees its contract. -/
  | commcreate
  /-- COMMCREATE_TIMEOUT (R415). A member does not answer within the set-up timeout and set-up fails UNREACHABLE. -/
  | commcreateTimeout
  /-- COMMDESTROY (R416). Command that frees a communicator once its steps have ended. -/
  | commdestroy
  /-- FAULTQ (R448). Command that installs the interface's fault ring. -/
  | faultq
  /-- QUANTUM (R441). Command that sets the interface's time slice. -/
  | quantum
  /-- GET_MEASUREMENTS (R472). SPDM request that returns the signed measurement log. -/
  | getMeasurements
  /-- VENDOR_MEASUREMENT_BLOCK (R472). Request that returns the log with an SLH-DSA signature. -/
  | vendorMeasurementBlock
  /-- HEARTBEAT_TIMEOUT (R468). The standby complex takes over after 10 ms without a heartbeat. -/
  | heartbeatTimeout
  /-- TETHER_SYNC_LOST (R15). The device loses tether synchronisation and TSYNC reads 0. -/
  | tetherSyncLost
  /-- TETHER_SYNC_REGAINED (R15). Synchronisation returns, slewing resumes and TSYNC reads 1. -/
  | tetherSyncRegained
  /-- POWER_ON_RESET (R475). Power-on or fundamental reset runs verification, training and bring-up. -/
  | powerOnReset
  deriving DecidableEq, Repr

end Sys2Proof
end

