-- ==== Sys2Proof/Config.lean ====
section
/-!
DEFINITION. The free values of the model: constants without a body, so that no proof can see what they are, and a
statement that holds is true whatever they are. Each one stands for a point that the manual leaves open; the
assumption log names it.
-/
namespace Sys2Proof

/-- One 32-bit register of a group. `s` and `v` are the user's registers, `sb` and `vb` the banked ones of R221,
`exec` one word of a slot's EXEC (R42). -/
inductive RegCell
  | s (n : Nat)
  | sb (n : Nat)
  | v (r lane : Nat)
  | vb (r lane : Nat)
  | ix (n : Nat)
  | exec (x : SlotId) (w : Nat)
  deriving DecidableEq, Repr

/-- An error that the codes of R451 find outside a scrub: one that is corrected, or an uncorrectable one in a register, in
xa, or in word `key` of the tile that a name of a block stands for. -/
inductive Upset
  | corrected
  | register (g : GRef) (c : RegCell)
  | xa (g : GRef)
  | tile (bid name key : Nat)
  deriving DecidableEq, Repr

/-- One move of the device: a party issues its next word, or an event of the opcode table happens to a party; or what is
no row of that table: a host stores to its own memory, by physical addresses of the system range, or comes to answer reads
of some of it with an error status (R463); a host reads BAR0 of an interface (R464) or, as a port's physical function, the
telemetry (R462) or what a device without verified firmware exposes (R470); a host is attached to a port or leaves it; the codes of R451 find an error; bring-up ends a stage
(R475). -/
inductive Actor
  | issue (p : Party)
  | event (p : Party) (i : Instr)
  | hostStore (cells : List (Nat × Byte))
  | hostErrors (addrs : List Nat)
  | hostRead (vif offset len : Nat)
  | telemetryRead (port : Nat)
  | physicalRead (port offset len : Nat)
  | attach (port : Nat) (on : Bool)
  | upset (u : Upset)
  | bringUp
  deriving DecidableEq, Repr, Inhabited

namespace Config

/-- Who moves next when the state names nobody (log 2): DESIGN CHOICE, free. -/
opaque schedule : Nat → Actor

/-- By how many ticks tether time advances in a step (log 3): DESIGN CHOICE, free. -/
opaque ticks : Nat → Nat

/-- A choice that the manual leaves to the implementation, such as a core's copy engine or whether a cached translation is
still there (logs 8, 16 and 20): DESIGN CHOICE, free. -/
opaque choose : Nat → Nat

/-- Which of the results within the bound of R307 an F form delivers: a fixed function of the function, the format,
the mode, the contract and the operands (log 10): DESIGN CHOICE, free. -/
opaque fastPick (fn fmt mode contract a b : Nat) : Nat

/-- The result of an R form where the model's enclosure of the exact value does not settle the rounding (log 11):
DESIGN CHOICE, free. -/
opaque undecided (fn fmt mode contract a b : Nat) : Nat

/-- Whether both signatures of an object verify under a key (R445) or of a firmware image (R470); signature
algorithms are outside the manual (log 13): DESIGN CHOICE, free. -/
opaque signatureOk (object key : List Byte) : Bool

/-- The SHA-384 digest of bytes (R472), defined outside the manual (log 13): DESIGN CHOICE, free. -/
opaque digest (bytes : List Byte) : List Byte

/-- What the root of trust finds in a firmware image that it is asked to start (R469, R470): nothing when a signature
fails; else its security version, its version and its state-table version. The format of an image is outside the manual
(log 13): DESIGN CHOICE, free. -/
opaque firmwareImage (image : List Byte) : Option (Nat × Nat × Nat)

/-- Whether an image can import a state table of a version (R469; log 13): DESIGN CHOICE, free. -/
opaque importsTable (image : List Byte) (version : Nat) : Bool

/-- The digest of the image that complex A, or complex B, holds from its manufacture (R472; log 13): DESIGN CHOICE,
free. -/
opaque bootDigest (complexB : Bool) : List Byte

/-- The fields of a Carhal word for which an Appol instruction has no place, as the translator sets them (R449; log 29):
DESIGN CHOICE, free. -/
opaque appolFields (word0 word1 : Nat) : BitVec 64

/-- The signature over a measurement log (R472), by scheme: 0 RSASSA-PSS, 1 SLH-DSA (log 13): DESIGN CHOICE, free. -/
opaque signLog (scheme : Nat) (log : List (List Byte)) : List Byte

end Config
end Sys2Proof
end

