-- ==== Sys2Proof/Machine/State.lean ====
section
/-!
DEFINITION. The state of the LX9: everything the manual gives the device, as plain data, and the state after reset.
One structure for each thing the manual names; lists hold what varies in number, in the order in which it arose.
-/
namespace Sys2Proof.Machine

/-- A sparse table from numbers to words: keys strictly rising, no entry equal to what an unlisted key holds. -/
abbrev SMap (α : Type) := List (Nat × α)

/-- Memory: bytes by address in the one canonical form of SMap. An unlisted address reads as Memory.blank says (log 1).
Device physical addresses are below 2^50; the private memory of a group has addresses of its own above them. -/
abbrev Memory := List Host.Cell

/-- The access paths of R10. -/
inductive Path
  | p0
  | p1
  | p2
  | p3
  | p4
  deriving DecidableEq, Repr

/-- The scopes of R122. -/
inductive Scope
  | block
  | sharing
  | device
  | system
  deriving DecidableEq, Repr

/-- The SEM values of R87. -/
inductive Sem
  | plain
  | acquire
  | release
  | acqRel
  deriving DecidableEq, Repr

/-- The part of an instruction's access that one lane makes: its virtual address and length, the physical address of
each byte once translated, the registers it writes, the data and the compare value it brings, whether the ticket
unit stages it (R401), and whether its address lacks the alignment it needs (MISAL). Lane 96 stands for the whole mask,
in a form that makes one access. -/
structure LaneAcc where
  lane : Nat
  va : Nat
  len : Nat
  pas : List Nat
  dst : List RegCell
  data : Nat
  cmp : Nat
  staged : Bool
  misal : Bool
  deriving DecidableEq, Repr

/-- One lane of a Bridle instruction: its record, its token or mask address, and the register of its status. -/
structure BridleLane where
  lane : Nat
  record : Nat
  arg : Nat
  dst : RegCell
  deriving DecidableEq, Repr

/-- The operations on records of R386, with TMLOAD's control value. -/
inductive BridleOp
  | bind
  | init (image slim : Nat)
  | step
  | mask (conj : Bool)
  | query
  | save (evict : Bool)
  deriving DecidableEq, Repr

/-- One lane of SAMPLE or SARGMX: its counter, the register of the token and that of the counter. -/
structure SampleLane where
  lane : Nat
  counter : Nat
  dst : RegCell
  ctr : RegCell
  deriving DecidableEq, Repr

/-- The descriptor of SAMPLE and SARGMX (R395), with top-k. -/
structure SampleDesc where
  log : Nat
  msk : Nat
  lstr : Nat
  sbase : Nat
  vocab : Nat
  bf : Bool
  temp : Nat
  topk : Nat
  draws : Bool
  /-- RKEY at issue. -/
  key : Nat
  deriving DecidableEq, Repr

/-- The ticket instructions of R410. -/
inductive TicketOp
  | beg
  | fin
  | wait
  | pass
  deriving DecidableEq, Repr

/-- What an outstanding operation does when it is performed. -/
inductive Body
  /-- An ordering point only (R126). -/
  | order
  | load
  | store
  /-- An atomic; `aop` is AOP of R88, `cas` a compare-and-swap, `wide` W64. -/
  | atomic (aop : Nat) (cas wide : Bool)
  | prefetch
  | sgJoin (d : RegCell) (req : Word)
  | sgLeave (d : RegCell)
  | sgQuery (d : RegCell)
  /-- The rest of SGLEAVE: accesses already translated through the leaver `bid`'s slot are performed (R262). -/
  | sgDrain (bid : Nat)
  | pfmap (d0 d1 : RegCell) (va : Nat)
  | tlbi (kind asid va : Nat) (dev : Bool)
  /-- MBAR, or the arrival of MARRW (R352). -/
  | arrive (bar count : Nat)
  | bridle (op : BridleOp) (lanes : List BridleLane)
  | sample (desc : SampleDesc) (lanes : List SampleLane)
  | emit (node : Nat) (d : RegCell) (recs : List (Nat × Nat))
  | ticket (op : TicketOp) (key : Word) (d : RegCell)
  /-- A copy in flight, which ends by its own events. -/
  | copy (cid : Nat)
  /-- A reduction step in flight. -/
  | step (comm k : Nat)
  deriving DecidableEq, Repr

/-- A staged access (R402): the group that made it, and its operation's place in program order. -/
structure Staged where
  gid : Nat
  ser : Nat
  deriving DecidableEq, Repr

/-- R151: an operation outstanding is waiting on its edges, faulted, or held; or it is performed at block scope behind a
staged access that is not released, and stays as a link of the chain of edges (R124, R403). -/
inductive PendSt
  | waiting
  | faulted
  | held
  | passed
  deriving DecidableEq, Repr

/-- An instruction of a group that has issued and is not yet performed (R127), or that a slot is having translated
(R230). `ser` is its place in program order (R121). `got` holds the bytes that its pieces have read or written while others
are left (R146). `behind` lists the staged accesses not yet released that a link of a chain stands behind (R124, R403). -/
structure Pend where
  ser : Nat
  slot : SlotId
  pc : DWord
  iword : DWord
  clidx : Nat
  q : Option Nat
  pm : BitVec 8
  x : Bool
  path : Path
  scope : Scope
  sem : Sem
  mask : Lanes
  accs : List LaneAcc
  body : Body
  got : List (Nat × Byte)
  st : PendSt
  behind : List Staged
  deriving DecidableEq, Repr

/-- What a slot in state 3 waits for (R193, R220). -/
inductive Wait
  /-- BBAR, for a generation of the block barrier. -/
  | block (gen : Nat)
  /-- GBAR, for a generation of the grid barrier. -/
  | grid (gen : Nat)
  /-- MWAIT. -/
  | barrier (b : Nat)
  /-- MARRW, whose arrival is the operation `ser`. -/
  | arrived (b ser : Nat)
  /-- A clause header's WB field. -/
  | header (b : Nat)
  /-- CPWAIT on a handle until its write pointer reaches `target`. -/
  | copy (handle target : Nat)
  /-- TKBEG or TKWAIT, the operation `ser`. -/
  | ticket (ser : Nat)
  /-- TWAIT until tether time `t`. -/
  | time (t : Nat)
  deriving DecidableEq, Repr

/-- The states of a slot (R193); a slot waiting at a join keeps the outer rejoin of its BJOIN (R214). -/
inductive SlotSt
  | empty
  | running
  | atJoin (outer : DWord)
  | atEvent (w : Wait)
  deriving DecidableEq, Repr

/-- A clause in progress: header address, class, words, the position of the next instruction, SCK and SIG, and whether
it was entered at its header (R82). -/
structure Clause where
  hdr : DWord
  cls : Nat
  words : List DWord
  pos : Nat
  sck : Bool
  sig : BitVec 16
  whole : Bool
  deriving DecidableEq, Repr

/-- The value a register held before a fixed-latency result, and the clause clock from which the result is seen
(R99). -/
structure Shadow where
  cell : RegCell
  old : Word
  vis : Nat
  deriving DecidableEq, Repr

/-- A pending FPEXC (R297, R298). -/
structure Fpx where
  clidx : Nat
  pc : DWord
  iword : DWord
  lanes : Lanes
  deriving DecidableEq, Repr

/-- An arrival that the instruction at the resume PC has made (R220), and the generation it arrived at. -/
inductive Arrival
  | block (gen : Nat)
  | grid (gen : Nat)
  | marrw (b ser : Nat)
  /-- A frame's ARRA or ARRB without a record of its own: the group's latest arrival. -/
  | latest
  deriving DecidableEq, Repr

/-- Why a slot is parked: an operation of its group is faulted, or a fetch, or the entry read of CALLT (R210, R232,
R254), with the faulting address. -/
inductive ParkWhy
  | access (ser : Nat)
  | fetch
  | entry
  deriving DecidableEq, Repr

structure Park where
  why : ParkWhy
  va : Nat
  since : Nat
  deriving DecidableEq, Repr

/-- What an instruction that was to issue waits for: registers that operations outstanding will write, a stream's counter
(R128), a copy slot of the core (R324), a step slot of a communicator (R418), or earlier accesses of the group (R46,
R139, R153, R210). -/
inductive Hold
  | order
  | cells (cs : List RegCell)
  | stream (n : Nat)
  | copySlot
  | step (comm : Nat)
  deriving DecidableEq, Repr

/-- One slot of a group (R193). -/
structure Slot where
  st : SlotSt
  pc : DWord
  exec : Lanes
  own : Lanes
  rj : DWord
  sig : BitVec 16
  clause : Option Clause
  clock : Nat
  shadows : List Shadow
  fpx : Option Fpx
  arrived : Option Arrival
  walk : Option Pend
  park : Option Park
  /-- ERET has resumed the path at its PC, which may lie inside a clause (R223). -/
  resumed : Bool
  /-- Why the instruction at the PC has not issued when it was to (R49, R79). -/
  hold : Option Hold
  /-- The step in which its wait began (R351). -/
  since : Nat
  deriving DecidableEq, Repr

/-- A slot that holds no path. -/
def Slot.vacant : Slot where
  st := .empty
  pc := 0
  exec := 0
  own := 0
  rj := 0
  sig := 0xFFFF
  clause := Option.none
  clock := 0
  shadows := []
  fpx := Option.none
  arrived := Option.none
  walk := Option.none
  park := Option.none
  resumed := false
  hold := Option.none
  since := 0

/-- A single step that ERET has armed (R227). -/
inductive StepSt
  | off
  | armed (x : SlotId)
  deriving DecidableEq, Repr

/-- A group and its registers (06, 04 R127, 05 R188, 09 R319). -/
structure Group where
  /-- s0 to s127; k0 to k6 are s104 to s124 (R195). Unlisted registers hold 0. -/
  s : SMap Word
  /-- The banked s96 to s103 (R221). -/
  sb : SMap Word
  /-- v0 to v127: lane j of v(r) has key 96 r + j. -/
  v : SMap Word
  /-- The banked v124 to v127 (R221). -/
  vb : SMap Word
  ix : SMap Word
  slotA : Slot
  slotB : Slot
  /-- Tail-stack depth (R44). -/
  depth : Nat
  /-- The outer rejoin of each BJOIN that a path of the group has reached, by the address of its word (R215). -/
  outers : SMap DWord
  /-- The value of xa, 640 bits (R188). -/
  xa : BitVec 640
  /-- The status word of xa (R189). -/
  xaStat : BitVec 5
  rkey : DWord
  /-- R13's holding word, while it is live. -/
  timeHold : Option Word
  cmixctl : Word
  fpctl : Word
  gstat : Word
  /-- Registers that hold an uncorrectable error, and whether xa does (R452). -/
  bad : List RegCell
  xaBad : Bool
  tframe : Word
  tvec : Word
  tcode : Word
  sbchk : Word
  dbgsel : Word
  /-- R227: the single step ERET has armed. -/
  step : StepSt
  /-- The arrivals of slots A and B that a trap frame's ARRA and ARRB stand for (R220). -/
  keptA : Option Arrival
  keptB : Option Arrival
  /-- Place in program order of the next instruction (R121). -/
  ser : Nat
  /-- Operations outstanding, in program order (R127). -/
  pend : List Pend
  /-- Faulted and held accesses set aside at trap entry (R152). -/
  aside : List Pend
  /-- The place in program order at which the handler was entered: what comes before it was there already (R152). -/
  trapSer : Nat
  /-- The instruction that entered the first-touch handler (R255, R258). -/
  trapped : Option Pend
  /-- Copy instructions issued so far, modulo 4096 (R326). -/
  copySeq : Nat
  /-- Arrivals made at the block barrier and at the grid barrier (R64, R66). -/
  bbArr : Nat
  gbArr : Nat
  /-- Since when the group has been parked as a whole (R55). -/
  parkedSince : Option Nat
  /-- A return from a handler has yet to refill the slots, behind an access to the tail stack (R46, R223). -/
  refillDue : Bool
  exited : Bool
  deriving DecidableEq, Repr

/-- One numbered barrier (R349): SEEN of each group, of the sequencer, of the gang port. -/
structure Barrier where
  cnt : Nat
  gen : Nat
  seenG : SMap Nat
  seenS : Nat
  seenP : Nat
  deriving DecidableEq, Repr

/-- A physical accumulator tile: word (r, c) has key 64 r + c; unlisted words are 0. -/
abbrev Tile := SMap Word

/-- A matrix context runs, has stopped at a trap it has raised until the word is retried, or is parked on a fault
(R347). -/
inductive SeqSt
  | running
  | trapped
  | parked (va since : Nat)
  deriving DecidableEq, Repr

/-- A matrix word that has begun and is not finished (R345, R348): the word and its address, the values of its address
registers, its auxiliary record, whether its bytes are checked and read since it began or was resumed, the operand bytes
by address, those of B apart since they may be another block's (R367), the physical address of each destination byte, the
tiles a drain has read, the names that stand for the word's tiles (R356), the first band not committed, its drain phase,
and the step in which it began. -/
structure MWork where
  iword : DWord
  addr : DWord
  hA : Nat
  hSA : Nat
  hB : Nat
  hSB : Nat
  hX : Nat
  aux : List Byte
  ready : Bool
  data : List (Nat × Byte)
  dataB : List (Nat × Byte)
  dest : List (Nat × Nat)
  tiles : List Tile
  named : List Nat
  mrp : Nat
  phase : Nat
  ord : Nat
  deriving DecidableEq, Repr

/-- A part of a ganged word held for a member (R366, R367). `begun` once it has taken its barrier generation, `named` once its
bytes have been checked and its tile, under ZS, has been renamed. -/
structure GangPart where
  leader : Nat
  work : MWork
  begun : Bool
  named : Bool
  st : SeqSt
  deriving DecidableEq, Repr

/-- A part that its leader has yet to deliver, and the member it is for (R366). -/
structure Undelivered where
  member : Nat
  work : MWork
  deriving DecidableEq, Repr

/-- A block's matrix sequencer context (R344). -/
structure Sequencer where
  pc : DWord
  h : SMap DWord
  phase : Nat
  st : SeqSt
  /-- MEND has been executed, or the block has exited (R346). -/
  ended : Bool
  /-- The word has taken its barrier generation, so that a retry does not take another (R347). -/
  taken : Bool
  work : Option MWork
  drains : List MWork
  deriving DecidableEq, Repr

/-- Why a block is not on a core (R55). -/
inductive SwapWhy
  | parked
  /-- Arrived at the grid barrier's generation `gen` (R67). -/
  | grid (gen : Nat)
  | wound
  deriving DecidableEq, Repr

/-- Where a block is. -/
inductive Place
  | resident
  | swapped (why : SwapWhy)
  | preempted
  | exited
  /-- Removed by a kill or a rollback (R30, R456). -/
  | gone
  deriving DecidableEq, Repr

/-- A block (02 R31 to R72). -/
structure Block where
  lid : Nat
  node : Option Nat
  /-- The batch's segment, for a node block (R438). -/
  segment : Nat
  bseq : Nat
  bx : Nat
  by_ : Nat
  bz : Nat
  place : Place
  core : Nat
  /-- The core's group slots that its groups hold, in GID order (R34). -/
  slots : List Nat
  /-- Order of admission to its core (R51). -/
  age : Nat
  /-- Offset of its sheet share in the core's slice (R118). -/
  shareOff : Nat
  shareLen : Nat
  /-- The share's bytes while the block is in its ballast area, by offset (R57). -/
  savedShare : Memory
  groups : List Group
  bars : List Barrier
  staged : List Staged
  /-- Window slots revoked for this block, or all of them (R262). -/
  revoked : List Nat
  seqr : Option Sequencer
  tiles : SMap Tile
  /-- Words of tiles that hold an uncorrectable error, by name and key (R452). -/
  badTiles : List (Nat × Nat)
  parts : List GangPart
  undelivered : List Undelivered
  /-- Poisoned words of the share, by offset, while the block is in its ballast area (R452). -/
  savedPoison : List Nat
  /-- Since when the block has been ready for re-admission (R39). -/
  waiting : Option Nat
  /-- Tiles its MALLOC waits for (R69). -/
  wants : Nat
  /-- Free tiles of its core that a wounded block has left for it (R69). -/
  owed : Nat
  deriving DecidableEq, Repr

/-- A record of 16-byte completion (R430) and the value to write. -/
structure SignalRef where
  addr : Nat
  value : DWord
  deriving DecidableEq, Repr

/-- A node of a work graph (R436). -/
structure Node where
  codeh : Nat
  entry : Nat
  kernelPc : DWord
  mseqPc : Option DWord
  rsz : Nat
  timer : Nat
  nsreg : Nat
  nvreg : Nat
  acc : Nat
  sheet : Nat
  cap : Nat
  buf : Nat
  nargs : Nat
  bufva : Nat
  deriving DecidableEq, Repr

/-- A batch of a node: its segment, its records in gather order, when it opened (R438). -/
structure Batch where
  segment : Nat
  recs : List (List Byte)
  opened : Nat
  deriving DecidableEq, Repr

/-- The gather state of a node: the open batch, the closed batches not yet started, batches closed so far. -/
structure Gather where
  current : Option Batch
  closed : List (Nat × Batch)
  count : Nat
  /-- Since when its oldest closed batch has waited for room (R39). -/
  waiting : Option Nat
  deriving DecidableEq, Repr

/-- A unit copied aside: its address, its old contents, and its words that were poisoned (R452, R454). -/
structure SnapUnit where
  base : Nat
  bytes : List Byte
  poison : List Nat
  deriving DecidableEq, Repr

/-- The states of a launch (02 R40, 14 R433, R435). -/
inductive LaunchSt
  /-- A timed launch before TSTART. -/
  | timed
  | running
  | completed
  | killed
  | refused (status : Nat)
  deriving DecidableEq, Repr

/-- A launch and the fields of its parameter block (R432). -/
structure Launch where
  st : LaunchSt
  vif : Nat
  queue : Nat
  cmd : Nat
  lpb : Nat
  codeh : Nat
  entry : Nat
  kernelPc : DWord
  mseqPc : Option DWord
  gx : Nat
  gy : Nat
  gz : Nat
  ngrp : Nat
  trav : Nat
  swz : Nat
  contract : Nat
  det : Bool
  gridbar : Bool
  timed : Bool
  nsreg : Nat
  nvreg : Nat
  taild : Nat
  acc : Nat
  snap : Bool
  retry : Nat
  sheet : Nat
  stage : Nat
  args : DWord
  rcb : Nat
  asid : Nat
  signal : SignalRef
  tstart : Nat
  late : Bool
  seed : DWord
  tvec : Word
  nodes : List Node
  gathers : List Gather
  /-- The BSEQ of the next first admission (R37). -/
  nextBseq : Nat
  /-- Since when its next candidate has waited for room (R39). -/
  waiting : Option Nat
  /-- Grid-barrier generations released (R66). -/
  gridGen : Nat
  /-- Snapshot units taken in this run (R454). -/
  units : List SnapUnit
  /-- The launch can be rolled back (R454, R455). -/
  replayable : Bool
  replays : Nat
  /-- PFMAP's pages of this run: address and size (R456). -/
  mapped : List (Nat × Nat)
  /-- Reduction steps it has issued: communicator and step (R459). -/
  steps : List (Nat × Nat)
  deriving DecidableEq, Repr

/-- A copy's state of R342. -/
inductive CopySt
  | armed
  | running
  | paused
  | done
  | stopped
  deriving DecidableEq, Repr

/-- A chunk that a copy has translated and checked, or a source tile (R331, R336): its source bytes by virtual address and
its destination bytes by offset, each with the physical address, the source bytes read so far and the offsets written
(R332). -/
structure ChunkWork where
  src : List (Nat × Nat)
  dst : List (Nat × Nat)
  got : List (Nat × Byte)
  put : List Nat
  deriving DecidableEq, Repr

/-- A copy (10 R326 to R342). -/
structure Copy where
  owner : GRef
  ser : Nat
  core : Nat
  handle : Nat
  src : Nat
  dst : Nat
  /-- Elements per row, or bytes, or ROWE (R327). -/
  len : Nat
  rows : Nat
  sstr : Int
  dstr : Int
  xf : Nat
  ty : Nat
  sfmt : Nat
  timed : Option Nat
  /-- It runs on this package engine, not on the core's channel (R325). -/
  engine : Option Nat
  /-- CMIXCTL.MISS at issue (R338). -/
  miss : Bool
  st : CopySt
  cause : Nat
  wp : Nat
  /-- Its edge-predecessors are performed, so that a timed start alone holds it (R337). -/
  set : Bool
  late : Bool
  cmixs : Bool
  cancel : Bool
  /-- The source tile, read whole under XF = 2 (R336). -/
  tile : Option (List Byte)
  /-- The chunk in progress, or the tile that is being read. -/
  work : Option ChunkWork
  deriving DecidableEq, Repr

/-- A cached translation and where it is kept (R250). -/
inductive TlbPlace
  | lane (g : GRef) (lane : Nat)
  | core (c : Nat)
  | die (d : Nat)
  deriving DecidableEq, Repr

structure TlbEntry where
  at_ : TlbPlace
  asid : Nat
  global : Bool
  base : Nat
  size : Nat
  /-- The leaf entry, and the physical address of the entry itself. -/
  leaf : DWord
  ptr : Nat
  deriving DecidableEq, Repr

/-- An RCB as the front end last read it (R24, R29). -/
structure Rcb where
  addr : Nat
  kind : Nat
  prio : Nat
  ovr : BitVec 16
  fdom : Nat
  parent : Nat
  cores : Nat
  acct : Nat
  drambw : Nat
  parkt : Nat
  sheetb : Nat
  balbase : Nat
  balsize : Nat
  asid : Nat
  deriving DecidableEq, Repr

/-- Who holds a reservation in a ballast area (R58, R59, R454). -/
inductive BallastUse
  | image (bid : Nat)
  | faults (bid : Nat)
  | snapshot (lid : Nat)
  deriving DecidableEq, Repr

/-- A reservation: the launch-region RCB on whose path it is charged (R27), its size and its use. -/
structure Reservation where
  rcb : Nat
  size : Nat
  use : BallastUse
  deriving DecidableEq, Repr

/-- An attached pool and the pages taken from it (R448). -/
structure Pool where
  rcb : Nat
  base : Nat
  size : Nat
  taken : List (Nat × Nat)
  deriving DecidableEq, Repr

/-- A kernel of a code object (R444). -/
structure Kernel where
  name : List Byte
  code : Nat
  mseq : Option Nat
  contract : Nat
  sreg : Nat
  vreg : Nat
  acc : Nat
  sheet : Nat
  args : Nat
  deriving DecidableEq, Repr

/-- A translation of an Appol kernel in the translated-code window (R450). -/
structure Translation where
  kernel : Nat
  nsreg : Nat
  nvreg : Nat
  addr : Nat
  len : Nat
  deriving DecidableEq, Repr

/-- A loaded code object (R443 to R447). -/
structure CodeObj where
  handle : Nat
  vif : Nat
  asid : Nat
  base : Nat
  appol : Bool
  needc : BitVec 8
  /-- The object's bytes, for the deferred steps of a LAZY load and for translations. -/
  bytes : List Byte
  deferred : Bool
  kernels : List Kernel
  symbols : List (List Byte × Nat)
  links : List (List Byte)
  linkBase : Nat
  /-- Mapped ranges: virtual address, length and the DRAM that holds them. -/
  ranges : List (Nat × Nat × Nat)
  /-- Linkage entries that the bind service has set: their address and the symbol's object (R447). -/
  bound : List (Nat × Nat)
  /-- Handles of the objects whose symbols its relocations name (R444). -/
  uses : List Nat
  translations : List Translation
  deriving DecidableEq, Repr

/-- A chain record (R408); `node` tells a work graph's node blocks, which count their own BSEQ, apart (R436). -/
structure Chain where
  key : Word
  lid : Nat
  node : Option Nat
  nxt : Nat
  implicit : Bool
  deriving DecidableEq, Repr

/-- A sharing-group record (R260). -/
structure Sharing where
  lid : Nat
  num : Nat
  members : SMap Nat
  deriving DecidableEq, Repr

/-- A bound automaton record of a Bridle (R380, R381). `va`, `asid` and `binder` are those under which it was bound,
`header` is the image's header as read then (R374). -/
structure Bound where
  pa : Nat
  va : Nat
  asid : Nat
  binder : GRef
  bridle : Nat
  image : Nat
  header : List Byte
  state : Nat
  depth : Nat
  slim : Nat
  ended : Bool
  steps : Nat
  lasttok : Nat
  stack : List Nat
  lastUse : Nat
  lids : List Nat
  /-- A write-back of it has faulted and is reported (R393). -/
  stuck : Bool
  deriving DecidableEq, Repr

/-- The states of a reduction step (R422). -/
inductive StepRun
  | armed
  | running
  | done
  | failed
  deriving DecidableEq, Repr

/-- A reduction step (R417 to R421). -/
structure RedStep where
  k : Nat
  owner : GRef
  lid : Nat
  ser : Nat
  src : Nat
  dst : Nat
  count : Nat
  op : Nat
  ty : Nat
  kind : Nat
  timed : Option Nat
  miss : Bool
  st : StepRun
  cause : Nat
  /-- Its edge-predecessors are performed, so that a timed start or another rank alone holds it. -/
  set : Bool
  late : Bool
  cmixs : Bool
  /-- While it is RUNNING (R420, R421): the result for this rank, the physical addresses of the destination, and the elements
  that are written. -/
  out : List Byte
  dest : List Nat
  put : List Nat
  /-- While it is paused (R419): the page of which this rank has reported a parked fault. -/
  told : Option Nat
  deriving DecidableEq, Repr

/-- A communicator record (R414 to R416). -/
structure Comm where
  handle : Nat
  vif : Nat
  desc : Nat
  cmd : Nat
  nrank : Nat
  rank : Nat
  allow : Nat
  members : List Nat
  tag : Nat
  agreed : Nat
  /-- Set-up has ended well. -/
  live : Bool
  /-- Set-up is still waiting for answers. -/
  opening : Bool
  closing : Bool
  nextStep : Nat
  steps : List RedStep
  deriving DecidableEq, Repr

/-- A command that has started and is not completed (R428, R429). -/
structure Cmd where
  vif : Nat
  queue : Nat
  idx : Nat
  opc : Nat
  arg0 : Nat
  arg1 : Nat
  arg2 : Nat
  signal : SignalRef
  deriving DecidableEq, Repr

/-- A hardware queue slot (R425 to R427). -/
structure QSlot where
  vif : Nat
  queue : Nat
  base : Nat
  size : Nat
  prio : Nat
  rdidx : Nat
  wridx : Nat
  /-- When its last doorbell was taken. -/
  dbTime : Nat
  deriving DecidableEq, Repr

/-- A queue that waits on the overflow list, with its last doorbell (R427). -/
structure Overflow where
  vif : Nat
  queue : Nat
  wridx : Nat
  dbTime : Nat
  deriving DecidableEq, Repr

/-- A parked-fault record (R448). -/
structure FaultRec where
  addr : Nat
  asid : Nat
  kind : Nat
  core : Nat
  lpb : Nat
  deriving DecidableEq, Repr

/-- An aperture request that is under way (R466): its ASID and virtual address, its physical bytes, the bytes that a write stores, and
what has been read or written so far. -/
structure ApertureWork where
  asid : Nat
  va : Nat
  pas : List Nat
  data : Option (List Byte)
  got : List (Nat × Byte)
  deriving DecidableEq, Repr

/-- A virtual interface (R461, R465). -/
structure Vif where
  port : Nat
  /-- The aperture request of more than one piece that is under way: the interface's later requests wait for it (R464). -/
  aperture : Option ApertureWork
  qtbase : DWord
  rootRcb : DWord
  asidr : DWord
  apctl : DWord
  apva : DWord
  vistat : DWord
  quantum : Nat
  /-- When its partition last began to run (R441). -/
  sliceStart : Nat
  faultRing : Option (Nat × Nat)
  fseq : Nat
  faultWait : List FaultRec
  keys : List (Word × List Byte)
  measured : List (List Byte)
  deriving DecidableEq, Repr

/-- The group scheduler and the gondola of a core (R48 to R52, R440). -/
structure Core where
  /-- The active set, in the order in which the groups entered it. -/
  active : List GRef
  /-- The pending set, each group with the time since when it has been ready. -/
  pending : List (GRef × Nat)
  lastExchange : Nat
  /-- Slots in the middle of a clause that is not suspended (R79). -/
  inClause : List (GRef × SlotId)
  /-- The pre-empted blocks whose context is in the gondola. -/
  gondola : List Nat
  deriving DecidableEq, Repr

/-- The fused configuration of the part (01 R7, R18 to R22). -/
structure Part where
  stepping : Nat
  ncore : Nat
  dieCores : List Nat
  lmaps : List (Word × Word)
  cpos : List Word
  dchan : BitVec 256
  links : BitVec 16
  /-- The port whose physical function is owner while port 0 is not attached (R462). -/
  ownerAlone : Nat
  /-- The anti-rollback counter (R470). -/
  rollback : Nat
  /-- The pod device identifier (R414, R415). -/
  podId : Nat
  deriving DecidableEq, Repr

/-- A firmware image that a complex holds (R467, R470): whether both of its signatures verify, its versions, and the digest
of an image that a live update has brought; one without is the image that the complex was made with. -/
structure FwImage where
  signed : Bool
  security : Nat
  version : Nat
  tableVersion : Nat
  digest : Option (List Byte)
  deriving DecidableEq, Repr

/-- The state table (R467): its version, queue slots with their RDIDX, each launch's state and next BSEQ, communicator
records, chain records, and the fault ring position of each interface. -/
structure StateTable where
  version : Nat
  queues : SMap QSlot
  launches : List (LaunchSt × Nat)
  comms : List Comm
  chains : List Chain
  rings : List Nat
  deriving DecidableEq, Repr

/-- An entry of the measurement log for firmware (R472): the image that a complex was made with, or a later one's digest. -/
inductive Measured
  | made (complexB : Bool)
  | digest (d : List Byte)
  deriving DecidableEq, Repr

/-- The firmware complexes (R467 to R470). -/
structure Firmware where
  activeB : Bool
  okA : Bool
  okB : Bool
  imageA : FwImage
  imageB : FwImage
  /-- The last state table that the active complex has written. -/
  table : StateTable
  measured : List Measured
  /-- The management owner's port (R462). -/
  owner : Nat
  deriving DecidableEq, Repr

/-- The image that runs in the active complex. -/
def Firmware.running (f : Firmware) : FwImage := if f.activeB then f.imageB else f.imageA

/-- The telemetry counters of R474. -/
structure Telemetry where
  temp : DWord
  pwr : DWord
  energy : DWord
  ecccor : DWord
  eccunc : DWord
  sigmisn : DWord
  replayn : DWord
  noreplay : DWord
  deriving DecidableEq, Repr

/-- What the device has answered to the outside. -/
inductive Answer
  /-- An aperture read's bytes, or an aperture request that completed (R466). -/
  | aperture (vif : Nat) (bytes : List Byte)
  /-- Bytes that a physical function of a device without verified firmware reads (R470). -/
  | unverified (port : Nat) (bytes : List Byte)
  /-- Bytes of BAR0 (R464, R465). -/
  | registers (vif : Nat) (bytes : List Byte)
  /-- The counters of R474, for a physical function (R462). -/
  | telemetry (port : Nat) (counters : List DWord)
  | unsupported (vif : Nat)
  | denied (fn : Requester)
  | accepted (fn : Requester)
  | refusedUpdate (fn : Requester)
  /-- A measurement log and its signature (R472). -/
  | measurements (fn : Requester) (log : List (List Byte)) (signature : List Byte)
  deriving DecidableEq, Repr

/-- The whole device. -/
structure State where
  /-- Who moves next; when empty, a free value chooses (log 2). The model's own. -/
  turn : List Actor
  /-- Who acts in this step. The model's own. -/
  issuer : Party
  /-- Counter of free values. The model's own. -/
  fresh : Nat
  /-- Tether time in ticks (R12). -/
  time : Nat
  tsync : Bool
  /-- Bring-up stage reached (R475). -/
  stage : Nat
  stopped : Bool
  /-- Ports to which a host is attached (R462). -/
  attached : List Bool
  part : Part
  /-- CRETIRE (R18, R23). -/
  cretire : BitVec 256
  powerLimit : Nat
  throttled : Bool
  mem : Memory
  /-- Addresses of poisoned words (R452). -/
  poison : List Nat
  /-- Addresses of host memory whose reads complete with an error status (R463). -/
  hostErrs : List Nat
  /-- The address-space table: valid entries, ASID to root table address (R242). -/
  asids : SMap Nat
  tlb : List TlbEntry
  vifs : List Vif
  queues : SMap QSlot
  /-- For each service priority, the queue slot served last (R429). -/
  served : SMap Nat
  overflow : List Overflow
  cmds : List Cmd
  rcbs : List Rcb
  ballast : List Reservation
  pools : List Pool
  codes : List CodeObj
  /-- DRAM that firmware has taken for objects and tables: address and size (R445; log 17). -/
  fwPages : List (Nat × Nat)
  launches : List Launch
  blocks : List Block
  cores : List Core
  copies : List Copy
  chains : List Chain
  sharing : List Sharing
  comms : List Comm
  bound : List Bound
  firmware : Firmware
  telem : Telemetry
  out : List Answer
  deriving DecidableEq, Repr

/-- Reasons for the device to stop. -/
inductive Fault
  /-- An instruction word was given to `exec` while no slot or sequencer acts. Raised by every meaning of a word;
  `step` never raises it. Safe: the machine stops where nothing of the manual is said. -/
  | noIssuer
  /-- A step of a device that has stopped at 115 °C and lost every launch (R473). Raised by `step`. Safe: the manual
  says that the host must reset it. -/
  | shutDown
  deriving DecidableEq, Repr

/-- Instructions without a meaning. -/
inductive Refusal
  /-- The instruction has no meaning in this model yet. Raised by `exec`'s arms. Safe. -/
  | notModelled (mnemonic : String)
  deriving DecidableEq, Repr

/-- The answer of a step. -/
abbrev Result := Host.Outcome State Fault Refusal

/-- DCAP, the bytes of DRAM: 1.5 GiB for each enabled channel (R9, R22). -/
def Part.dcap (p : Part) : Nat := 3 * 2 ^ 29 * (List.range 256).countP fun i => p.dchan.getLsbD i

/-- The die of a core, as CPOS gives it (R18). -/
def Part.dieOf (p : Part) (core : Nat) : Nat := ((p.cpos[core]?).map fun w => w.toNat % 8).getD 0

/-- The full part: 256 cores, every lane good, 32 cores on each die (DESIGN CHOICE, log 4). Core c of a die stands at
the (c + 1)-th mesh stop in order of y, then x, past the die agent at (0, 0). -/
def Part.full : Part where
  stepping := 0
  ncore := 256
  dieCores := List.replicate 8 32
  lmaps := List.replicate 256 (0xFFFFFFFF, 0xFFFFFFFF)
  cpos := (List.range 256).map fun c =>
    BitVec.ofNat 32 (c / 32 + 8 * ((c % 32 + 1) % 6) + 64 * ((c % 32 + 1) / 6))
  dchan := BitVec.allOnes 256
  links := 0xFFFF
  ownerAlone := 0
  rollback := 0
  podId := 0

/-- An interface after reset (R465). ROOTRCB and ASIDR are firmware's: interface n has its RCB at 0x1_0000 + 256 n and
four ASIDs from 4 n, the first interface three from 1 since ASID 0 is firmware's (R26; DESIGN CHOICE, log 6). Even interfaces are on port 0, odd ones on port 1 (log 6). -/
def Vif.reset (n : Nat) : Vif where
  port := n % 2
  aperture := none
  qtbase := 0
  rootRcb := BitVec.ofNat 64 (0x10000 + 256 * n)
  asidr := BitVec.ofNat 64 ((if n = 0 then 1 else 4 * n) + 256 * (if n = 0 then 3 else 4))
  apctl := 0
  apva := 0
  vistat := 0
  quantum := 0
  sliceStart := 0
  faultRing := none
  fseq := 0
  faultWait := []
  keys := []
  measured := []

/-- The device root's RCB as firmware writes it (R26), at address 0xFF00 (DESIGN CHOICE, log 6). -/
def Rcb.root (p : Part) : Rcb where
  addr := 0xFF00
  kind := 1
  prio := 15
  ovr := 0x1FF
  fdom := 0
  parent := 0
  cores := p.ncore
  acct := 48 * p.ncore
  drambw := 1024
  parkt := 16
  sheetb := 0x600000 * p.ncore
  balbase := 0
  balsize := 0
  asid := 0

/-- The RCB of virtual interface n as firmware writes it (R26): an ASID within its range and a ballast area of its own,
1 GiB of the 64 GiB that begin 128 GiB below the end of DRAM (DESIGN CHOICE, log 6). -/
def Rcb.interface (p : Part) (n : Nat) : Rcb where
  addr := 0x10000 + 256 * n
  kind := 2
  prio := 0
  ovr := 0x180
  fdom := 0
  parent := 0xFF00
  cores := 0
  acct := 0
  drambw := 0
  parkt := 0
  sheetb := 0
  balbase := p.dcap - (128 - n) * 2 ^ 30
  balsize := 2 ^ 30
  asid := if n = 0 then 1 else 4 * n

/-- An image that verifies (log 5). -/
def FwImage.reset : FwImage := ⟨true, 0, 0, 0, none⟩

/-- A state table with nothing in it but the ring positions of 64 interfaces. -/
def StateTable.reset : StateTable := ⟨0, [], [], [], [], List.replicate 64 0⟩

/-- A core with no group. -/
def Core.reset : Core where
  active := []
  pending := []
  lastExchange := 0
  inClause := []
  gondola := []

/-- The device right after reset: bring-up done, nothing launched (R475; log 5). -/
def State.reset : State where
  turn := []
  issuer := .nobody
  fresh := 0
  time := 0
  tsync := false
  stage := 5
  stopped := false
  attached := [true, true]
  part := Part.full
  cretire := 0
  powerLimit := 2400
  throttled := false
  mem := []
  poison := []
  hostErrs := []
  asids := []
  tlb := []
  vifs := (List.range 64).map Vif.reset
  queues := []
  served := []
  overflow := []
  cmds := []
  rcbs := Rcb.root Part.full :: (List.range 64).map (Rcb.interface Part.full)
  ballast := []
  pools := []
  codes := []
  fwPages := []
  launches := []
  blocks := []
  cores := List.replicate 256 Core.reset
  copies := []
  chains := []
  sharing := []
  comms := []
  bound := []
  firmware := { activeB := false, okA := true, okB := true, imageA := FwImage.reset, imageB := FwImage.reset,
                table := StateTable.reset, measured := [.made false, .made true], owner := 0 }
  telem := { temp := 0, pwr := 0, energy := 0, ecccor := 0, eccunc := 0, sigmisn := 0, replayn := 0, noreplay := 0 }
  out := []

end Sys2Proof.Machine
end

