-- ==== Sys2Proof/Machine/Assoc.lean ====
section
/-!
DEFINITION. Reading and writing the sparse tables of State (registers, memory, tables by number) in their one
canonical form, and bytes and little-endian numbers in memory (R4).
-/
namespace Sys2Proof.Machine

/-- The value of key `k`; an unlisted key holds `d`. -/
def assocGet {α : Type} (d : α) : List (Nat × α) → Nat → α
  | [], _ => d
  | (a, x) :: r, k => if k = a then x else assocGet d r k

/-- The table with key `k` set to `v`, in canonical form. -/
def assocSet {α : Type} [DecidableEq α] (d : α) : List (Nat × α) → Nat → α → List (Nat × α)
  | [], k, v => if v = d then [] else [(k, v)]
  | (a, x) :: r, k, v =>
    if k < a then (if v = d then (a, x) :: r else (k, v) :: (a, x) :: r)
    else if k = a then (if v = d then r else (k, v) :: r)
    else (a, x) :: assocSet d r k v

/-- The table with an entry for key `k`, whatever its value. -/
def assocPut {α : Type} : List (Nat × α) → Nat → α → List (Nat × α)
  | [], k, v => [(k, v)]
  | (a, x) :: r, k, v =>
    if k < a then (k, v) :: (a, x) :: r else if k = a then (k, v) :: r else (a, x) :: assocPut r k v

/-- The table without key `k`. -/
def assocDel {α : Type} (m : List (Nat × α)) (k : Nat) : List (Nat × α) := m.filter fun p => p.1 ≠ k

/-- The value of key `k`, if the table lists it. -/
def assocFind {α : Type} (m : List (Nat × α)) (k : Nat) : Option α := (m.find? fun p => p.1 = k).map Prod.snd

/-- Every key of the table is above `b`. -/
def keysAbove {α : Type} (b : Nat) (m : List (Nat × α)) : Prop := ∀ p ∈ m, b < p.1

/-- The canonical form: keys strictly rising, no entry equal to what an unlisted key holds, `d` of that key. -/
def assocWfBy {α : Type} [DecidableEq α] (d : Nat → α) : List (Nat × α) → Bool
  | [] => true
  | (a, x) :: r => x ≠ d a && r.all (fun p => a < p.1) && assocWfBy d r

/-- The canonical form of a table whose unlisted keys all hold `d`. -/
abbrev assocWf {α : Type} [DecidableEq α] (d : α) (m : List (Nat × α)) : Bool := assocWfBy (fun _ => d) m

/-- The byte at offset `o` of an RCB, as firmware lays it out (R24). -/
def Rcb.byteAt (r : Rcb) (o : Nat) : Byte :=
  let fields : List (Nat × Nat × Nat) :=
    [(0x00, 1, r.kind), (0x01, 1, r.prio), (0x02, 2, r.ovr.toNat), (0x04, 4, r.fdom), (0x08, 8, r.parent),
     (0x10, 2, r.cores), (0x12, 2, r.acct), (0x14, 2, r.drambw), (0x16, 2, r.parkt), (0x18, 8, r.sheetb),
     (0x20, 8, r.balbase), (0x28, 8, r.balsize), (0x30, 2, r.asid)]
  match fields.find? fun f => f.1 ≤ o && o < f.1 + f.2.1 with
  | some (a, _, v) => BitVec.ofNat 8 (v / 256 ^ (o - a))
  | none => 0

/-- The bytes of an RCB that firmware writes. -/
def Rcb.cells (r : Rcb) : List (Nat × Byte) := (List.range 0x40).map fun o => (r.addr + o, r.byteAt o)

/-- What an unlisted address reads as: the RCBs of the device root and of the interfaces, which firmware has written in DRAM
from 0xFF00 on (R26; log 6), and 0 elsewhere (DESIGN CHOICE, log 1). -/
def Memory.blank (a : Nat) : Byte :=
  if a < 0xFF00 || 0x14000 ≤ a then 0
  else
    let k := (a - 0xFF00) / 256
    (if k = 0 then Rcb.root Part.full else Rcb.interface Part.full (k - 1)).byteAt (a % 256)

/-- Memory in canonical form. -/
def Memory.wf (m : Memory) : Bool := assocWfBy Memory.blank m

/-- One byte of memory. -/
def Memory.byte (m : Memory) (a : Nat) : Byte := assocGet (Memory.blank a) m a

/-- Memory with one byte written. -/
def Memory.put (m : Memory) (a : Nat) (b : Byte) : Memory := assocSet (Memory.blank a) m a b

/-- The bytes at a list of addresses, in the list's order. -/
def Memory.bytesAt (m : Memory) (as : List Nat) : List Byte := as.map m.byte

/-- Writes bytes at a list of addresses, one after another. -/
def Memory.putAt (m : Memory) (ps : List (Nat × Byte)) : Memory := ps.foldl (fun m p => m.put p.1 p.2) m

/-- The addresses `a` to `a + n - 1`. -/
def span (a n : Nat) : List Nat := (List.range n).map (a + ·)

/-- The number that bytes denote, the first one lowest (R4). -/
def leNat : List Byte → Nat
  | [] => 0
  | b :: r => b.toNat + 256 * leNat r

/-- The `n` low bytes of a number, lowest first (R4). -/
def leBytes (n v : Nat) : List Byte := (List.range n).map fun i => BitVec.ofNat 8 (v / 256 ^ i)

/-- The number held by `n` consecutive bytes. -/
def Memory.num (m : Memory) (a n : Nat) : Nat := leNat (m.bytesAt (span a n))

/-- Memory with consecutive bytes written. -/
def Memory.putBytes (m : Memory) (a : Nat) (bs : List Byte) : Memory := m.putAt ((span a bs.length).zip bs)

/-- Memory with a number written to `n` consecutive bytes. -/
def Memory.putNum (m : Memory) (a n v : Nat) : Memory := m.putBytes a (leBytes n v)

/-- Memory with the bytes of `[lo, lo + n)` zero: without their entries, but for those that are not blank. -/
def Memory.clear (m : Memory) (lo n : Nat) : Memory :=
  Memory.putAt (m.filter fun p => p.1 < lo || lo + n ≤ p.1)
    ((span (max lo 0xFF00) (min (lo + n) 0x14000 - max lo 0xFF00)).map fun a => (a, 0))

/-- Applies `f` to every element that satisfies `p`. -/
def mapWhere {α : Type} (p : α → Bool) (f : α → α) (l : List α) : List α := l.map fun x => if p x then f x else x

/-- The position of the first element that satisfies `p`. -/
def indexWhere {α : Type} (p : α → Bool) : List α → Option Nat
  | [] => none
  | x :: r => if p x then some 0 else (indexWhere p r).map (· + 1)

/-- The lowest number below `n` that satisfies `p`. -/
def lowest (n : Nat) (p : Nat → Bool) : Option Nat := (List.range n).find? p

end Sys2Proof.Machine
end

