-- ==== Sys2Proof/Machine/Bits.lean ====
section
/-!
DEFINITION. The helpers bits, zext, sext and sat of the manual's pseudocode (R117), and the bit operations that
instructions use, on natural numbers below 2^w.
-/
namespace Sys2Proof.Machine

/-- bits(x, hi, lo). -/
def bitsOf (x hi lo : Nat) : Nat := x / 2 ^ lo % 2 ^ (hi + 1 - lo)

/-- Bit `i` of `x`, as a truth value. -/
def bitOf (x i : Nat) : Bool := x / 2 ^ i % 2 = 1

/-- zext(x, n). -/
def zext (x n : Nat) : Nat := x % 2 ^ n

/-- sext(x, n): the two's-complement value of the low n bits. -/
def sext (x n : Nat) : Int := if 2 * (x % 2 ^ n) < 2 ^ n then (x % 2 ^ n : Nat) else (x % 2 ^ n : Nat) - (2 ^ n : Nat)

/-- An integer modulo 2^n. -/
def wrap (x : Int) (n : Nat) : Nat := (x % (2 ^ n : Nat)).toNat

/-- sat(x, lo, hi). -/
def satInt (x lo hi : Int) : Int := if x < lo then lo else if x > hi then hi else x

/-- Least and greatest value of an integer type of width `w`. -/
def intMin (signed : Bool) (w : Nat) : Int := if signed then -(2 ^ (w - 1) : Nat) else 0
def intMax (signed : Bool) (w : Nat) : Int := if signed then (2 ^ (w - 1) : Nat) - 1 else (2 ^ w : Nat) - 1

/-- The value of a field by its type's signedness. -/
def asInt (signed : Bool) (w x : Nat) : Int := if signed then sext x w else zext x w

/-- Complement at width `w`. -/
def notBits (w x : Nat) : Nat := 2 ^ w - 1 - x % 2 ^ w

/-- Number of bits set below position `w`. -/
def popCount : Nat → Nat → Nat
  | 0, _ => 0
  | w + 1, x => x % 2 + popCount w (x / 2)

/-- Index of the lowest bit set, or `w`. -/
def firstSet : Nat → Nat → Nat
  | 0, _ => 0
  | w + 1, x => if x % 2 = 1 then 0 else 1 + firstSet w (x / 2)

/-- Leading zeros at width `w`. -/
def leadZeros (w x : Nat) : Nat := if x % 2 ^ w = 0 then w else w - 1 - Nat.log2 (x % 2 ^ w)

/-- The bits of `x` at width `w` in reverse order. -/
def bitRev : Nat → Nat → Nat
  | 0, _ => 0
  | w + 1, x => x % 2 * 2 ^ w + bitRev w (x / 2)

/-- Logical left shift at width `w`; 0 from `w` on. -/
def shiftL (w x n : Nat) : Nat := if n ≥ w then 0 else x * 2 ^ n % 2 ^ w

/-- Logical right shift at width `w`; 0 from `w` on. -/
def shiftR (w x n : Nat) : Nat := if n ≥ w then 0 else x % 2 ^ w / 2 ^ n

/-- Arithmetic right shift at width `w`; copies of the sign bit from `w` on. -/
def shiftRA (w x n : Nat) : Nat := wrap (sext x w / (2 ^ (min n w) : Nat)) w

/-- Left rotation at width `w`. -/
def rotL (w x n : Nat) : Nat := (x * 2 ^ (n % w) % 2 ^ w) ||| (x % 2 ^ w / 2 ^ (w - n % w))

/-- Rounds `x` up to a multiple of `n`. -/
def roundUp (x n : Nat) : Nat := (x + n - 1) / n * n

/-- Element `e` of width `w` of a word. -/
def elemOf (x w e : Nat) : Nat := x / 2 ^ (w * e) % 2 ^ w

/-- A word made of elements of width `w`, element 0 lowest. -/
def packElems (w : Nat) : List Nat → Nat
  | [] => 0
  | x :: r => x % 2 ^ w + 2 ^ w * packElems w r

/-- The lanes of a mask in ascending order. -/
def laneList (m : Lanes) : List Nat := (List.range 96).filter fun j => m.getLsbD j

/-- The mask whose lanes satisfy `p`. -/
def lanesOf (p : Nat → Bool) : Lanes :=
  BitVec.ofNat 96 ((List.range 96).foldl (fun a j => if p j then a + 2 ^ j else a) 0)

/-- The mask that a list of lanes makes. -/
def lanesFrom (l : List Nat) : Lanes := lanesOf fun j => l.contains j

/-- The lowest lane of a mask, or 96. -/
def lowLane (m : Lanes) : Nat := firstSet 96 m.toNat

/-- All 96 lanes. -/
def allLanes : Lanes := BitVec.allOnes 96

end Sys2Proof.Machine
end

