-- ==== Sys2Proof/Machine/Exact.lean ====
section
/-!
DEFINITION. Exact numbers (num times 2^exp), the binary floating-point formats of R162 and R163, and round of R117
and R169 to R172: the delivered encoding together with the exception conditions it raises.
-/
namespace Sys2Proof.Machine

/-- The exact number num · 2^exp. -/
structure Dy where
  num : Int
  exp : Int
  deriving DecidableEq, Repr

def Dy.zero : Dy := ⟨0, 0⟩
def Dy.ofInt (i : Int) : Dy := ⟨i, 0⟩
def Dy.neg (x : Dy) : Dy := ⟨-x.num, x.exp⟩
def Dy.abs (x : Dy) : Dy := ⟨x.num.natAbs, x.exp⟩
def Dy.isZero (x : Dy) : Bool := x.num = 0
def Dy.isNeg (x : Dy) : Bool := x.num < 0
def Dy.mul (x y : Dy) : Dy := ⟨x.num * y.num, x.exp + y.exp⟩

/-- x · 2^k. -/
def Dy.scale (x : Dy) (k : Int) : Dy := ⟨x.num, x.exp + k⟩

/-- x written with the exponent `e`, which is at most its own. -/
def Dy.at (x : Dy) (e : Int) : Int := x.num * (2 ^ (x.exp - e).toNat : Nat)

def Dy.add (x y : Dy) : Dy :=
  if x.num = 0 then y else if y.num = 0 then x
  else let e := min x.exp y.exp; ⟨x.at e + y.at e, e⟩

def Dy.sub (x y : Dy) : Dy := x.add y.neg

/-- The exact sum of a list. -/
def Dy.sum (l : List Dy) : Dy := l.foldl Dy.add Dy.zero

/-- x < y and x ≤ y. -/
def Dy.lt (x y : Dy) : Bool := (x.sub y).num < 0
def Dy.le (x y : Dy) : Bool := (x.sub y).num ≤ 0

/-- floor(log2 |x|) of a nonzero x. -/
def Dy.log2 (x : Dy) : Int := Nat.log2 x.num.natAbs + x.exp

/-- floor(|x| / 2^q). -/
def Dy.quo (x : Dy) (q : Int) : Nat :=
  if x.exp ≥ q then x.num.natAbs * 2 ^ (x.exp - q).toNat else x.num.natAbs / 2 ^ (q - x.exp).toNat

/-- What |x| leaves over 2^q · quo: 0 nothing, 1 less than half of 2^q, 2 half, 3 more than half. -/
def Dy.rest (x : Dy) (q : Int) : Nat :=
  if x.exp ≥ q then 0
  else
    let d := (q - x.exp).toNat
    let r := x.num.natAbs % 2 ^ d
    if r = 0 then 0 else if 2 * r < 2 ^ d then 1 else if 2 * r = 2 ^ d then 2 else 3

/-- The rounding modes of R86. -/
inductive Mode
  | rne
  | rz
  | rdn
  | rup
  deriving DecidableEq, Repr

/-- RM (R86). -/
def Mode.ofRM (rm : BitVec 2) : Mode :=
  match rm with
  | 0 => .rne
  | 1 => .rz
  | 2 => .rdn
  | _ => .rup

/-- Whether a magnitude with quotient `m` and remainder class `r` rounds away from zero. -/
def roundsUp (mode : Mode) (neg : Bool) (m r : Nat) : Bool :=
  match mode with
  | .rne => r = 3 || (r = 2 && m % 2 = 1)
  | .rz => false
  | .rdn => neg && r ≠ 0
  | .rup => !neg && r ≠ 0

/-- |x| rounded to a multiple of 2^q, in units of 2^q. -/
def Dy.roundAt (x : Dy) (q : Int) (mode : Mode) : Nat :=
  let m := x.quo q
  if roundsUp mode x.isNeg m (x.rest q) then m + 1 else m

/-- x rounded to an integer (R173). -/
def Dy.toInt (x : Dy) (mode : Mode) : Int := if x.isNeg then -(x.roundAt 0 mode : Int) else x.roundAt 0 mode

/-- The binary floating-point formats of R162. -/
inductive FF
  | f64
  | f32
  | f16
  | bf16
  | e5m2
  | e4m3
  deriving DecidableEq, Repr

/-- Bits, fraction bits and bias (R162). -/
def FF.bits : FF → Nat
  | .f64 => 64 | .f32 => 32 | .f16 => 16 | .bf16 => 16 | .e5m2 => 8 | .e4m3 => 8
def FF.frac : FF → Nat
  | .f64 => 52 | .f32 => 23 | .f16 => 10 | .bf16 => 7 | .e5m2 => 2 | .e4m3 => 3
def FF.bias : FF → Nat
  | .f64 => 1023 | .f32 => 127 | .f16 => 15 | .bf16 => 127 | .e5m2 => 15 | .e4m3 => 7

def FF.signBit (f : FF) : Nat := 2 ^ (f.bits - 1)
def FF.expBits (f : FF) : Nat := f.bits - 1 - f.frac

/-- Exponent of the smallest normal, and of the spacing of the subnormals. -/
def FF.emin (f : FF) : Int := 1 - f.bias
def FF.qmin (f : FF) : Int := f.emin - f.frac

/-- The canonical NaN (R163). -/
def FF.nan : FF → Nat
  | .f64 => 0x7FF8000000000000 | .f32 => 0x7FC00000 | .f16 => 0x7E00 | .bf16 => 0x7FC0 | .e5m2 => 0x7E
  | .e4m3 => 0x7F

/-- Largest finite encoding (R162, R163). -/
def FF.maxFin : FF → Nat
  | .f64 => 0x7FEFFFFFFFFFFFFF | .f32 => 0x7F7FFFFF | .f16 => 0x7BFF | .bf16 => 0x7F7F | .e5m2 => 0x7B
  | .e4m3 => 0x7E

/-- The encoding of a signed infinity; e4m3 has none, and takes the canonical NaN (R169). -/
def FF.inf (f : FF) (neg : Bool) : Nat :=
  match f with
  | .e4m3 => f.nan
  | _ => (2 ^ f.expBits - 1) * 2 ^ f.frac + (if neg then f.signBit else 0)

def FF.zero (f : FF) (neg : Bool) : Nat := if neg then f.signBit else 0

/-- What an encoding denotes: `value` of R117. A finite nonzero number stands as its exact value. -/
inductive Val
  | nan (signalling : Bool)
  | inf (neg : Bool)
  | zero (neg : Bool)
  | fin (x : Dy)
  deriving DecidableEq, Repr

def Val.isNan : Val → Bool
  | .nan _ => true
  | _ => false
def Val.isInf : Val → Bool
  | .inf _ => true
  | _ => false
def Val.isZero : Val → Bool
  | .zero _ => true
  | _ => false
def Val.isSnan : Val → Bool
  | .nan s => s
  | _ => false
/-- The sign of a value; that of a NaN is not used. -/
def Val.isNeg : Val → Bool
  | .nan _ => false
  | .inf n => n
  | .zero n => n
  | .fin x => x.isNeg
/-- The exact number of a finite value. -/
def Val.dy : Val → Dy
  | .fin x => x
  | _ => Dy.zero
def Val.neg : Val → Val
  | .nan s => .nan s
  | .inf n => .inf !n
  | .zero n => .zero !n
  | .fin x => .fin x.neg

def FF.sign (f : FF) (b : Nat) : Bool := bitOf b (f.bits - 1)
def FF.expField (f : FF) (b : Nat) : Nat := b / 2 ^ f.frac % 2 ^ f.expBits
def FF.fracField (f : FF) (b : Nat) : Nat := b % 2 ^ f.frac

/-- value(b, f) (R162, R163). -/
def FF.value (f : FF) (b : Nat) : Val :=
  let s := f.sign b
  let e := f.expField b
  let m := f.fracField b
  let sg (n : Nat) : Int := if s then -(n : Int) else n
  let top := 2 ^ f.expBits - 1
  if f = .e4m3 && e = top && m = 7 then .nan false
  else if f ≠ .e4m3 && e = top then
    if m = 0 then .inf s else .nan (!bitOf m (f.frac - 1))
  else if e = 0 then
    if m = 0 then .zero s else .fin ⟨sg m, f.qmin⟩
  else .fin ⟨sg (2 ^ f.frac + m), (e : Int) - f.bias - f.frac⟩

/-- value(b, f) of an operand, under the input flush of R171 when `flush`. -/
def FF.read (f : FF) (flush : Bool) (b : Nat) : Val :=
  if flush && f.expField b = 0 && f.fracField b ≠ 0 then .zero (f.sign b) else f.value b

/-- The exception conditions of R172, as the bits of GSTAT (R200): a sum of these. -/
def condNV : Nat := 1
def condDZ : Nat := 2
def condOF : Nat := 4
def condUF : Nat := 8
def condNX : Nat := 16

/-- A delivered encoding with the conditions raised. -/
structure Delivered where
  enc : Nat
  cond : Nat
  deriving DecidableEq, Repr

/-- The rounding of a nonzero exact number before any flush: magnitude encoding (R169), and whether it overflows, is
tiny (R171) and is inexact. -/
structure Rounded where
  mag : Nat
  isOver : Bool
  tiny : Bool
  inexact : Bool
  deriving DecidableEq, Repr

/-- The exponent of the spacing of f's magnitudes at |x|. -/
def FF.spacing (f : FF) (x : Dy) : Int := max x.log2 f.emin - f.frac

def FF.roundMag (f : FF) (mode : Mode) (x : Dy) : Rounded :=
  let q := f.spacing x
  let r := x.roundAt q mode
  let mag := ((q + f.frac + f.bias) * (2 ^ f.frac : Nat)).toNat + r - 2 ^ f.frac
  let qu := x.log2 - f.frac
  let ru := x.roundAt qu mode
  { mag := mag
    isOver := mag > f.maxFin
    tiny := ru ≠ 0 && Dy.lt ⟨ru, qu⟩ ⟨1, f.emin⟩
    inexact := x.rest q ≠ 0 }

/-- The overflow result of R169. -/
def FF.overflow (f : FF) (mode : Mode) (neg : Bool) : Nat :=
  let s := if neg then f.signBit else 0
  match f, mode with
  | .e4m3, _ => f.maxFin + s
  | _, .rne => f.inf neg
  | _, .rz => f.maxFin + s
  | _, .rdn => if neg then f.inf true else f.maxFin
  | _, .rup => if neg then f.maxFin + s else f.inf false

/-- round(x, f, m) of a nonzero exact number, with the output flush of R171 when `flush`, and its conditions. -/
def FF.deliver (f : FF) (mode : Mode) (flush : Bool) (x : Dy) : Delivered :=
  let r := f.roundMag mode x
  let s := if x.isNeg then f.signBit else 0
  if r.isOver then ⟨f.overflow mode x.isNeg, condOF + condNX⟩
  else if r.tiny && flush then ⟨s, condUF + condNX⟩
  else ⟨r.mag + s, if r.inexact then (if r.tiny then condUF + condNX else condNX) else 0⟩

/-- The encoding of a value in format f, rounded (R169, R170); a NaN becomes the canonical one (R164).
An infinity in e4m3, whose canonical NaN stands for it (R290), raises no condition (DESIGN CHOICE, log 68). -/
def FF.ofVal (f : FF) (mode : Mode) (flush : Bool) (v : Val) : Delivered :=
  match v with
  | .nan _ => ⟨f.nan, 0⟩
  | .inf n => ⟨f.inf n, 0⟩
  | .zero n => ⟨f.zero n, 0⟩
  | .fin x => f.deliver mode flush x

/-- Just the encoding. -/
def FF.enc (f : FF) (mode : Mode) (flush : Bool) (v : Val) : Nat := (f.ofVal mode flush v).enc

/-- The value of an exact number that is not zero, and of zero with the sign `neg`. -/
def Val.ofDy (x : Dy) (neg : Bool) : Val := if x.isZero then .zero neg else .fin x

/-- The product of two values: 0 × ∞ is NaN (R172, R178). -/
def Val.mul (a b : Val) : Val :=
  let s := a.isNeg != b.isNeg
  if a.isNan || b.isNan then .nan false
  else if (a.isInf && b.isZero) || (a.isZero && b.isInf) then .nan false
  else if a.isInf || b.isInf then .inf s
  else if a.isZero || b.isZero then .zero s
  else .fin (a.dy.mul b.dy)

/-- The exact sum of values (R170, R178): NaN for a NaN or for infinities of both signs; a zero sum is -0 only when
every addend is -0. -/
def Val.sum (l : List Val) : Val :=
  if l.any Val.isNan then .nan false
  else if l.any (fun v => v.isInf && v.isNeg) then
    (if l.any (fun v => v.isInf && !v.isNeg) then .nan false else .inf true)
  else if l.any Val.isInf then .inf false
  else Val.ofDy (Dy.sum (l.map Val.dy)) (l.all fun v => v.isZero && v.isNeg)

/-- dither of R174: `i` the element's index, `p` the phase. -/
def FF.dither (f : FF) (flush : Bool) (v : Val) (i p : Nat) : Nat :=
  match v with
  | .fin x =>
    let d : Int := 2 * bitRev 4 ((i + p) % 16) + 1
    let y := x.abs.add ⟨d, f.spacing x - 5⟩
    (f.deliver .rz flush (if x.isNeg then y.neg else y)).enc
  | _ => f.enc .rne flush v

/-- A value converted to an integer type (R173), with its conditions. -/
def toInteger (mode : Mode) (signed : Bool) (w : Nat) (v : Val) : Nat × Nat :=
  let lo := intMin signed w
  let hi := intMax signed w
  match v with
  | .nan _ => (0, condNV)
  | .inf n => (wrap (if n then lo else hi) w, condNV)
  | .zero _ => (0, 0)
  | .fin x =>
    let i := x.toInt mode
    if i < lo then (wrap lo w, condNV) else if i > hi then (wrap hi w, condNV)
    else (wrap i w, if x.rest 0 ≠ 0 then condNX else 0)

/-- An integer as a value. -/
def Val.ofInt (i : Int) : Val := Val.ofDy (Dy.ofInt i) false

end Sys2Proof.Machine
end

