-- ==== Sys2Proof/Machine/Contracts.lean ====
section
/-!
DEFINITION. The arithmetic contracts of R175, matrix summation (R176 to R178), collective reduction (R181), numeric
behaviour records (R182), the exact accumulator (R188 to R191) and the Kite block formats (R165 to R167).
-/
namespace Sys2Proof.Machine

/-- Contracts 1 to 6 are carried (R175). -/
def contractOk (c : Nat) : Bool := 1 ≤ c && c ≤ 6

/-- Group length G (R175). -/
def groupLen (c : Nat) : Nat :=
  match c with
  | 1 => 4
  | 2 => 8
  | 3 => 16
  | 4 => 32
  | 5 => 64
  | _ => 256

/-- Alignment bits A (R175), for the formats that align (R177). -/
def alignBits (c : Nat) : Nat := if c ≤ 2 then 27 else if c = 3 then 30 else 0

/-- Matrix inputs and outputs flushed; vector subnormals flushed; collective results flushed (R175, R181). -/
def matFlushIn (c : Nat) : Bool := c ≤ 2
def matFlushOut (c : Nat) : Bool := c ≤ 3
def vecFlush (c : Nat) : Bool := c ≤ 2

/-- Function-table revision (R175). -/
def tableRev (c : Nat) : Nat := if c ≤ 2 then 1 else if c ≤ 4 then 2 else 3

/-- Collective rule: true for exact (R175). -/
def exactCollective (c : Nat) : Bool := c ≥ 5

/-- Matrix speed divisor (R175, R182). -/
def speedDiv (c : Nat) : Nat := if c = 1 then 4 else if c ≤ 3 then 2 else 1

/-- acc_round of R176: RNE to the accumulator format, then the flush of `flush`. -/
def accRound (f : FF) (flush : Bool) (v : Val) : Nat := f.enc .rne flush v

/-- The truncation of a product to the grid 2^q towards zero; one that truncates to zero keeps its sign (R170). -/
def truncTo (q : Int) (v : Val) : Val :=
  match v with
  | .fin x => Val.ofDy ⟨if x.isNeg then -(x.quo q : Int) else x.quo q, q⟩ x.isNeg
  | v => v

/-- One group of R176 entering an accumulator: `align` 0 sums exactly with the accumulator. -/
def groupStep (f : FF) (flushIn flushOut : Bool) (align : Nat) (acc : Nat) (grp : List Val) : Nat :=
  let a := f.read flushIn acc
  if a.isNan || a.isInf || grp.any (fun v => v.isNan || v.isInf) then f.enc .rne flushOut (Val.sum (a :: grp))
  else if align = 0 then accRound f flushOut (Val.sum (a :: grp))
  else
    let nz := grp.filter fun v => !v.isZero
    let s :=
      match nz.map (fun v => v.dy.log2) with
      | [] => Val.sum grp
      | e :: es => Val.sum (grp.map (truncTo (es.foldl max e - align + 1)))
    accRound f flushOut (Val.sum [a, s])

/-- A list cut into pieces of `n` elements, with at most `fuel` pieces. -/
def chunks {α : Type} (n : Nat) : Nat → List α → List (List α)
  | 0, _ => []
  | fuel + 1, l => if l.isEmpty then [] else l.take n :: chunks n fuel (l.drop n)

/-- mma_element of R176 over the products `ps` in ascending k. -/
def mmaElement (f : FF) (flushIn flushOut : Bool) (align : Nat) (g : Nat) (acc : Nat) (ps : List Val) : Nat :=
  (chunks g ps.length ps).foldl (groupStep f flushIn flushOut align) acc

/-! Collectives -/

/-- One round of tree_reduce: neighbours in pairs, an odd last one passed on (R181). -/
def treePass (f : FF) (flush : Bool) : List Val → List Val
  | a :: b :: r => f.value (accRound f flush (Val.sum [a, b])) :: treePass f flush r
  | l => l

/-- tree_reduce without its last rounding: `fuel` rounds. -/
def treeReduce (f : FF) (flush : Bool) : Nat → List Val → List Val
  | 0, l => l
  | n + 1, l => if l.length ≤ 1 then l else treeReduce f flush n (treePass f flush l)

/-- The sum of element values in rank order under contract c, in the element format `e` (R181); `acc` is f32, or f64
for f64 elements. -/
def collectiveSum (c : Nat) (e : FF) (vs : List Nat) : Nat :=
  let acc : FF := if e = .f64 then .f64 else .f32
  let ins := vs.map (e.read (vecFlush c))
  if exactCollective c then e.enc .rne false (Val.sum ins)
  else
    match treeReduce acc (matFlushOut c) vs.length ins with
    | v :: _ => e.enc .rne (matFlushOut c) v
    | [] => 0

/-! Records of numeric behaviour -/

/-- The matrix format codes of R182, in the order of the matrix engine: their kind of record. -/
inductive RecKind
  | aligned
  | wide
  | integer
  deriving DecidableEq, Repr

/-- The 32 bytes of record (c, f) (R182). `kind` tells operand formats that align, f32 and f64, and integers apart;
`none` is a format code that does not exist. -/
def behaviourRecord (c f accw : Nat) (kind : Option RecKind) : List Byte :=
  match kind with
  | none => List.replicate 32 0
  | some k =>
    let glen := if k = .integer then 0 else groupLen c
    let align := if k = .aligned then alignBits c else 0
    let rpc := match k with
      | .integer => 0
      | .aligned => if c ≤ 3 then 1 else if c = 4 then 2 else 3
      | .wide => if c ≤ 4 then 2 else 3
    let subn := if c ≤ 2 then 0 else if c = 3 then 5 else 7
    leBytes 1 1 ++ leBytes 1 c ++ leBytes 1 f ++ leBytes 1 accw ++ leBytes 2 glen ++ leBytes 1 align ++ leBytes 1 rpc
      ++ leBytes 1 subn ++ leBytes 1 (tableRev c) ++ leBytes 1 (speedDiv c)
      ++ leBytes 1 (if exactCollective c then 1 else 0) ++ List.replicate 20 0

/-! The exact accumulator -/

/-- The status bits of R189. -/
def xaNAN : Nat := 1
def xaPINF : Nat := 2
def xaNINF : Nat := 4
def xaOVF : Nat := 8
def xaLOSS : Nat := 16

/-- The value of xa in units of 2^-298. -/
def xaInt (v : BitVec 640) : Int := v.toInt

/-- x as a multiple of 2^-298, rounded RNE (R190). -/
def xaUnits (x : Dy) : Int := if x.isNeg then -(x.roundAt (-298) .rne : Int) else x.roundAt (-298) .rne

/-- The status bits that one addend sets (R190). -/
def xaAddendStatus (v : Val) : Nat :=
  match v with
  | .nan _ => xaNAN
  | .inf n => if n then xaNINF else xaPINF
  | .zero _ => 0
  | .fin x =>
    (if x.rest (-298) ≠ 0 then xaLOSS else 0) + (if (xaUnits x).natAbs ≥ 2 ^ 639 then xaOVF else 0)

/-- The units of 2^-298 that an addend brings. -/
def xaAddendUnits (v : Val) : Int :=
  match v with
  | .fin x => xaUnits x
  | _ => 0

/-- The addition of several addends in one exact sum (R190). -/
def xaAdd (v : BitVec 640) (st : BitVec 5) (l : List Val) : BitVec 640 × BitVec 5 :=
  let t := xaInt v + (l.map xaAddendUnits).foldl (· + ·) 0
  let beyond := t < -(2 ^ 639 : Nat) || t ≥ (2 ^ 639 : Nat)
  let bits := (l.map xaAddendStatus).foldl (· ||| ·) (if beyond then xaOVF else 0)
  (BitVec.ofInt 640 t, st ||| BitVec.ofNat 5 bits)

/-- Rounding xa to a format (R191). -/
def xaRound (f : FF) (flush : Bool) (v : BitVec 640) (st : BitVec 5) : Nat :=
  let s := st.toNat
  if bitOf s 0 || bitOf s 3 || (bitOf s 1 && bitOf s 2) then f.nan
  else if bitOf s 1 then f.inf false
  else if bitOf s 2 then f.inf true
  else f.enc .rne flush (Val.ofDy ⟨xaInt v, -298⟩ false)

/-- Word w of xa (R189): 0 to 19 the value, 20 the status word. -/
def xaWord (v : BitVec 640) (st : BitVec 5) (w : Nat) : Word :=
  if w = 20 then st.zeroExtend 32 else (v >>> (32 * w)).setWidth 32

/-- xa with word w written (R189); reserved status bits are ignored. -/
def xaSetWord (v : BitVec 640) (st : BitVec 5) (w : Nat) (x : Word) : BitVec 640 × BitVec 5 :=
  if w = 20 then (v, x.setWidth 5)
  else (v &&& ~~~((0xFFFFFFFF : BitVec 640) <<< (32 * w)) ||| (x.setWidth 640 <<< (32 * w)), st)

/-! Kite blocks -/

/-- The Kite block formats, by magnitude width (R165). -/
inductive Kite
  | kb2
  | kb4
  | kb7
  deriving DecidableEq, Repr

def Kite.mag : Kite → Nat
  | .kb2 => 2 | .kb4 => 4 | .kb7 => 7

/-- Bytes of a block (R167). -/
def Kite.size : Kite → Nat
  | .kb2 => 8 | .kb4 => 12 | .kb7 => 18

/-- What an element of a block denotes: NaN, an escape, or an exact value (R166). -/
inductive KElem
  | nan
  | escape
  | value (x : Dy)
  deriving DecidableEq, Repr

/-- Element i of a block given as a number (R165, R166). -/
def Kite.elem (k : Kite) (blk i : Nat) : KElem :=
  let e := bitsOf blk 7 0
  let mu := bitsOf blk (8 + i / 2) (8 + i / 2)
  let c := bitsOf blk (16 + i * (k.mag + 1) + k.mag) (16 + i * (k.mag + 1))
  let m := c % 2 ^ k.mag
  let s := c / 2 ^ k.mag
  if e = 0xFF then .nan
  else if s = 1 && m = 0 then .escape
  else .value ⟨if s = 1 then -(m : Int) else m, (e : Int) - 127 - mu - (k.mag - 1)⟩

/-- Number of escapes of a block (R166, R168). -/
def Kite.escapes (k : Kite) (blk : Nat) : Nat := ((List.range 16).filter fun i => k.elem blk i = .escape).length

end Sys2Proof.Machine
end

