-- ==== Sys2Proof/Machine/Fixed.lean ====
section
/-!
DEFINITION. Enclosures of the real functions of the function pairs (R304): fixed-point numbers with 640 places, their
series, and the exact value or an interval that holds f(a). Between two neighbouring rounding boundaries any point
stands for another, so a value too close to a boundary for the fixed point is given by a point in the same gap.
-/
namespace Sys2Proof.Machine

/-- Places of a fixed-point number. -/
def fxPlaces : Nat := 640
def fxOne : Nat := 2 ^ fxPlaces
def fxMul (a b : Nat) : Nat := a * b / fxOne

/-- What truncations in the series may add up to, in last places; the series themselves stay far below it. -/
def fxSlack : Nat := 2 ^ 30

/-- The sum of t/k + t·z/(k+2) + ... with `fuel` terms. -/
def oddSeries (z : Nat) : Nat → Nat → Nat → Nat → Nat
  | 0, _, _, acc => acc
  | fuel + 1, k, t, acc => oddSeries z fuel (k + 2) (fxMul t z) (acc + t / k)

/-- atanh x = x + x^3/3 + ... for x at most 1/3. -/
def fxAtanh (x : Nat) : Nat := oddSeries (fxMul x x) 210 1 x 0

/-- ln 2 = 2 atanh(1/3). -/
def fxLn2 : Nat := 2 * fxAtanh (fxOne / 3)

/-- atan(1/n) = 1/n - 1/(3 n^3) + ..., `fuel` terms. -/
def atanSeries (n : Nat) : Nat → Nat → Nat → Int → Int
  | 0, _, _, acc => acc
  | fuel + 1, k, t, acc =>
    atanSeries n fuel (k + 2) (t / (n * n)) (if k % 4 = 1 then acc + (t / k : Nat) else acc - (t / k : Nat))

/-- π = 16 atan(1/5) - 4 atan(1/239). -/
def fxPi : Nat := (16 * atanSeries 5 150 1 (fxOne / 5) 0 - 4 * atanSeries 239 60 1 (fxOne / 239) 0).toNat

/-- The sum of t + t·x/k + t·x²/(k(k+1)) + ... -/
def expSeries (x : Nat) : Nat → Nat → Nat → Nat → Nat
  | 0, _, _, acc => acc
  | fuel + 1, k, t, acc => expSeries x fuel (k + 1) (fxMul t x / k) (acc + t)

/-- e^x for x below 1. -/
def fxExp (x : Nat) : Nat := expSeries x 140 1 fxOne 0

/-- The alternating sum t - t·z/((k+1)(k+2)) + ... -/
def sinSeries (z : Nat) : Nat → Nat → Nat → Int → Int
  | 0, _, _, acc => acc
  | fuel + 1, k, t, acc =>
    sinSeries z fuel (k + 2) (fxMul t z / ((k + 1) * (k + 2))) (if k % 4 = 1 then acc + (t : Nat) else acc - (t : Nat))

/-- sin x for x at most π/2. -/
def fxSin (x : Nat) : Nat := (sinSeries (fxMul x x) 100 1 x 0).toNat

/-- An exact number in last places, rounded down. -/
def Dy.fx (x : Dy) : Int :=
  let e := x.exp + fxPlaces
  if e ≥ 0 then x.num * (2 ^ e.toNat : Nat) else x.num / (2 ^ (-e).toNat : Nat)

/-- f(a): the number itself, or two points that enclose it. -/
inductive Real
  | exact (y : Dy)
  | between (lo hi : Dy)
  deriving DecidableEq, Repr

/-- The enclosure of a fixed-point result, scaled by 2^k. -/
def around (v : Int) (k : Int) : Real := .between ⟨v - fxSlack, k - fxPlaces⟩ ⟨v + fxSlack, k - fxPlaces⟩

/-- A point that stands for f(a) among its rounding boundaries. -/
def near (y : Dy) : Real := .between y y

/-- The quotient of exact numbers: exact when it ends, else cut off after 200 places with a one behind them. -/
def quotient (a b : Dy) : Real :=
  let sh := 200 + Nat.log2 b.num.natAbs
  let n := a.num.natAbs * 2 ^ sh
  let q := n / b.num.natAbs
  let neg := a.isNeg != b.isNeg
  let e := a.exp - b.exp - sh
  let y (m : Nat) (e : Int) : Dy := ⟨if neg then -(m : Int) else m, e⟩
  if n % b.num.natAbs = 0 then .exact (y q e) else near (y (2 * q + 1) (e - 1))

/-- The integer square root, bit by bit from bit `fuel - 1` down. -/
def isqrt (n : Nat) : Nat → Nat → Nat
  | 0, r => r
  | k + 1, r => if (r + 2 ^ k) * (r + 2 ^ k) ≤ n then isqrt n k (r + 2 ^ k) else isqrt n k r

/-- The square root of a positive number. -/
def squareRoot (a : Dy) : Real :=
  let e := a.exp - (if a.exp % 2 = 0 then 0 else 1) - 400
  let n := a.at e |>.toNat
  let r := isqrt n (Nat.log2 n / 2 + 1) 0
  if r * r = n then .exact ⟨r, e / 2⟩ else near ⟨2 * r + 1, e / 2 - 1⟩

/-- 1 / √a of a positive number. -/
def inverseRoot (a : Dy) : Real :=
  let odd := a.exp % 2 ≠ 0
  let m := if odd then 2 * a.num.natAbs else a.num.natAbs
  let e := if odd then a.exp - 1 else a.exp
  let k := 300 + Nat.log2 m
  let n := 2 ^ (2 * k) / m
  let r := isqrt n (Nat.log2 n / 2 + 1) 0
  let q := -(e / 2) - k
  if r * r * m = 2 ^ (2 * k) then .exact ⟨r, q⟩ else near ⟨2 * r + 1, q - 1⟩

/-- 2^a. -/
def realExp2 (a : Dy) : Real :=
  if Dy.le ⟨400, 0⟩ a then near ⟨3, 10000⟩
  else if Dy.le a ⟨-400, 0⟩ then near ⟨3, -10000⟩
  else
    let v := a.fx
    let n := v / (fxOne : Int)
    let r := (v % (fxOne : Int)).toNat
    if r = 0 then .exact ⟨1, n⟩ else around (fxExp (fxMul r fxLn2)) n

/-- log2 a of a positive number. -/
def realLog2 (a : Dy) : Real :=
  let e := a.log2
  let m := (Dy.fx ⟨a.num.natAbs, a.exp - e⟩).toNat
  if m = fxOne then .exact (Dy.ofInt e)
  else
    let l := 2 * fxAtanh ((m - fxOne) * fxOne / (m + fxOne))
    around ((l * fxOne / fxLn2 : Nat) + e * fxOne) 0

/-- sin(π u) of u in last places; none when it is 0. -/
def realSinPi (u : Int) : Option Real :=
  let w := (u % (2 * fxOne : Nat)).toNat
  let neg := w ≥ fxOne
  let p := w % fxOne
  let t := if 2 * p ≤ fxOne then p else fxOne - p
  let sg (x : Int) : Int := if neg then -x else x
  if p = 0 then none
  else if 2 * t = fxOne then some (.exact ⟨sg 1, 0⟩)
  else some (around (sg (fxSin (fxMul t fxPi))) 0)

/-- e^x of x ≥ 0 in last places, as a fixed-point number. -/
def fxExpLarge (x : Nat) : Nat := fxExp (x % fxLn2) * 2 ^ (x / fxLn2)

/-- tanh a of a nonzero number. -/
def realTanh (a : Dy) : Real :=
  let sg (x : Int) : Int := if a.isNeg then -x else x
  if Dy.le ⟨200, 0⟩ a.abs then near ⟨sg (2 ^ 500 - 1), -500⟩
  else
    let e := fxExpLarge (2 * (a.abs.fx).toNat)
    around (sg ((e - fxOne) * fxOne / (e + fxOne) : Nat)) 0

/-- 1 / (1 + e^-a) of a nonzero number. -/
def realSigmoid (a : Dy) : Real :=
  if Dy.le ⟨400, 0⟩ a then near ⟨2 ^ 500 - 1, -500⟩
  else if Dy.le a ⟨-200, 0⟩ then near ⟨3, -10000⟩
  else
    let e := fxExpLarge (a.abs.fx).toNat
    around (if a.isNeg then fxOne * fxOne / (e + fxOne) else e * fxOne / (e + fxOne) : Nat) 0

end Sys2Proof.Machine
end

