-- ==== Sys2Proof/Machine/FnValue.lean ====
section
/-!
DEFINITION. The values of the function engine: the elements of function pairs (R304 to R308) and the generator of random
numbers (R321).
-/
namespace Sys2Proof.Machine

/-- Invalid for a signalling NaN among the operands (R172). -/
def snanCond (l : List Val) : Nat := if l.any Val.isSnan then condNV else 0

/-- a lies below b in the order of FMIN: -0 below +0 (R287). -/
def Val.below (a b : Val) : Bool :=
  if a.isInf then a.isNeg && !(b.isInf && b.isNeg)
  else if b.isInf then !b.isNeg
  else if a.isZero && b.isZero then a.isNeg && !b.isNeg
  else Dy.lt a.dy b.dy

/-! Function pairs -/

/-- The functions of R304. -/
inductive Fn
  | ex2
  | lg2
  | rcp
  | rsq
  | sqt
  | div
  | sin
  | cos
  | tnh
  | sig
  deriving DecidableEq, Repr

/-- The number by which the free results tell functions apart. -/
def Fn.num : Fn → Nat
  | .ex2 => 0 | .lg2 => 1 | .rcp => 2 | .rsq => 3 | .sqt => 4 | .div => 5 | .sin => 6 | .cos => 7 | .tnh => 8
  | .sig => 9

/-- f(a, b) before rounding: a special result with its condition (R305), or a real number. -/
inductive FnRes
  | special (v : Val) (cond : Nat)
  | real (y : Real)
  deriving DecidableEq, Repr

/-- IEEE division (R305). -/
def fnDivide (a b : Val) : FnRes :=
  let sg := a.isNeg != b.isNeg
  if a.isNan || b.isNan then .special (.nan false) (snanCond [a, b])
  else if (a.isZero && b.isZero) || (a.isInf && b.isInf) then .special (.nan false) condNV
  else if a.isInf then .special (.inf sg) 0
  else if b.isZero then .special (.inf sg) condDZ
  else if a.isZero || b.isInf then .special (.zero sg) 0
  else .real (quotient a.dy b.dy)

/-- A function of one operand that is no NaN (R305). -/
def fnOne (fn : Fn) (a : Val) : FnRes :=
  let nan : FnRes := .special (.nan false) condNV
  let one : Val := .fin ⟨1, 0⟩
  match fn, a with
  | .ex2, .inf n => .special (if n then .zero false else .inf false) 0
  | .ex2, v => .real (realExp2 v.dy)
  | .lg2, .zero _ => .special (.inf true) condDZ
  | .lg2, .inf n => if n then nan else .special (.inf false) 0
  | .lg2, .fin x =>
    if x.isNeg then nan else if (x.sub ⟨1, 0⟩).isZero then .special (.zero false) 0 else .real (realLog2 x)
  | .rcp, .zero n => .special (.inf n) condDZ
  | .rcp, .inf n => .special (.zero n) 0
  | .rcp, .fin x => .real (quotient ⟨1, 0⟩ x)
  | .rsq, .zero n => .special (.inf n) condDZ
  | .rsq, .inf n => if n then nan else .special (.zero false) 0
  | .rsq, .fin x => if x.isNeg then nan else .real (inverseRoot x)
  | .sqt, .zero n => .special (.zero n) 0
  | .sqt, .inf n => if n then nan else .special (.inf false) 0
  | .sqt, .fin x => if x.isNeg then nan else .real (squareRoot x)
  | .sin, .inf _ => nan
  | .sin, v =>
    match realSinPi v.dy.fx with
    | some y => .real y
    | none => .special (.zero v.isNeg) 0
  | .cos, .inf _ => nan
  | .cos, v =>
    match realSinPi (v.dy.fx + (fxOne / 2 : Nat)) with
    | some y => .real y
    | none => .special (.zero false) 0
  | .tnh, .inf n => .special (if n then one.neg else one) 0
  | .tnh, .zero n => .special (.zero n) 0
  | .tnh, .fin x => .real (realTanh x)
  | .sig, .inf n => .special (if n then .zero false else one) 0
  | .sig, .zero _ => .real (.exact ⟨1, -1⟩)
  | .sig, .fin x => .real (realSigmoid x)
  | _, _ => nan

/-- f of R304 to R305. -/
def fnResult (fn : Fn) (a b : Val) : FnRes :=
  match fn with
  | .div => fnDivide a b
  | _ => if a.isNan then .special (.nan false) (snanCond [a]) else fnOne fn a

/-- x rounded to n significant bits (R306). -/
def Dy.signif (x : Dy) (n : Nat) (m : Mode) : Dy :=
  let q := x.log2 - (n - 1)
  ⟨if x.isNeg then -(x.roundAt q m : Int) else x.roundAt q m, q⟩

/-- The intermediate of R306 under a table revision; 3 leaves y as it is. -/
def revised (rev : Nat) (y : Dy) : Dy :=
  match rev with
  | 1 => y.signif 26 .rz
  | 2 => y.signif 34 .rne
  | _ => y

/-- The final rounding of R306, with the conditions of R308: `y` stands for f(a), which it is when `exact`. -/
def fnRound (k : FF) (m : Mode) (fl : Bool) (rev : Nat) (y : Dy) (exact : Bool) : Delivered :=
  let x := revised rev y
  let d := k.deliver m fl x
  let r := k.roundMag m x
  let same := exact && (x.sub y).isZero && !r.inexact && !r.isOver && !(r.tiny && fl)
  ⟨d.enc, d.cond ||| (if same then 0 else if r.tiny then condUF + condNX else condNX)⟩

/-- The encodings within `b` units in the last place of y, lowest magnitude first (R307): below y, where the spacing may be
half that at y, up to three lie within 2 of them under the one next to y. -/
def withinUlps (k : FF) (b : Nat) (y : Dy) : List Nat :=
  let base := (k.roundMag .rz y).mag
  let ok (n : Nat) : Bool := n ≤ k.maxFin &&
    (match k.value n with
      | .fin x => Dy.le ((x.sub y.abs).abs) ⟨b, k.spacing y⟩
      | .zero _ => Dy.le y.abs ⟨b, k.spacing y⟩
      | _ => false)
  ([base - 3, base - 2, base - 1, base, base + 1, base + 2].eraseDups).filter ok

/-- Conditions of an F form's result by comparison with y (R308). -/
def fastResult (k : FF) (fl : Bool) (y : Dy) (mag : Nat) : Delivered :=
  let s := if y.isNeg then k.signBit else 0
  let tiny := k.expField mag = 0
  if tiny && fl then ⟨s, condUF + condNX⟩ else ⟨mag + s, if tiny then condUF + condNX else condNX⟩

/-- An F form's result (R307): exact where the function is, correctly rounded where the bound says so or the value
overflows, otherwise the free choice among the encodings within the bound (log 10). -/
def fnFast (fn : Fn) (k : FF) (m : Mode) (fl : Bool) (contract a b : Nat) (y : Real) : Delivered :=
  let root := fn = .rcp || fn = .rsq || fn = .sqt
  match y with
  | .exact x =>
    let r := k.roundMag m x
    if !r.inexact || root && k ≠ .f32 || r.isOver then fnRound k m fl 3 x true
    else
      let cs := withinUlps k (if root || k ≠ .f32 then 1 else 2) x
      let i := Config.fastPick fn.num k.frac (if m = .rne then 0 else if m = .rz then 1 else if m = .rdn then 2 else 3)
        contract a b
      fastResult k fl x ((cs[i % cs.length]?).getD r.mag)
  | .between x _ =>
    let r := k.roundMag m x
    if root && k ≠ .f32 || r.isOver then fnRound k m fl 3 x false
    else
      let cs := withinUlps k (if root || k ≠ .f32 then 1 else 2) x
      let i := Config.fastPick fn.num k.frac (if m = .rne then 0 else if m = .rz then 1 else if m = .rdn then 2 else 3)
        contract a b
      fastResult k fl x ((cs[i % cs.length]?).getD r.mag)

/-- An R form's result (R306). Where the two ends of the enclosure round apart, the encoding is free (log 11). -/
def fnExact (fn : Fn) (k : FF) (m : Mode) (fl : Bool) (contract a b : Nat) (y : Real) : Delivered :=
  let rev := if fn = .sqt || fn = .div then 3 else tableRev contract
  match y with
  | .exact x => fnRound k m fl rev x true
  | .between lo hi =>
    let d := fnRound k m fl rev lo false
    if (fnRound k m fl rev hi false).enc = d.enc then d
    else ⟨Config.undecided fn.num k.frac (if m = .rne then 0 else if m = .rz then 1 else if m = .rdn then 2 else 3)
            contract a b % 2 ^ k.bits, d.cond⟩

/-- One element of a function pair. -/
def fnElement (fn : Fn) (fast : Bool) (k : FF) (m : Mode) (contract a b : Nat) : Delivered :=
  let fl := vecFlush contract
  match fnResult fn (k.read fl a) (k.read fl b) with
  | .special v cond => ⟨k.enc .rne false v, cond⟩
  | .real y => if fast then fnFast fn k m fl contract a b y else fnExact fn k m fl contract a b y

/-! Random numbers -/

/-- rng_mix's rounds (R321): x, y, a, b. -/
def rngRounds : Nat → Nat → Nat → Nat → Nat → Nat
  | 0, x, _, _, _ => x
  | r + 1, x, y, a, b =>
    let p := x * 0xCB5A4F27
    rngRounds r (bitsOf p 63 32 ^^^ y ^^^ a) (bitsOf p 31 0) b ((a + 0x6A09E667) % 2 ^ 32)

/-- rng_mix of R321. -/
def rngMix (k n c : Nat) : Nat := rngRounds 6 c n (bitsOf k 31 0) (bitsOf k 63 32)

end Sys2Proof.Machine
end

