-- ==== Sys2Proof/Machine/Access.lean ====
section
/-!
DEFINITION. Reaching the parts of State: blocks, groups, slots, launches, and their updates; the registers of a group
as cells (R32, R42, R192 to R197, R221); the fixed facts of a launch that its groups see.
-/
namespace Sys2Proof.Machine

def SlotId.other : SlotId → SlotId
  | .a => .b
  | .b => .a

/-! Blocks, groups, slots -/

def State.block? (s : State) (b : Nat) : Option Block := s.blocks[b]?
def State.modBlock (s : State) (b : Nat) (f : Block → Block) : State := { s with blocks := s.blocks.modify b f }
def Block.modGroup (b : Block) (g : Nat) (f : Group → Group) : Block := { b with groups := b.groups.modify g f }
def State.group? (s : State) (g : GRef) : Option Group := (s.block? g.bid).bind fun b => b.groups[g.gid]?
def State.modGroup (s : State) (g : GRef) (f : Group → Group) : State := s.modBlock g.bid fun b => b.modGroup g.gid f

def Group.slot (g : Group) : SlotId → Slot
  | .a => g.slotA
  | .b => g.slotB
def Group.setSlot (g : Group) (x : SlotId) (v : Slot) : Group :=
  match x with
  | .a => { g with slotA := v }
  | .b => { g with slotB := v }
def Group.modSlot (g : Group) (x : SlotId) (f : Slot → Slot) : Group := g.setSlot x (f (g.slot x))
def State.slot? (s : State) (g : GRef) (x : SlotId) : Option Slot := (s.group? g).map fun h => h.slot x
def State.modSlot (s : State) (g : GRef) (x : SlotId) (f : Slot → Slot) : State :=
  s.modGroup g fun h => h.modSlot x f

def State.modLaunch (s : State) (l : Nat) (f : Launch → Launch) : State := { s with launches := s.launches.modify l f }
def State.modCore (s : State) (c : Nat) (f : Core → Core) : State := { s with cores := s.cores.modify c f }
def State.modCopy (s : State) (c : Nat) (f : Copy → Copy) : State := { s with copies := s.copies.modify c f }
def State.modVif (s : State) (v : Nat) (f : Vif → Vif) : State := { s with vifs := s.vifs.modify v f }

/-- The launch of a block. -/
def State.launchOf (s : State) (bid : Nat) : Option Launch := (s.block? bid).bind fun b => s.launches[b.lid]?
def State.lidOf (s : State) (bid : Nat) : Nat := ((s.block? bid).map Block.lid).getD 0

/-- Every group of the device, with where it stands. -/
def Block.grefs (b : Block) (bid : Nat) : List GRef := (List.range b.groups.length).map fun g => ⟨bid, g⟩

/-- Supervisor mode is TCODE.SUP (R201). -/
def Group.sup (g : Group) : Bool := g.tcode.getLsbD 8

/-- The node of the work graph whose kernel the block runs, if any (R436). -/
def Launch.nodeOf (l : Launch) (b : Block) : Option Node := b.node.bind fun n => l.nodes[n]?

/-- The scalar and vector allotments N and V of a block's groups (R31, R436). -/
def Launch.nsregOf (l : Launch) (b : Block) : Nat := ((l.nodeOf b).map Node.nsreg).getD l.nsreg
def Launch.nvregOf (l : Launch) (b : Block) : Nat := ((l.nodeOf b).map Node.nvreg).getD l.nvreg

/-- The block's sheet budget, tile count and group count; a node block has one group (R436). -/
def Launch.sheetOf (l : Launch) (b : Block) : Nat := ((l.nodeOf b).map Node.sheet).getD l.sheet
def Launch.accOf (l : Launch) (b : Block) : Nat := ((l.nodeOf b).map Node.acc).getD l.acc
def Launch.ngrpOf (l : Launch) (b : Block) : Nat := if b.node.isSome then 1 else l.ngrp

/-- DET and GRIDBAR hold for the launch's own blocks and not for node blocks (R436). -/
def Launch.detOf (l : Launch) (b : Block) : Bool := l.det && b.node.isNone
def Launch.gridbarOf (l : Launch) (b : Block) : Bool := l.gridbar && b.node.isNone

/-! Registers as cells -/

/-- The registers that exist (R32). -/
def sExists (n : Nat) (sup : Bool) (r : Nat) : Bool :=
  r < n || (104 ≤ r && r < 128) || (sup && 96 ≤ r && r < 104)
def vExists (n : Nat) (sup : Bool) (r : Nat) : Bool := r < n || (sup && 124 ≤ r && r < 128)

/-- The cell that scalar register `r` names for a slot: banked in supervisor mode (R221), the slot's own EXEC for
s125 to s127 (R42). -/
def sCell (sup : Bool) (x : SlotId) (r : Nat) : RegCell :=
  if 125 ≤ r then .exec x (r - 125) else if sup && 96 ≤ r && r < 104 then .sb r else .s r

/-- The cell of lane `j` of vector register `r`. -/
def vCell (sup : Bool) (r j : Nat) : RegCell := if sup && 124 ≤ r then .vb r j else .v r j

/-- Word `w` of a mask of lanes (R195). -/
def laneWord (m : Lanes) (w : Nat) : Word := (m >>> (32 * w)).setWidth 32

/-- A mask of lanes from three words. -/
def lanesOfWords (w0 w1 w2 : Word) : Lanes := w2 ++ w1 ++ w0

/-- A mask of lanes with word `w` replaced. -/
def setLaneWord (m : Lanes) (w : Nat) (v : Word) : Lanes :=
  lanesOfWords (if w = 0 then v else laneWord m 0) (if w = 1 then v else laneWord m 1)
    (if w = 2 then v else laneWord m 2)

/-- The value a cell holds. -/
def Group.cell (g : Group) (c : RegCell) : Word :=
  match c with
  | .s n => assocGet 0 g.s n
  | .sb n => assocGet 0 g.sb n
  | .v r j => assocGet 0 g.v (96 * r + j)
  | .vb r j => assocGet 0 g.vb (96 * r + j)
  | .ix n => assocGet 0 g.ix n
  | .exec x w => laneWord (g.slot x).exec w

/-- A cell written. A write to EXEC is ANDed with the slot's OWN (R194). -/
def Group.setCell (g : Group) (c : RegCell) (v : Word) : Group :=
  match c with
  | .s n => { g with s := assocSet 0 g.s n v }
  | .sb n => { g with sb := assocSet 0 g.sb n v }
  | .v r j => { g with v := assocSet 0 g.v (96 * r + j) v }
  | .vb r j => { g with vb := assocSet 0 g.vb (96 * r + j) v }
  | .ix n => { g with ix := assocSet 0 g.ix n (v &&& 0xFF) }
  | .exec x w => g.modSlot x fun sl => { sl with exec := setLaneWord sl.exec w v &&& sl.own }

/-- Registers that have been written hold no error any more (R452). -/
def Group.mend (g : Group) (cs : List RegCell) : Group := { g with bad := g.bad.filter fun c => !cs.contains c }

/-- Several cells written, in order. -/
def Group.setCells (g : Group) (l : List (RegCell × Word)) : Group :=
  (l.foldl (fun g p => g.setCell p.1 p.2) g).mend (l.map Prod.fst)

/-- The low and high words of a number, low first. -/
def wordsOf (n v : Nat) : List Word := (List.range n).map fun i => BitVec.ofNat 32 (v / 2 ^ (32 * i))

/-- A number from words, low first. -/
def ofWords : List Word → Nat
  | [] => 0
  | w :: r => w.toNat + 2 ^ 32 * ofWords r

/-- The value of a cell as an instruction of slot `x` reads it (R99): a fixed-latency result of an earlier
instruction of the clause is seen once the clause clock has reached the time its latency gives; before that the
register reads as it did before that instruction. The newest result that is visible counts (log 14). -/
def oldValue (clock : Nat) (c : RegCell) : List Shadow → Word → Word
  | [], cur => cur
  | h :: r, cur => if h.cell = c && clock < h.vis then oldValue clock c r h.old
                   else if h.cell = c then cur else oldValue clock c r cur

def Group.readCell (g : Group) (x : SlotId) (c : RegCell) : Word :=
  let sl := g.slot x
  oldValue sl.clock c sl.shadows (g.cell c)

/-- The slot would read an old value of the cell (R101). -/
def Group.stale (g : Group) (x : SlotId) (c : RegCell) : Bool :=
  let sl := g.slot x
  sl.shadows.any fun h => h.cell = c && sl.clock < h.vis

/-- EXEC as the slot reads it, and mask k(n) as the slot reads it. -/
def Group.readMask (g : Group) (x : SlotId) (k : Nat) : Lanes :=
  let w (i : Nat) := g.readCell x (sCell g.sup x (104 + 3 * k + i))
  lanesOfWords (w 0) (w 1) (w 2)

/-- Position of the instruction at the slot's PC in its clause (R219). -/
def Slot.clidx (sl : Slot) : Nat := (sl.clause.map Clause.pos).getD 0

/-- Makes every earlier result of the slot visible (R100). -/
def Slot.settle (sl : Slot) : Slot := { sl with shadows := [], clock := 0 }

/-! Operations outstanding -/

/-- Every instruction that has issued and is not performed, those being translated included (R127). -/
def Group.outstanding (g : Group) : List Pend := g.pend ++ g.slotA.walk.toList ++ g.slotB.walk.toList

/-- The cells an operation will write when it is performed. -/
def Body.cells : Body → List RegCell
  | .sgJoin d _ => [d]
  | .sgLeave d => [d]
  | .sgQuery d => [d]
  | .pfmap d0 d1 _ => [d0, d1]
  | .bridle _ ls => ls.map BridleLane.dst
  | .sample _ ls => ls.flatMap fun l => [l.dst, l.ctr]
  | .emit _ d _ => [d]
  | .ticket _ _ d => [d]
  | _ => []
def Pend.cells (p : Pend) : List RegCell := p.accs.flatMap LaneAcc.dst ++ p.body.cells

/-- The scoreboard holds back an instruction that reads or writes a cell which an outstanding operation will write
(R98, R194). -/
def Group.busy (g : Group) (cs : List RegCell) : Bool :=
  let b := g.outstanding.flatMap Pend.cells
  cs.any fun c => b.contains c

/-- Counter n (R127); what is performed at its scope is not counted. -/
def Group.streamCount (g : Group) (n : Nat) : Nat := (g.outstanding.filter fun p => p.q = some n && p.st ≠ .passed).length

/-- STRM0 and STRM1 (R129). -/
def Group.strm (g : Group) (i : Nat) : Word :=
  BitVec.ofNat 32 (packElems 8 ((List.range 4).map fun n => g.streamCount (4 * i + n)))

/-- Operations in program order. -/
def insertPend (p : Pend) : List Pend → List Pend
  | [] => [p]
  | a :: r => if p.ser < a.ser then p :: a :: r else a :: insertPend p r

end Sys2Proof.Machine
end

