-- ==== Sys2Proof/Machine/Flags.lean ====
section
/-!
DEFINITION. The sticky flags of GSTAT (R200), the trap enables of FPCTL (R199, R218) and the collection of FPEXC
(R297).
-/
namespace Sys2Proof.Machine

/-- Bits of GSTAT above the five floating-point conditions (R200). -/
def gsCMIXS : Nat := 0x20
def gsTKNIL : Nat := 0x40
def gsTMILL : Nat := 0x80
def gsRNGWRAP : Nat := 0x100
def gsSDEGEN : Nat := 0x200
def gsZRANGE : Nat := 0x400
def gsNANL : Nat := 0x800

/-- Sets sticky bits. -/
def Group.raise (h : Group) (bits : Nat) : Group := { h with gstat := h.gstat ||| BitVec.ofNat 32 bits }

/-- The enables in force: all 0 in supervisor mode (R218). -/
def Group.enables (h : Group) : Nat := if h.sup then 0 else h.fpctl.toNat

/-- CMIXCTL.MISS in force: 1 in supervisor mode (R185, R218). -/
def Group.miss (h : Group) : Bool := h.sup || h.cmixctl.getLsbD 0

/-- FPCTL and CMIXCTL as SRD reads them. -/
def Group.fpctlRead (h : Group) : Word := if h.sup then 0 else h.fpctl
def Group.cmixRead (h : Group) : Word := if h.sup then h.cmixctl ||| 1 else h.cmixctl

/-- The lanes in which an enabled floating-point condition was raised (R297). -/
def enabledLanes (enables : Nat) (conds : List (Nat × Nat)) : Lanes :=
  lanesFrom ((conds.filter fun p => p.2 &&& (enables &&& 0x1F) ≠ 0).map Prod.fst)

/-- The union of the conditions of all lanes. -/
def allConds (conds : List (Nat × Nat)) : Nat := conds.foldl (fun a p => a ||| p.2) 0

/-- The earliest instruction of the clause with an enabled condition is kept until the clause ends (R297). -/
def Slot.collect (sl : Slot) (iword : DWord) (m : Lanes) : Slot :=
  if m = 0 || sl.fpx.isSome then sl else { sl with fpx := some ⟨sl.clidx, sl.pc, iword, m⟩ }

/-- Trap codes of R216. -/
def trapILLOP : Nat := 0x01
def trapILLCLS : Nat := 0x02
def trapREGBND : Nat := 0x03
def trapSBCHK : Nat := 0x04
def trapMISAL : Nat := 0x05
def trapPROT : Nat := 0x06
def trapPGFLT : Nat := 0x07
def trapCMIX : Nat := 0x08
def trapFPEXC : Nat := 0x09
def trapSIGMIS : Nat := 0x0A
def trapTAILOVF : Nat := 0x0B
def trapTKNIL : Nat := 0x0C
def trapTMILL : Nat := 0x0D
def trapRNGWRAP : Nat := 0x0E
def trapREVOKE : Nat := 0x0F
def trapSWTRAP : Nat := 0x10
def trapBRKPT : Nat := 0x11
def trapECCUNC : Nat := 0x12
def trapPRIV : Nat := 0x13

end Sys2Proof.Machine
end

