-- ==== Sys2Proof/WellFormed.lean ====
section
/-!
DEFINITION. Which terms of Instr stand for something. Rows of the opcode table that share an opcode are told apart
by one field (SADDC and SADDC.c by SUB, and so on), a matrix word is one that R107 does not call illegal, an illegal
word is one that the maps of R103 and R106 do not list, and an event names parties that exist.
-/
namespace Sys2Proof

/-- How many opcodes class `c` has: indices 1 to this are listed (R103, R104). -/
def classSize (c : Nat) : Nat :=
  match c with
  | 0 => 0x34
  | 1 => 0x25
  | 2 => 0x18
  | 3 => 0x1D
  | 4 => 0x11
  | 5 => 0x07
  | 6 => 0x05
  | 7 => 0x10
  | _ => 0

/-- The opcode is one that R103 lists. -/
def opListed (op : Nat) : Bool := 1 ≤ op % 128 && op % 128 ≤ classSize (op / 128)

/-- A matrix format code that exists: 13 to 15 are illegal (R107). -/
def fmtCodeOk (c : BitVec 4) : Bool := c.toNat ≤ 12

/-- R107's conditions on the fields of a decoded matrix word, and R106's zero fields. Words of the clause stream
and events are no matrix words. -/
def Instr.matrixLegal (i : Instr) : Bool :=
  match i with
  | .mset f => f.rsv = 0 && f.ha = 0 && f.hi = 0
  | .msetHi f => f.rsv = 0 && f.ha = 0 && f.hi = 1
  | .madd f => f.rsv = 0 && f.hi = 0
  | .mbnz f => f.rsv = 0 && f.ha = 0 && f.hi = 0
  | .mbra f => f.rsv = 0 && f.hd = 0 && f.ha = 0 && f.hi = 0
  | .mwaitb f | .marrb f => f.rsv = 0 && f.bar ≠ 0
  | .malloc f | .mfree f | .mzero f => f.rsv = 0 && f.tmask ≠ 0
  | .mma f | .mmas f | .mmaz f | .mmag f =>
    fmtCodeOk f.fa && fmtCodeOk f.fb && f.flags.toNat < 8
  | .mdrn f | .mdrna f => f.rsv1 = 0 && f.rsv2 = 0 && fmtCodeOk f.fmt
  | .mend f => f.rsv = 0
  | _ => false

/-- Logical cores have numbers below 256 (R7), virtual interfaces below 64 (R461), hardware queue slots below 128
(R427), ports are 0 and 1 (R461). -/
def coreOk (c : Nat) : Bool := c < 256
def vifOk (v : Nat) : Bool := v < 64
def qslotOk (q : Nat) : Bool := q < 128
def portOk (p : Nat) : Bool := p < 2

/-- R107 and R106 said of the word itself: an operation code outside 0x01 to 0x10, a reserved bit that is set, a
field that must be zero, a format code of 13 to 15, a zero BAR, an empty TMASK. -/
def matrixIllegal (w : DWord) : Bool :=
  let fld (pos len : Nat) : Nat := (w.extractLsb' pos len).toNat
  match fld 56 8 with
  | 0x01 => fld 46 5 ≠ 0 || fld 33 13 ≠ 0
  | 0x02 => fld 32 14 ≠ 0
  | 0x03 => fld 32 19 ≠ 0
  | 0x04 => fld 32 24 ≠ 0
  | 0x05 | 0x06 => fld 0 52 ≠ 0 || fld 52 4 = 0
  | 0x07 | 0x08 | 0x09 => fld 16 40 ≠ 0 || fld 0 16 = 0
  | 0x0A | 0x0B | 0x0C | 0x0D => fld 28 4 > 12 || fld 24 4 > 12 || fld 3 5 ≠ 0
  | 0x0E | 0x0F => fld 32 10 ≠ 0 || fld 16 12 ≠ 0 || fld 28 4 > 12
  | 0x10 => fld 0 56 ≠ 0
  | _ => true

/-- The terms that the decoder can give, and the events whose parties exist. -/
def Instr.wf (i : Instr) : Bool :=
  match i with
  | .nop _ => true
  | .smov _ => true
  | .smovi f => f.sub ≠ 1
  | .smoviB64 f => f.sub = 1
  | .sadd _ => true
  | .saddc f => f.sub ≠ 1
  | .saddcC f => f.sub = 1
  | .ssub _ => true
  | .ssubb f => f.sub ≠ 1
  | .ssubbC f => f.sub = 1
  | .smul _ => true
  | .smulh _ => true
  | .sand _ => true
  | .sor _ => true
  | .sxor _ => true
  | .sandn _ => true
  | .sshl _ => true
  | .sshr _ => true
  | .ssra _ => true
  | .smin _ => true
  | .smax _ => true
  | .sset _ => true
  | .ssel _ => true
  | .sclz _ => true
  | .sffs _ => true
  | .spopc _ => true
  | .saddp _ => true
  | .slea _ => true
  | .ixset _ => true
  | .kmov _ => true
  | .kand _ => true
  | .kor _ => true
  | .kxor _ => true
  | .kandn _ => true
  | .knot _ => true
  | .kpopc _ => true
  | .kffs _ => true
  | .bra _ => true
  | .brc _ => true
  | .bsplit _ => true
  | .bjoin _ => true
  | .call _ => true
  | .calli _ => true
  | .callt _ => true
  | .ret _ => true
  | .exit _ => true
  | .yield _ => true
  | .bbar _ => true
  | .gbar _ => true
  | .trap _ => true
  | .eret _ => true
  | .sigset _ => true
  | .srd f => f.imm ≠ 0x30 && f.imm ≠ 0x31
  | .srdTimelo f => f.imm = 0x30
  | .srdTimehi f => f.imm = 0x31
  | .swr f => f.imm ≠ 0x23
  | .swrGstat f => f.imm = 0x23
  | .brk _ => true
  | .clauseHeader f => f.mark = 0x3F
  | .vmov _ => true
  | .vmovi _ => true
  | .vadd _ => true
  | .vsub _ => true
  | .vmul _ => true
  | .vmulh _ => true
  | .vmad _ => true
  | .vabsd _ => true
  | .vmin _ => true
  | .vmax _ => true
  | .vand _ => true
  | .vor _ => true
  | .vxor _ => true
  | .vandn _ => true
  | .vshl _ => true
  | .vshr _ => true
  | .vsra _ => true
  | .vrot _ => true
  | .vclz _ => true
  | .vffs _ => true
  | .vpopc _ => true
  | .vbrev _ => true
  | .vbfe _ => true
  | .vbfi _ => true
  | .vset _ => true
  | .vsel _ => true
  | .vsat _ => true
  | .vpack _ => true
  | .vunpk _ => true
  | .vshfl _ => true
  | .vshfi _ => true
  | .vbcast _ => true
  | .vcmprs _ => true
  | .vlane _ => true
  | .vrdln _ => true
  | .vwrln _ => true
  | .vred _ => true
  | .fadd _ => true
  | .fsub _ => true
  | .fmul _ => true
  | .ffma _ => true
  | .fmin _ => true
  | .fmax _ => true
  | .fabs _ => true
  | .fneg _ => true
  | .fcpsn _ => true
  | .fset _ => true
  | .fclass _ => true
  | .frnd _ => true
  | .fcvt _ => true
  | .fcvti _ => true
  | .icvtf _ => true
  | .fdot2 _ => true
  | .xclr _ => true
  | .xadd _ => true
  | .xmadd _ => true
  | .xrnd _ => true
  | .xscan _ => true
  | .xrd _ => true
  | .xwr _ => true
  | .xstat _ => true
  | .ex2f _ => true
  | .ex2r _ => true
  | .lg2f _ => true
  | .lg2r _ => true
  | .rcpf _ => true
  | .rcpr _ => true
  | .rsqf _ => true
  | .rsqr _ => true
  | .sqtf _ => true
  | .sqtr _ => true
  | .divf _ => true
  | .divr _ => true
  | .sinf _ => true
  | .sinr _ => true
  | .cosf _ => true
  | .cosr _ => true
  | .tnhf _ => true
  | .tnhr _ => true
  | .sigf _ => true
  | .sigr _ => true
  | .qscl _ => true
  | .qzp _ => true
  | .qcvt _ => true
  | .dqcvt _ => true
  | .kbpack _ => true
  | .kbunpk _ => true
  | .rngk f => f.c ≠ 0x181
  | .rngkB64 f => f.c = 0x181
  | .rng _ => true
  | .rngf _ => true
  | .ld _ => true
  | .lds _ => true
  | .ldb _ => true
  | .st _ => true
  | .sts _ => true
  | .stb _ => true
  | .atom _ => true
  | .acas _ => true
  | .atoms _ => true
  | .acass _ => true
  | .prfm _ => true
  | .sgjoin _ => true
  | .sgleave _ => true
  | .sgqry _ => true
  | .pfmap _ => true
  | .pfpark _ => true
  | .tlbi _ => true
  | .pageWalk => true
  | .accessPerform _ => true
  | .cpys _ => true
  | .cpyt _ => true
  | .cpye _ => true
  | .cpwp _ => true
  | .cpwait _ => true
  | .cpcan _ => true
  | .cpqry _ => true
  | .copyStart => true
  | .copyChunk => true
  | .copyResume => true
  | .mbar _ => true
  | .mwait _ => true
  | .marrw _ => true
  | .atov _ => true
  | .vtoa _ => true
  | .mset f => (Instr.mset f).matrixLegal
  | .msetHi f => (Instr.msetHi f).matrixLegal
  | .madd f => (Instr.madd f).matrixLegal
  | .mbnz f => (Instr.mbnz f).matrixLegal
  | .mbra f => (Instr.mbra f).matrixLegal
  | .mwaitb f => (Instr.mwaitb f).matrixLegal
  | .marrb f => (Instr.marrb f).matrixLegal
  | .malloc f => (Instr.malloc f).matrixLegal
  | .mfree f => (Instr.mfree f).matrixLegal
  | .mzero f => (Instr.mzero f).matrixLegal
  | .mma f => (Instr.mma f).matrixLegal
  | .mmas f => (Instr.mmas f).matrixLegal
  | .mmaz f => (Instr.mmaz f).matrixLegal
  | .mmag f => (Instr.mmag f).matrixLegal
  | .mdrn f => (Instr.mdrn f).matrixLegal
  | .mdrna f => (Instr.mdrna f).matrixLegal
  | .mend f => (Instr.mend f).matrixLegal
  | .matrixWordDone => true
  | .gangPartRun => true
  | .tmload _ => true
  | .tmstep _ => true
  | .tmmask _ => true
  | .tmqry _ => true
  | .tmsave _ => true
  | .sample _ => true
  | .sargmx _ => true
  | .tkbeg _ => true
  | .tkend _ => true
  | .tkwait _ => true
  | .tkpass _ => true
  | .ticketRelease => true
  | .cllred _ => true
  | .reductionStepRun _ _ => true
  | .tetherMemberLost => true
  | .cllqry _ => true
  | .contq _ => true
  | .twait _ => true
  | .twaitExpiry => true
  | .nemit _ => true
  | .nodeGatherTimer _ => true
  | .pendingToActive => true
  | .activeSetExchange => true
  | .blockAdmit _ core => coreOk core
  | .blockSwapOut => true
  | .parktExpiry => true
  | .blockReadmit core => coreOk core
  | .parkedFaultRetry _ => true
  | .coreRetire => true
  | .preempt cores => cores.all coreOk
  | .quantumExpiry => true
  | .snapshotUnitCopy _ => true
  | .launchComplete => true
  | .timedLaunchStart => true
  | .doorbell queue _ => queue < 4096
  | .queueIdleUnmap => true
  | .launch => true
  | .wait => true
  | .waitSatisfied => true
  | .signal => true
  | .load => true
  | .unload => true
  | .rcbsync => true
  | .asidset => true
  | .pool => true
  | .resume => true
  | .commcreate => true
  | .commcreateTimeout => true
  | .commdestroy => true
  | .faultq => true
  | .quantum => true
  | .qtbaseWrite _ => true
  | .vistatWrite _ => true
  | .vireset _ => true
  | .viRegisterWrite _ _ _ => true
  | .apertureAccess offset _ => offset < 2 ^ 32
  | .setPowerLimit _ => true
  | .powerWindow _ => true
  | .thermalThrottle _ => true
  | .thermalShutdown _ => true
  | .keyEnroll vif _ _ => vifOk vif
  | .keyRemove vif _ => vifOk vif
  | .getMeasurements => true
  | .vendorMeasurementBlock => true
  | .liveUpdate _ _ => true
  | .heartbeatTimeout => true
  | .tetherSyncLost => true
  | .tetherSyncRegained => true
  | .dramRefreshScrub _ => true
  | .sheetScrub _ => true
  | .powerOnReset => true
  | .illegalOpcode w => !opListed (w.extractLsb' 54 10).toNat && w.extractLsb' 58 6 ≠ 0x3F
  | .illegalMatrixWord w => matrixIllegal w
  | .setupExchange _ => true
  | .stepAbort _ => true
  | .firmwareConfiguration vif newPort => vifOk vif && portOk newPort

end Sys2Proof
end

