-- ==== Sys2Proof/Decode.lean ====
section
/-!
DEFINITION. Decoding and encoding of the LX9's words, both from the layouts of R74 (clause header), R83 (clause
instructions), R103 (opcode map), R105 and R106 (matrix stream). Decoding is total: a 64-bit word at an instruction
position always stands for something, an unlisted opcode for ILLEGAL_OPCODE (R104) and a malformed matrix word for
ILLEGAL_MATRIX_WORD (R107). Only a byte list shorter than a word is rejected.
-/
namespace Sys2Proof

/-- Why bytes are no word. -/
inductive DecodeError
  /-- Fewer than eight bytes are left; every word of both streams has eight (R73, R105). -/
  | truncated (have_ : Nat)
  deriving DecidableEq, Repr

/-- The two sequences of words the LX9 fetches: clauses (R73) and a matrix stream (R105). -/
inductive Stream
  | clause
  | matrix
  deriving DecidableEq, Repr

/-- OP[63:54] of a clause word (R83). -/
def opField (w : DWord) : Nat := (w.extractLsb' 54 10).toNat

/-- MOP[63:56] of a matrix-stream word (R105). -/
def mopField (w : DWord) : Nat := (w.extractLsb' 56 8).toNat

/-- The V fields of a word: bits [53:0] below its operation field. -/
def WordV.ofWord (w : DWord) : WordV where
  stl := w.extractLsb' 50 4
  ru := w.extractLsb' 47 3
  km := w.extractLsb' 44 3
  z := w.extractLsb' 43 1
  rm := w.extractLsb' 41 2
  d := w.extractLsb' 32 9
  a := w.extractLsb' 23 9
  b := w.extractLsb' 14 9
  c := w.extractLsb' 5 9
  ty := w.extractLsb' 0 5

/-- The V fields laid side by side, the first one highest. -/
def WordV.bits (f : WordV) : BitVec 54 :=
  f.stl ++ f.ru ++ f.km ++ f.z ++ f.rm ++ f.d ++ f.a ++ f.b ++ f.c ++ f.ty

/-- The VI fields of a word: bits [53:0] below its operation field. -/
def WordVI.ofWord (w : DWord) : WordVI where
  stl := w.extractLsb' 50 4
  ru := w.extractLsb' 47 3
  km := w.extractLsb' 44 3
  z := w.extractLsb' 43 1
  zero := w.extractLsb' 41 2
  d := w.extractLsb' 32 9
  imm := w.extractLsb' 0 32

/-- The VI fields laid side by side, the first one highest. -/
def WordVI.bits (f : WordVI) : BitVec 54 :=
  f.stl ++ f.ru ++ f.km ++ f.z ++ f.zero ++ f.d ++ f.imm

/-- The S fields of a word: bits [53:0] below its operation field. -/
def WordS.ofWord (w : DWord) : WordS where
  stl := w.extractLsb' 50 4
  ru := w.extractLsb' 47 3
  d := w.extractLsb' 38 9
  a := w.extractLsb' 29 9
  b := w.extractLsb' 20 9
  c := w.extractLsb' 11 9
  sub := w.extractLsb' 5 6
  ty := w.extractLsb' 0 5

/-- The S fields laid side by side, the first one highest. -/
def WordS.bits (f : WordS) : BitVec 54 :=
  f.stl ++ f.ru ++ f.d ++ f.a ++ f.b ++ f.c ++ f.sub ++ f.ty

/-- The SI fields of a word: bits [53:0] below its operation field. -/
def WordSI.ofWord (w : DWord) : WordSI where
  stl := w.extractLsb' 50 4
  ru := w.extractLsb' 47 3
  d := w.extractLsb' 38 9
  sub := w.extractLsb' 32 6
  imm := w.extractLsb' 0 32

/-- The SI fields laid side by side, the first one highest. -/
def WordSI.bits (f : WordSI) : BitVec 54 :=
  f.stl ++ f.ru ++ f.d ++ f.sub ++ f.imm

/-- The B fields of a word: bits [53:0] below its operation field. -/
def WordB.ofWord (w : DWord) : WordB where
  stl := w.extractLsb' 50 4
  ru := w.extractLsb' 47 3
  km := w.extractLsb' 44 3
  a := w.extractLsb' 35 9
  cc := w.extractLsb' 32 3
  disp := w.extractLsb' 0 32

/-- The B fields laid side by side, the first one highest. -/
def WordB.bits (f : WordB) : BitVec 54 :=
  f.stl ++ f.ru ++ f.km ++ f.a ++ f.cc ++ f.disp

/-- The M fields of a word: bits [53:0] below its operation field. -/
def WordM.ofWord (w : DWord) : WordM where
  stl := w.extractLsb' 50 4
  ru := w.extractLsb' 47 3
  km := w.extractLsb' 44 3
  d := w.extractLsb' 35 9
  a := w.extractLsb' 26 9
  w := w.extractLsb' 23 3
  off := w.extractLsb' 18 5
  q := w.extractLsb' 15 3
  pm := w.extractLsb' 7 8
  sc := w.extractLsb' 5 2
  sem := w.extractLsb' 3 2
  as := w.extractLsb' 1 2
  x := w.extractLsb' 0 1

/-- The M fields laid side by side, the first one highest. -/
def WordM.bits (f : WordM) : BitVec 54 :=
  f.stl ++ f.ru ++ f.km ++ f.d ++ f.a ++ f.w ++ f.off ++ f.q ++ f.pm ++ f.sc ++ f.sem ++ f.as ++ f.x

/-- The MA fields of a word: bits [53:0] below its operation field. -/
def WordMA.ofWord (w : DWord) : WordMA where
  stl := w.extractLsb' 50 4
  ru := w.extractLsb' 47 3
  d := w.extractLsb' 38 9
  a := w.extractLsb' 29 9
  b := w.extractLsb' 20 9
  aop := w.extractLsb' 16 4
  w64 := w.extractLsb' 15 1
  q := w.extractLsb' 12 3
  pm := w.extractLsb' 4 8
  sc := w.extractLsb' 2 2
  sem := w.extractLsb' 0 2

/-- The MA fields laid side by side, the first one highest. -/
def WordMA.bits (f : WordMA) : BitVec 54 :=
  f.stl ++ f.ru ++ f.d ++ f.a ++ f.b ++ f.aop ++ f.w64 ++ f.q ++ f.pm ++ f.sc ++ f.sem

/-- The C fields of a word: bits [53:0] below its operation field. -/
def WordC.ofWord (w : DWord) : WordC where
  stl := w.extractLsb' 50 4
  ru := w.extractLsb' 47 3
  desc := w.extractLsb' 38 9
  d := w.extractLsb' 29 9
  q := w.extractLsb' 26 3
  pm := w.extractLsb' 18 8
  x := w.extractLsb' 17 1
  xf := w.extractLsb' 13 4
  ch := w.extractLsb' 5 8
  ty := w.extractLsb' 0 5

/-- The C fields laid side by side, the first one highest. -/
def WordC.bits (f : WordC) : BitVec 54 :=
  f.stl ++ f.ru ++ f.desc ++ f.d ++ f.q ++ f.pm ++ f.x ++ f.xf ++ f.ch ++ f.ty

/-- The X fields of a word: bits [53:0] below its operation field. -/
def WordX.ofWord (w : DWord) : WordX where
  stl := w.extractLsb' 50 4
  ru := w.extractLsb' 47 3
  bar := w.extractLsb' 43 4
  cnt := w.extractLsb' 35 8
  q := w.extractLsb' 32 3
  pm := w.extractLsb' 24 8
  x := w.extractLsb' 23 1
  d := w.extractLsb' 14 9
  a := w.extractLsb' 5 9
  ty := w.extractLsb' 0 5

/-- The X fields laid side by side, the first one highest. -/
def WordX.bits (f : WordX) : BitVec 54 :=
  f.stl ++ f.ru ++ f.bar ++ f.cnt ++ f.q ++ f.pm ++ f.x ++ f.d ++ f.a ++ f.ty

/-- The Y fields of a word: bits [53:0] below its operation field. -/
def WordY.ofWord (w : DWord) : WordY where
  stl := w.extractLsb' 50 4
  ru := w.extractLsb' 47 3
  d := w.extractLsb' 38 9
  a := w.extractLsb' 29 9
  b := w.extractLsb' 20 9
  c := w.extractLsb' 11 9
  q := w.extractLsb' 8 3
  pm := w.extractLsb' 0 8

/-- The Y fields laid side by side, the first one highest. -/
def WordY.bits (f : WordY) : BitVec 54 :=
  f.stl ++ f.ru ++ f.d ++ f.a ++ f.b ++ f.c ++ f.q ++ f.pm

/-- The H fields of a word: bits [63:0] below its operation field. -/
def WordH.ofWord (w : DWord) : WordH where
  mark := w.extractLsb' 58 6
  nm1 := w.extractLsb' 54 4
  cls := w.extractLsb' 51 3
  y := w.extractLsb' 50 1
  sck := w.extractLsb' 49 1
  sig := w.extractLsb' 33 16
  wb := w.extractLsb' 29 4
  rsv := w.extractLsb' 0 29

/-- The H fields laid side by side, the first one highest. -/
def WordH.bits (f : WordH) : BitVec 64 :=
  f.mark ++ f.nm1 ++ f.cls ++ f.y ++ f.sck ++ f.sig ++ f.wb ++ f.rsv

/-- The MR fields of a word: bits [55:0] below its operation field. -/
def WordMR.ofWord (w : DWord) : WordMR where
  hd := w.extractLsb' 51 5
  ha := w.extractLsb' 46 5
  rsv := w.extractLsb' 33 13
  hi := w.extractLsb' 32 1
  imm := w.extractLsb' 0 32

/-- The MR fields laid side by side, the first one highest. -/
def WordMR.bits (f : WordMR) : BitVec 56 :=
  f.hd ++ f.ha ++ f.rsv ++ f.hi ++ f.imm

/-- The MB fields of a word: bits [55:0] below its operation field. -/
def WordMB.ofWord (w : DWord) : WordMB where
  bar := w.extractLsb' 52 4
  rsv := w.extractLsb' 0 52

/-- The MB fields laid side by side, the first one highest. -/
def WordMB.bits (f : WordMB) : BitVec 56 :=
  f.bar ++ f.rsv

/-- The MT fields of a word: bits [55:0] below its operation field. -/
def WordMT.ofWord (w : DWord) : WordMT where
  rsv := w.extractLsb' 16 40
  tmask := w.extractLsb' 0 16

/-- The MT fields laid side by side, the first one highest. -/
def WordMT.bits (f : WordMT) : BitVec 56 :=
  f.rsv ++ f.tmask

/-- The MM fields of a word: bits [55:0] below its operation field. -/
def WordMM.ofWord (w : DWord) : WordMM where
  tile := w.extractLsb' 52 4
  ha := w.extractLsb' 47 5
  sa := w.extractLsb' 42 5
  hb := w.extractLsb' 37 5
  sb := w.extractLsb' 32 5
  fa := w.extractLsb' 28 4
  fb := w.extractLsb' 24 4
  steps := w.extractLsb' 20 4
  aux := w.extractLsb' 16 4
  arr := w.extractLsb' 12 4
  wait := w.extractLsb' 8 4
  flags := w.extractLsb' 0 8

/-- The MM fields laid side by side, the first one highest. -/
def WordMM.bits (f : WordMM) : BitVec 56 :=
  f.tile ++ f.ha ++ f.sa ++ f.hb ++ f.sb ++ f.fa ++ f.fb ++ f.steps ++ f.aux ++ f.arr ++ f.wait ++ f.flags

/-- The MD fields of a word: bits [55:0] below its operation field. -/
def WordMD.ofWord (w : DWord) : WordMD where
  tile := w.extractLsb' 52 4
  addr := w.extractLsb' 47 5
  stride := w.extractLsb' 42 5
  rsv1 := w.extractLsb' 32 10
  fmt := w.extractLsb' 28 4
  rsv2 := w.extractLsb' 16 12
  arr := w.extractLsb' 12 4
  wait := w.extractLsb' 8 4
  flags := w.extractLsb' 0 8

/-- The MD fields laid side by side, the first one highest. -/
def WordMD.bits (f : WordMD) : BitVec 56 :=
  f.tile ++ f.addr ++ f.stride ++ f.rsv1 ++ f.fmt ++ f.rsv2 ++ f.arr ++ f.wait ++ f.flags

/-- The ME fields of a word: bits [55:0] below its operation field. -/
def WordME.ofWord (w : DWord) : WordME where
  rsv := w.extractLsb' 0 56

/-- The ME fields laid side by side, the first one highest. -/
def WordME.bits (f : WordME) : BitVec 56 :=
  f.rsv

/-- The class-0 instruction of index `ix` (R103), if the table lists one. -/
def decodeClass0 (ix : Nat) (w : DWord) : Option Instr :=
  match ix with
  | 0x01 => some (.nop (WordS.ofWord w))
  | 0x02 => some (.smov (WordS.ofWord w))
  | 0x03 => some (if (WordSI.ofWord w).sub = 1 then .smoviB64 (WordSI.ofWord w) else .smovi (WordSI.ofWord w))
  | 0x04 => some (.sadd (WordS.ofWord w))
  | 0x05 => some (if (WordS.ofWord w).sub = 1 then .saddcC (WordS.ofWord w) else .saddc (WordS.ofWord w))
  | 0x06 => some (.ssub (WordS.ofWord w))
  | 0x07 => some (if (WordS.ofWord w).sub = 1 then .ssubbC (WordS.ofWord w) else .ssubb (WordS.ofWord w))
  | 0x08 => some (.smul (WordS.ofWord w))
  | 0x09 => some (.smulh (WordS.ofWord w))
  | 0x0A => some (.sand (WordS.ofWord w))
  | 0x0B => some (.sor (WordS.ofWord w))
  | 0x0C => some (.sxor (WordS.ofWord w))
  | 0x0D => some (.sandn (WordS.ofWord w))
  | 0x0E => some (.sshl (WordS.ofWord w))
  | 0x0F => some (.sshr (WordS.ofWord w))
  | 0x10 => some (.ssra (WordS.ofWord w))
  | 0x11 => some (.smin (WordS.ofWord w))
  | 0x12 => some (.smax (WordS.ofWord w))
  | 0x13 => some (.sset (WordS.ofWord w))
  | 0x14 => some (.ssel (WordS.ofWord w))
  | 0x15 => some (.sclz (WordS.ofWord w))
  | 0x16 => some (.sffs (WordS.ofWord w))
  | 0x17 => some (.spopc (WordS.ofWord w))
  | 0x18 => some (.saddp (WordS.ofWord w))
  | 0x19 => some (.slea (WordS.ofWord w))
  | 0x1A => some (.ixset (WordS.ofWord w))
  | 0x1B => some (.kmov (WordS.ofWord w))
  | 0x1C => some (.kand (WordS.ofWord w))
  | 0x1D => some (.kor (WordS.ofWord w))
  | 0x1E => some (.kxor (WordS.ofWord w))
  | 0x1F => some (.kandn (WordS.ofWord w))
  | 0x20 => some (.knot (WordS.ofWord w))
  | 0x21 => some (.kpopc (WordS.ofWord w))
  | 0x22 => some (.kffs (WordS.ofWord w))
  | 0x23 => some (.bra (WordB.ofWord w))
  | 0x24 => some (.brc (WordB.ofWord w))
  | 0x25 => some (.bsplit (WordB.ofWord w))
  | 0x26 => some (.bjoin (WordB.ofWord w))
  | 0x27 => some (.call (WordB.ofWord w))
  | 0x28 => some (.calli (WordB.ofWord w))
  | 0x29 => some (.callt (WordB.ofWord w))
  | 0x2A => some (.ret (WordB.ofWord w))
  | 0x2B => some (.exit (WordB.ofWord w))
  | 0x2C => some (.yield (WordB.ofWord w))
  | 0x2D => some (.bbar (WordB.ofWord w))
  | 0x2E => some (.gbar (WordB.ofWord w))
  | 0x2F => some (.trap (WordSI.ofWord w))
  | 0x30 => some (.eret (WordS.ofWord w))
  | 0x31 => some (.sigset (WordSI.ofWord w))
  | 0x32 => some (if (WordSI.ofWord w).imm = 0x30 then .srdTimelo (WordSI.ofWord w) else if (WordSI.ofWord w).imm = 0x31 then .srdTimehi (WordSI.ofWord w) else .srd (WordSI.ofWord w))
  | 0x33 => some (if (WordSI.ofWord w).imm = 0x23 then .swrGstat (WordSI.ofWord w) else .swr (WordSI.ofWord w))
  | 0x34 => some (.brk (WordSI.ofWord w))
  | _ => none

/-- The class-1 instruction of index `ix` (R103), if the table lists one. -/
def decodeClass1 (ix : Nat) (w : DWord) : Option Instr :=
  match ix with
  | 0x01 => some (.vmov (WordV.ofWord w))
  | 0x02 => some (.vmovi (WordVI.ofWord w))
  | 0x03 => some (.vadd (WordV.ofWord w))
  | 0x04 => some (.vsub (WordV.ofWord w))
  | 0x05 => some (.vmul (WordV.ofWord w))
  | 0x06 => some (.vmulh (WordV.ofWord w))
  | 0x07 => some (.vmad (WordV.ofWord w))
  | 0x08 => some (.vabsd (WordV.ofWord w))
  | 0x09 => some (.vmin (WordV.ofWord w))
  | 0x0A => some (.vmax (WordV.ofWord w))
  | 0x0B => some (.vand (WordV.ofWord w))
  | 0x0C => some (.vor (WordV.ofWord w))
  | 0x0D => some (.vxor (WordV.ofWord w))
  | 0x0E => some (.vandn (WordV.ofWord w))
  | 0x0F => some (.vshl (WordV.ofWord w))
  | 0x10 => some (.vshr (WordV.ofWord w))
  | 0x11 => some (.vsra (WordV.ofWord w))
  | 0x12 => some (.vrot (WordV.ofWord w))
  | 0x13 => some (.vclz (WordV.ofWord w))
  | 0x14 => some (.vffs (WordV.ofWord w))
  | 0x15 => some (.vpopc (WordV.ofWord w))
  | 0x16 => some (.vbrev (WordV.ofWord w))
  | 0x17 => some (.vbfe (WordV.ofWord w))
  | 0x18 => some (.vbfi (WordV.ofWord w))
  | 0x19 => some (.vset (WordV.ofWord w))
  | 0x1A => some (.vsel (WordV.ofWord w))
  | 0x1B => some (.vsat (WordV.ofWord w))
  | 0x1C => some (.vpack (WordV.ofWord w))
  | 0x1D => some (.vunpk (WordV.ofWord w))
  | 0x1E => some (.vshfl (WordV.ofWord w))
  | 0x1F => some (.vshfi (WordVI.ofWord w))
  | 0x20 => some (.vbcast (WordV.ofWord w))
  | 0x21 => some (.vcmprs (WordV.ofWord w))
  | 0x22 => some (.vlane (WordV.ofWord w))
  | 0x23 => some (.vrdln (WordV.ofWord w))
  | 0x24 => some (.vwrln (WordV.ofWord w))
  | 0x25 => some (.vred (WordV.ofWord w))
  | _ => none

/-- The class-2 instruction of index `ix` (R103), if the table lists one. -/
def decodeClass2 (ix : Nat) (w : DWord) : Option Instr :=
  match ix with
  | 0x01 => some (.fadd (WordV.ofWord w))
  | 0x02 => some (.fsub (WordV.ofWord w))
  | 0x03 => some (.fmul (WordV.ofWord w))
  | 0x04 => some (.ffma (WordV.ofWord w))
  | 0x05 => some (.fmin (WordV.ofWord w))
  | 0x06 => some (.fmax (WordV.ofWord w))
  | 0x07 => some (.fabs (WordV.ofWord w))
  | 0x08 => some (.fneg (WordV.ofWord w))
  | 0x09 => some (.fcpsn (WordV.ofWord w))
  | 0x0A => some (.fset (WordV.ofWord w))
  | 0x0B => some (.fclass (WordV.ofWord w))
  | 0x0C => some (.frnd (WordV.ofWord w))
  | 0x0D => some (.fcvt (WordV.ofWord w))
  | 0x0E => some (.fcvti (WordV.ofWord w))
  | 0x0F => some (.icvtf (WordV.ofWord w))
  | 0x10 => some (.fdot2 (WordV.ofWord w))
  | 0x11 => some (.xclr (WordV.ofWord w))
  | 0x12 => some (.xadd (WordV.ofWord w))
  | 0x13 => some (.xmadd (WordV.ofWord w))
  | 0x14 => some (.xrnd (WordV.ofWord w))
  | 0x15 => some (.xscan (WordV.ofWord w))
  | 0x16 => some (.xrd (WordV.ofWord w))
  | 0x17 => some (.xwr (WordV.ofWord w))
  | 0x18 => some (.xstat (WordV.ofWord w))
  | _ => none

/-- The class-3 instruction of index `ix` (R103), if the table lists one. -/
def decodeClass3 (ix : Nat) (w : DWord) : Option Instr :=
  match ix with
  | 0x01 => some (.ex2f (WordV.ofWord w))
  | 0x02 => some (.ex2r (WordV.ofWord w))
  | 0x03 => some (.lg2f (WordV.ofWord w))
  | 0x04 => some (.lg2r (WordV.ofWord w))
  | 0x05 => some (.rcpf (WordV.ofWord w))
  | 0x06 => some (.rcpr (WordV.ofWord w))
  | 0x07 => some (.rsqf (WordV.ofWord w))
  | 0x08 => some (.rsqr (WordV.ofWord w))
  | 0x09 => some (.sqtf (WordV.ofWord w))
  | 0x0A => some (.sqtr (WordV.ofWord w))
  | 0x0B => some (.divf (WordV.ofWord w))
  | 0x0C => some (.divr (WordV.ofWord w))
  | 0x0D => some (.sinf (WordV.ofWord w))
  | 0x0E => some (.sinr (WordV.ofWord w))
  | 0x0F => some (.cosf (WordV.ofWord w))
  | 0x10 => some (.cosr (WordV.ofWord w))
  | 0x11 => some (.tnhf (WordV.ofWord w))
  | 0x12 => some (.tnhr (WordV.ofWord w))
  | 0x13 => some (.sigf (WordV.ofWord w))
  | 0x14 => some (.sigr (WordV.ofWord w))
  | 0x15 => some (.qscl (WordV.ofWord w))
  | 0x16 => some (.qzp (WordV.ofWord w))
  | 0x17 => some (.qcvt (WordV.ofWord w))
  | 0x18 => some (.dqcvt (WordV.ofWord w))
  | 0x19 => some (.kbpack (WordV.ofWord w))
  | 0x1A => some (.kbunpk (WordV.ofWord w))
  | 0x1B => some (if (WordV.ofWord w).c = 0x181 then .rngkB64 (WordV.ofWord w) else .rngk (WordV.ofWord w))
  | 0x1C => some (.rng (WordV.ofWord w))
  | 0x1D => some (.rngf (WordV.ofWord w))
  | _ => none

/-- The class-4 instruction of index `ix` (R103), if the table lists one. -/
def decodeClass4 (ix : Nat) (w : DWord) : Option Instr :=
  match ix with
  | 0x01 => some (.ld (WordM.ofWord w))
  | 0x02 => some (.lds (WordM.ofWord w))
  | 0x03 => some (.ldb (WordM.ofWord w))
  | 0x04 => some (.st (WordM.ofWord w))
  | 0x05 => some (.sts (WordM.ofWord w))
  | 0x06 => some (.stb (WordM.ofWord w))
  | 0x07 => some (.atom (WordMA.ofWord w))
  | 0x08 => some (.acas (WordMA.ofWord w))
  | 0x09 => some (.atoms (WordMA.ofWord w))
  | 0x0A => some (.acass (WordMA.ofWord w))
  | 0x0B => some (.prfm (WordM.ofWord w))
  | 0x0C => some (.sgjoin (WordM.ofWord w))
  | 0x0D => some (.sgleave (WordM.ofWord w))
  | 0x0E => some (.sgqry (WordM.ofWord w))
  | 0x0F => some (.pfmap (WordM.ofWord w))
  | 0x10 => some (.pfpark (WordM.ofWord w))
  | 0x11 => some (.tlbi (WordM.ofWord w))
  | _ => none

/-- The class-5 instruction of index `ix` (R103), if the table lists one. -/
def decodeClass5 (ix : Nat) (w : DWord) : Option Instr :=
  match ix with
  | 0x01 => some (.cpys (WordC.ofWord w))
  | 0x02 => some (.cpyt (WordC.ofWord w))
  | 0x03 => some (.cpye (WordC.ofWord w))
  | 0x04 => some (.cpwp (WordC.ofWord w))
  | 0x05 => some (.cpwait (WordC.ofWord w))
  | 0x06 => some (.cpcan (WordC.ofWord w))
  | 0x07 => some (.cpqry (WordC.ofWord w))
  | _ => none

/-- The class-6 instruction of index `ix` (R103), if the table lists one. -/
def decodeClass6 (ix : Nat) (w : DWord) : Option Instr :=
  match ix with
  | 0x01 => some (.mbar (WordX.ofWord w))
  | 0x02 => some (.mwait (WordX.ofWord w))
  | 0x03 => some (.marrw (WordX.ofWord w))
  | 0x04 => some (.atov (WordX.ofWord w))
  | 0x05 => some (.vtoa (WordX.ofWord w))
  | _ => none

/-- The class-7 instruction of index `ix` (R103), if the table lists one. -/
def decodeClass7 (ix : Nat) (w : DWord) : Option Instr :=
  match ix with
  | 0x01 => some (.tmload (WordY.ofWord w))
  | 0x02 => some (.tmstep (WordY.ofWord w))
  | 0x03 => some (.tmmask (WordY.ofWord w))
  | 0x04 => some (.tmqry (WordY.ofWord w))
  | 0x05 => some (.tmsave (WordY.ofWord w))
  | 0x06 => some (.sample (WordY.ofWord w))
  | 0x07 => some (.sargmx (WordY.ofWord w))
  | 0x08 => some (.tkbeg (WordY.ofWord w))
  | 0x09 => some (.tkend (WordY.ofWord w))
  | 0x0A => some (.tkwait (WordY.ofWord w))
  | 0x0B => some (.tkpass (WordY.ofWord w))
  | 0x0C => some (.cllred (WordY.ofWord w))
  | 0x0D => some (.cllqry (WordY.ofWord w))
  | 0x0E => some (.contq (WordY.ofWord w))
  | 0x0F => some (.twait (WordY.ofWord w))
  | 0x10 => some (.nemit (WordY.ofWord w))
  | _ => none

/-- The instruction of opcode `op` (R83: class OP[9:7], index OP[6:0]), if R103 lists it. -/
def decodeOp (op : Nat) (w : DWord) : Option Instr :=
  match op / 128 with
  | 0 => decodeClass0 (op % 128) w
  | 1 => decodeClass1 (op % 128) w
  | 2 => decodeClass2 (op % 128) w
  | 3 => decodeClass3 (op % 128) w
  | 4 => decodeClass4 (op % 128) w
  | 5 => decodeClass5 (op % 128) w
  | 6 => decodeClass6 (op % 128) w
  | 7 => decodeClass7 (op % 128) w
  | _ => none

/-- A word at an instruction position of a clause: an unlisted opcode is ILLEGAL_OPCODE (R104). -/
def decodeInstr (w : DWord) : Instr :=
  (decodeOp (opField w) w).getD (.illegalOpcode w)

/-- A word at a header position (R74, R77): its MARK is checked when it executes. -/
def decodeHeader (w : DWord) : Instr := .clauseHeader (WordH.ofWord w)

/-- A word of a clause stream by its own bits: OP[9:4] = 0x3F marks a header (R74, R104). -/
def decodeClauseWord (w : DWord) : Instr :=
  if w.extractLsb' 58 6 = 0x3F then decodeHeader w else decodeInstr w

/-- The operation of a matrix-stream word (R106), its reserved bits not yet looked at. -/
def decodeMop (w : DWord) : Option Instr :=
  match mopField w with
  | 0x01 => some (if (WordMR.ofWord w).hi = 0 then .mset (WordMR.ofWord w) else .msetHi (WordMR.ofWord w))
  | 0x02 => some (.madd (WordMR.ofWord w))
  | 0x03 => some (.mbnz (WordMR.ofWord w))
  | 0x04 => some (.mbra (WordMR.ofWord w))
  | 0x05 => some (.mwaitb (WordMB.ofWord w))
  | 0x06 => some (.marrb (WordMB.ofWord w))
  | 0x07 => some (.malloc (WordMT.ofWord w))
  | 0x08 => some (.mfree (WordMT.ofWord w))
  | 0x09 => some (.mzero (WordMT.ofWord w))
  | 0x0A => some (.mma (WordMM.ofWord w))
  | 0x0B => some (.mmas (WordMM.ofWord w))
  | 0x0C => some (.mmaz (WordMM.ofWord w))
  | 0x0D => some (.mmag (WordMM.ofWord w))
  | 0x0E => some (.mdrn (WordMD.ofWord w))
  | 0x0F => some (.mdrna (WordMD.ofWord w))
  | 0x10 => some (.mend (WordME.ofWord w))
  | _ => none

/-- A word of a matrix stream: one that R107 calls illegal is ILLEGAL_MATRIX_WORD. -/
def decodeMatrix (w : DWord) : Instr :=
  match decodeMop w with
  | some i => if i.matrixLegal then i else .illegalMatrixWord w
  | none => .illegalMatrixWord w

/-- The meaning of one word of a stream. -/
def decodeWord (st : Stream) (w : DWord) : Instr :=
  match st with
  | .clause => decodeClauseWord w
  | .matrix => decodeMatrix w

/-- The word that bytes hold, the first byte lowest (R4). -/
def wordOfBytes (bs : List Byte) : Nat :=
  match bs with
  | [] => 0
  | b :: r => b.toNat + 256 * wordOfBytes r

/-- The `n` bytes of a value, lowest first (R4). -/
def bytesOfNat (n v : Nat) : List Byte :=
  match n with
  | 0 => []
  | k + 1 => BitVec.ofNat 8 v :: bytesOfNat k (v / 256)

/-- Decode the first word of a byte list, and the bytes after it. -/
def decode (st : Stream) (bs : List Byte) : Except DecodeError (Instr × List Byte) :=
  if bs.length < 8 then .error (.truncated bs.length)
  else .ok (decodeWord st (BitVec.ofNat 64 (wordOfBytes (bs.take 8))), bs.drop 8)

/-- The instruction the decoder reads from an instruction whose bits are `w`, numbered as the opcode table numbers
them. Every word has 64 bits, so the bits above `nbits` are zero. The clause decoder comes first; a word that it
finds illegal is read as a matrix-stream word. -/
def decodeTableWord (nbits w : Nat) : Option Instr :=
  match decode .clause (bytesOfNat 8 (w % 2 ^ (min nbits 64))) with
  | .ok (.illegalOpcode v, _) =>
    match decodeMatrix v with
    | .illegalMatrixWord _ => some (.illegalOpcode v)
    | i => some i
  | .ok (i, _) => some i
  | .error _ => none

/-- A clause word from its opcode and the 54 bits below it (R83). -/
def clauseWord (op : BitVec 10) (b : BitVec 54) : DWord := op ++ b

/-- A matrix-stream word from its operation and the 56 bits below it (R105). -/
def matrixWord (mop : BitVec 8) (b : BitVec 56) : DWord := mop ++ b

/-- The word of an instruction (R83, R103, R105, R106); none for an event, which has no word. -/
def encode (i : Instr) : Option DWord :=
  match i with
  | .nop f => some (clauseWord 0x001 f.bits)
  | .smov f => some (clauseWord 0x002 f.bits)
  | .smovi f => some (clauseWord 0x003 f.bits)
  | .smoviB64 f => some (clauseWord 0x003 f.bits)
  | .sadd f => some (clauseWord 0x004 f.bits)
  | .saddc f => some (clauseWord 0x005 f.bits)
  | .saddcC f => some (clauseWord 0x005 f.bits)
  | .ssub f => some (clauseWord 0x006 f.bits)
  | .ssubb f => some (clauseWord 0x007 f.bits)
  | .ssubbC f => some (clauseWord 0x007 f.bits)
  | .smul f => some (clauseWord 0x008 f.bits)
  | .smulh f => some (clauseWord 0x009 f.bits)
  | .sand f => some (clauseWord 0x00A f.bits)
  | .sor f => some (clauseWord 0x00B f.bits)
  | .sxor f => some (clauseWord 0x00C f.bits)
  | .sandn f => some (clauseWord 0x00D f.bits)
  | .sshl f => some (clauseWord 0x00E f.bits)
  | .sshr f => some (clauseWord 0x00F f.bits)
  | .ssra f => some (clauseWord 0x010 f.bits)
  | .smin f => some (clauseWord 0x011 f.bits)
  | .smax f => some (clauseWord 0x012 f.bits)
  | .sset f => some (clauseWord 0x013 f.bits)
  | .ssel f => some (clauseWord 0x014 f.bits)
  | .sclz f => some (clauseWord 0x015 f.bits)
  | .sffs f => some (clauseWord 0x016 f.bits)
  | .spopc f => some (clauseWord 0x017 f.bits)
  | .saddp f => some (clauseWord 0x018 f.bits)
  | .slea f => some (clauseWord 0x019 f.bits)
  | .ixset f => some (clauseWord 0x01A f.bits)
  | .kmov f => some (clauseWord 0x01B f.bits)
  | .kand f => some (clauseWord 0x01C f.bits)
  | .kor f => some (clauseWord 0x01D f.bits)
  | .kxor f => some (clauseWord 0x01E f.bits)
  | .kandn f => some (clauseWord 0x01F f.bits)
  | .knot f => some (clauseWord 0x020 f.bits)
  | .kpopc f => some (clauseWord 0x021 f.bits)
  | .kffs f => some (clauseWord 0x022 f.bits)
  | .bra f => some (clauseWord 0x023 f.bits)
  | .brc f => some (clauseWord 0x024 f.bits)
  | .bsplit f => some (clauseWord 0x025 f.bits)
  | .bjoin f => some (clauseWord 0x026 f.bits)
  | .call f => some (clauseWord 0x027 f.bits)
  | .calli f => some (clauseWord 0x028 f.bits)
  | .callt f => some (clauseWord 0x029 f.bits)
  | .ret f => some (clauseWord 0x02A f.bits)
  | .exit f => some (clauseWord 0x02B f.bits)
  | .yield f => some (clauseWord 0x02C f.bits)
  | .bbar f => some (clauseWord 0x02D f.bits)
  | .gbar f => some (clauseWord 0x02E f.bits)
  | .trap f => some (clauseWord 0x02F f.bits)
  | .eret f => some (clauseWord 0x030 f.bits)
  | .sigset f => some (clauseWord 0x031 f.bits)
  | .srd f => some (clauseWord 0x032 f.bits)
  | .srdTimelo f => some (clauseWord 0x032 f.bits)
  | .srdTimehi f => some (clauseWord 0x032 f.bits)
  | .swr f => some (clauseWord 0x033 f.bits)
  | .swrGstat f => some (clauseWord 0x033 f.bits)
  | .brk f => some (clauseWord 0x034 f.bits)
  | .clauseHeader f => some f.bits
  | .vmov f => some (clauseWord 0x081 f.bits)
  | .vmovi f => some (clauseWord 0x082 f.bits)
  | .vadd f => some (clauseWord 0x083 f.bits)
  | .vsub f => some (clauseWord 0x084 f.bits)
  | .vmul f => some (clauseWord 0x085 f.bits)
  | .vmulh f => some (clauseWord 0x086 f.bits)
  | .vmad f => some (clauseWord 0x087 f.bits)
  | .vabsd f => some (clauseWord 0x088 f.bits)
  | .vmin f => some (clauseWord 0x089 f.bits)
  | .vmax f => some (clauseWord 0x08A f.bits)
  | .vand f => some (clauseWord 0x08B f.bits)
  | .vor f => some (clauseWord 0x08C f.bits)
  | .vxor f => some (clauseWord 0x08D f.bits)
  | .vandn f => some (clauseWord 0x08E f.bits)
  | .vshl f => some (clauseWord 0x08F f.bits)
  | .vshr f => some (clauseWord 0x090 f.bits)
  | .vsra f => some (clauseWord 0x091 f.bits)
  | .vrot f => some (clauseWord 0x092 f.bits)
  | .vclz f => some (clauseWord 0x093 f.bits)
  | .vffs f => some (clauseWord 0x094 f.bits)
  | .vpopc f => some (clauseWord 0x095 f.bits)
  | .vbrev f => some (clauseWord 0x096 f.bits)
  | .vbfe f => some (clauseWord 0x097 f.bits)
  | .vbfi f => some (clauseWord 0x098 f.bits)
  | .vset f => some (clauseWord 0x099 f.bits)
  | .vsel f => some (clauseWord 0x09A f.bits)
  | .vsat f => some (clauseWord 0x09B f.bits)
  | .vpack f => some (clauseWord 0x09C f.bits)
  | .vunpk f => some (clauseWord 0x09D f.bits)
  | .vshfl f => some (clauseWord 0x09E f.bits)
  | .vshfi f => some (clauseWord 0x09F f.bits)
  | .vbcast f => some (clauseWord 0x0A0 f.bits)
  | .vcmprs f => some (clauseWord 0x0A1 f.bits)
  | .vlane f => some (clauseWord 0x0A2 f.bits)
  | .vrdln f => some (clauseWord 0x0A3 f.bits)
  | .vwrln f => some (clauseWord 0x0A4 f.bits)
  | .vred f => some (clauseWord 0x0A5 f.bits)
  | .fadd f => some (clauseWord 0x101 f.bits)
  | .fsub f => some (clauseWord 0x102 f.bits)
  | .fmul f => some (clauseWord 0x103 f.bits)
  | .ffma f => some (clauseWord 0x104 f.bits)
  | .fmin f => some (clauseWord 0x105 f.bits)
  | .fmax f => some (clauseWord 0x106 f.bits)
  | .fabs f => some (clauseWord 0x107 f.bits)
  | .fneg f => some (clauseWord 0x108 f.bits)
  | .fcpsn f => some (clauseWord 0x109 f.bits)
  | .fset f => some (clauseWord 0x10A f.bits)
  | .fclass f => some (clauseWord 0x10B f.bits)
  | .frnd f => some (clauseWord 0x10C f.bits)
  | .fcvt f => some (clauseWord 0x10D f.bits)
  | .fcvti f => some (clauseWord 0x10E f.bits)
  | .icvtf f => some (clauseWord 0x10F f.bits)
  | .fdot2 f => some (clauseWord 0x110 f.bits)
  | .xclr f => some (clauseWord 0x111 f.bits)
  | .xadd f => some (clauseWord 0x112 f.bits)
  | .xmadd f => some (clauseWord 0x113 f.bits)
  | .xrnd f => some (clauseWord 0x114 f.bits)
  | .xscan f => some (clauseWord 0x115 f.bits)
  | .xrd f => some (clauseWord 0x116 f.bits)
  | .xwr f => some (clauseWord 0x117 f.bits)
  | .xstat f => some (clauseWord 0x118 f.bits)
  | .ex2f f => some (clauseWord 0x181 f.bits)
  | .ex2r f => some (clauseWord 0x182 f.bits)
  | .lg2f f => some (clauseWord 0x183 f.bits)
  | .lg2r f => some (clauseWord 0x184 f.bits)
  | .rcpf f => some (clauseWord 0x185 f.bits)
  | .rcpr f => some (clauseWord 0x186 f.bits)
  | .rsqf f => some (clauseWord 0x187 f.bits)
  | .rsqr f => some (clauseWord 0x188 f.bits)
  | .sqtf f => some (clauseWord 0x189 f.bits)
  | .sqtr f => some (clauseWord 0x18A f.bits)
  | .divf f => some (clauseWord 0x18B f.bits)
  | .divr f => some (clauseWord 0x18C f.bits)
  | .sinf f => some (clauseWord 0x18D f.bits)
  | .sinr f => some (clauseWord 0x18E f.bits)
  | .cosf f => some (clauseWord 0x18F f.bits)
  | .cosr f => some (clauseWord 0x190 f.bits)
  | .tnhf f => some (clauseWord 0x191 f.bits)
  | .tnhr f => some (clauseWord 0x192 f.bits)
  | .sigf f => some (clauseWord 0x193 f.bits)
  | .sigr f => some (clauseWord 0x194 f.bits)
  | .qscl f => some (clauseWord 0x195 f.bits)
  | .qzp f => some (clauseWord 0x196 f.bits)
  | .qcvt f => some (clauseWord 0x197 f.bits)
  | .dqcvt f => some (clauseWord 0x198 f.bits)
  | .kbpack f => some (clauseWord 0x199 f.bits)
  | .kbunpk f => some (clauseWord 0x19A f.bits)
  | .rngk f => some (clauseWord 0x19B f.bits)
  | .rngkB64 f => some (clauseWord 0x19B f.bits)
  | .rng f => some (clauseWord 0x19C f.bits)
  | .rngf f => some (clauseWord 0x19D f.bits)
  | .ld f => some (clauseWord 0x201 f.bits)
  | .lds f => some (clauseWord 0x202 f.bits)
  | .ldb f => some (clauseWord 0x203 f.bits)
  | .st f => some (clauseWord 0x204 f.bits)
  | .sts f => some (clauseWord 0x205 f.bits)
  | .stb f => some (clauseWord 0x206 f.bits)
  | .atom f => some (clauseWord 0x207 f.bits)
  | .acas f => some (clauseWord 0x208 f.bits)
  | .atoms f => some (clauseWord 0x209 f.bits)
  | .acass f => some (clauseWord 0x20A f.bits)
  | .prfm f => some (clauseWord 0x20B f.bits)
  | .sgjoin f => some (clauseWord 0x20C f.bits)
  | .sgleave f => some (clauseWord 0x20D f.bits)
  | .sgqry f => some (clauseWord 0x20E f.bits)
  | .pfmap f => some (clauseWord 0x20F f.bits)
  | .pfpark f => some (clauseWord 0x210 f.bits)
  | .tlbi f => some (clauseWord 0x211 f.bits)
  | .pageWalk => none
  | .accessPerform _ => none
  | .cpys f => some (clauseWord 0x281 f.bits)
  | .cpyt f => some (clauseWord 0x282 f.bits)
  | .cpye f => some (clauseWord 0x283 f.bits)
  | .cpwp f => some (clauseWord 0x284 f.bits)
  | .cpwait f => some (clauseWord 0x285 f.bits)
  | .cpcan f => some (clauseWord 0x286 f.bits)
  | .cpqry f => some (clauseWord 0x287 f.bits)
  | .copyStart => none
  | .copyChunk => none
  | .copyResume => none
  | .mbar f => some (clauseWord 0x301 f.bits)
  | .mwait f => some (clauseWord 0x302 f.bits)
  | .marrw f => some (clauseWord 0x303 f.bits)
  | .atov f => some (clauseWord 0x304 f.bits)
  | .vtoa f => some (clauseWord 0x305 f.bits)
  | .mset f => some (matrixWord 0x01 f.bits)
  | .msetHi f => some (matrixWord 0x01 f.bits)
  | .madd f => some (matrixWord 0x02 f.bits)
  | .mbnz f => some (matrixWord 0x03 f.bits)
  | .mbra f => some (matrixWord 0x04 f.bits)
  | .mwaitb f => some (matrixWord 0x05 f.bits)
  | .marrb f => some (matrixWord 0x06 f.bits)
  | .malloc f => some (matrixWord 0x07 f.bits)
  | .mfree f => some (matrixWord 0x08 f.bits)
  | .mzero f => some (matrixWord 0x09 f.bits)
  | .mma f => some (matrixWord 0x0A f.bits)
  | .mmas f => some (matrixWord 0x0B f.bits)
  | .mmaz f => some (matrixWord 0x0C f.bits)
  | .mmag f => some (matrixWord 0x0D f.bits)
  | .mdrn f => some (matrixWord 0x0E f.bits)
  | .mdrna f => some (matrixWord 0x0F f.bits)
  | .mend f => some (matrixWord 0x10 f.bits)
  | .matrixWordDone => none
  | .gangPartRun => none
  | .tmload f => some (clauseWord 0x381 f.bits)
  | .tmstep f => some (clauseWord 0x382 f.bits)
  | .tmmask f => some (clauseWord 0x383 f.bits)
  | .tmqry f => some (clauseWord 0x384 f.bits)
  | .tmsave f => some (clauseWord 0x385 f.bits)
  | .sample f => some (clauseWord 0x386 f.bits)
  | .sargmx f => some (clauseWord 0x387 f.bits)
  | .tkbeg f => some (clauseWord 0x388 f.bits)
  | .tkend f => some (clauseWord 0x389 f.bits)
  | .tkwait f => some (clauseWord 0x38A f.bits)
  | .tkpass f => some (clauseWord 0x38B f.bits)
  | .ticketRelease => none
  | .cllred f => some (clauseWord 0x38C f.bits)
  | .reductionStepRun _ _ => none
  | .tetherMemberLost => none
  | .cllqry f => some (clauseWord 0x38D f.bits)
  | .contq f => some (clauseWord 0x38E f.bits)
  | .twait f => some (clauseWord 0x38F f.bits)
  | .twaitExpiry => none
  | .nemit f => some (clauseWord 0x390 f.bits)
  | .nodeGatherTimer _ => none
  | .pendingToActive => none
  | .activeSetExchange => none
  | .blockAdmit _ _ => none
  | .blockSwapOut => none
  | .parktExpiry => none
  | .blockReadmit _ => none
  | .parkedFaultRetry _ => none
  | .coreRetire => none
  | .preempt _ => none
  | .quantumExpiry => none
  | .snapshotUnitCopy _ => none
  | .launchComplete => none
  | .timedLaunchStart => none
  | .doorbell _ _ => none
  | .queueIdleUnmap => none
  | .launch => none
  | .wait => none
  | .waitSatisfied => none
  | .signal => none
  | .load => none
  | .unload => none
  | .rcbsync => none
  | .asidset => none
  | .pool => none
  | .resume => none
  | .commcreate => none
  | .commcreateTimeout => none
  | .commdestroy => none
  | .faultq => none
  | .quantum => none
  | .qtbaseWrite _ => none
  | .vistatWrite _ => none
  | .vireset _ => none
  | .viRegisterWrite _ _ _ => none
  | .apertureAccess _ _ => none
  | .setPowerLimit _ => none
  | .powerWindow _ => none
  | .thermalThrottle _ => none
  | .thermalShutdown _ => none
  | .keyEnroll _ _ _ => none
  | .keyRemove _ _ => none
  | .getMeasurements => none
  | .vendorMeasurementBlock => none
  | .liveUpdate _ _ => none
  | .heartbeatTimeout => none
  | .tetherSyncLost => none
  | .tetherSyncRegained => none
  | .dramRefreshScrub _ => none
  | .sheetScrub _ => none
  | .powerOnReset => none
  | .illegalOpcode w => some w
  | .illegalMatrixWord w => some w
  | .setupExchange _ => none
  | .stepAbort _ => none
  | .firmwareConfiguration _ _ => none

end Sys2Proof
end

