-- ==== Sys2Proof/Machine/Region.lean ====
section
/-!
DEFINITION. The region tree (R24 to R30): effective values of an RCB as the front end last read it, the launches and
blocks beneath a node, and what they use.
-/
namespace Sys2Proof.Machine

/-- The effective values of a node (R26); `area` is the node whose ballast area it draws from (R27). -/
structure EffRcb where
  prio : Nat
  fdom : Nat
  cores : Nat
  acct : Nat
  drambw : Nat
  parkt : Nat
  sheetb : Nat
  area : Nat
  balbase : Nat
  balsize : Nat
  asid : Nat
  deriving DecidableEq, Repr

def State.rcb? (s : State) (addr : Nat) : Option Rcb := s.rcbs.find? fun r => r.addr = addr

/-- The root's values (R26). -/
def EffRcb.ofRoot (r : Rcb) : EffRcb :=
  ⟨r.prio, r.fdom, r.cores, r.acct, r.drambw, r.parkt, r.sheetb, r.addr, r.balbase, r.balsize, r.asid⟩

/-- One level down (R26). -/
def EffRcb.step (e : EffRcb) (r : Rcb) : EffRcb :=
  let own (i : Nat) := r.ovr.getLsbD i
  { prio := if own 0 then min r.prio e.prio else e.prio
    fdom := if own 1 then r.fdom else e.fdom
    cores := if own 2 then min r.cores e.cores else e.cores
    acct := if own 3 then min r.acct e.acct else e.acct
    drambw := if own 4 then min r.drambw e.drambw else e.drambw
    parkt := if own 5 then r.parkt else e.parkt
    sheetb := if own 6 then min r.sheetb e.sheetb else e.sheetb
    area := if own 7 then r.addr else e.area
    balbase := if own 7 then r.balbase else e.balbase
    balsize := if own 7 then r.balsize else e.balsize
    asid := if own 8 then r.asid else e.asid }

/-- The nodes from `addr` to the root, lowest first; at most `fuel` of them. -/
def rcbPath (find : Nat → Option Rcb) : Nat → Nat → List Rcb
  | 0, _ => []
  | fuel + 1, addr =>
    match find addr with
    | none => []
    | some r => if r.kind = 1 then [r] else r :: rcbPath find fuel r.parent

def State.pathOf (s : State) (addr : Nat) : List Rcb := rcbPath s.rcb? 4 addr

/-- The effective values along a path, lowest node first. -/
def effPath : List Rcb → Option EffRcb
  | [] => none
  | [r] => if r.kind = 1 then some (EffRcb.ofRoot r) else none
  | r :: up => (effPath up).map fun e => e.step r

def State.eff (s : State) (addr : Nat) : Option EffRcb := effPath (s.pathOf addr)
def State.effOf (s : State) (l : Launch) : Option EffRcb := s.eff l.rcb

/-- Effective priority and park threshold of a launch in ticks (R24: µs). -/
def State.prioOf (s : State) (l : Launch) : Nat := ((s.effOf l).map EffRcb.prio).getD 0
def State.parkTicks (s : State) (l : Launch) : Nat := 1000 * ((s.effOf l).map EffRcb.parkt).getD 16

/-- Node `addr` is on the launch's path to the root. -/
def State.under (s : State) (l : Launch) (addr : Nat) : Bool := (s.pathOf l.rcb).any fun r => r.addr = addr

/-- A launch that has been accepted and has not ended. -/
def Launch.live (l : Launch) : Bool := l.st = .running || l.st = .timed

/-- An exited block still has operations outstanding, or matrix words to finish (R346, R435). -/
def Block.draining (b : Block) : Bool :=
  (b.groups.any fun g => !g.outstanding.isEmpty) || (b.seqr.any fun q => q.work.isSome || !q.drains.isEmpty)
    || !b.parts.isEmpty

/-- Blocks that hold a core's resources: resident and pre-empted ones (R442), and exited ones until the last of their
operations has ended. -/
def Block.onCore (b : Block) : Bool :=
  b.place = .resident || b.place = .preempted || (b.place = .exited && b.draining)

/-- Tiles a block holds: named tiles and the old tiles its drains still read (R356). -/
def Block.tilesHeld (b : Block) : Nat :=
  b.tiles.length + ((b.seqr.map fun q => (q.drains.map fun d => d.tiles.length - d.named.length).sum).getD 0)

/-- The blocks on cores that are beneath a node. -/
def State.blocksUnder (s : State) (addr : Nat) : List Block :=
  s.blocks.filter fun b => b.onCore && ((s.launches[b.lid]?).map fun l => s.under l addr).getD false

/-- Cores, tiles and sheet bytes in use beneath a node (R27): a block's tiles are those that its launch declares, bound or
not (DESIGN CHOICE, log 73). -/
def State.coresUsed (s : State) (addr : Nat) : Nat := ((s.blocksUnder addr).map Block.core).eraseDups.length
def State.tilesUsed (s : State) (addr : Nat) : Nat :=
  ((s.blocksUnder addr).map fun b => ((s.launches[b.lid]?).map fun l => l.accOf b).getD 0).sum
def State.sheetUsed (s : State) (addr : Nat) : Nat := ((s.blocksUnder addr).map Block.shareLen).sum

/-- Ballast bytes in use beneath a node (R27). -/
def State.ballastUsed (s : State) (addr : Nat) : Nat :=
  ((s.ballast.filter fun r => (s.pathOf r.rcb).any fun n => n.addr = addr).map Reservation.size).sum

/-- A reservation of a launch region fits what is left of the effective area of every node on its path (R27). The root,
which holds no ballast (R26), sets no limit to areas beneath it (DEDUCED, log 71). -/
def State.ballastFits (s : State) (rcb size : Nat) : Bool :=
  (s.pathOf rcb).all fun r =>
    (s.eff r.addr).any fun e =>
      if r.kind = 1 then (s.eff rcb).any fun l => size ≤ l.balsize else s.ballastUsed r.addr + size ≤ e.balsize

/-- Makes a reservation, if there is room (R58, R59, R72). -/
def State.reserve (s : State) (rcb size : Nat) (use : BallastUse) : Option State :=
  if s.ballastFits rcb size then some { s with ballast := s.ballast ++ [⟨rcb, size, use⟩] } else none

/-- Gives a reservation back. -/
def State.release (s : State) (p : BallastUse → Bool) : State := { s with ballast := s.ballast.filter fun r => !p r.use }

/-- Gives back all that a block holds. -/
def State.releaseOf (s : State) (bid : Nat) : State := s.release fun u => u = .image bid || u = .faults bid

/-- The footprint F of a block (R58). -/
def footprint (sb t ngrp n v : Nat) : Nat :=
  roundUp (sb + 0x4000 * t + 0x3000 + ngrp * (4 * n + 384 * v + 2048)) 4096

def Launch.footprintOf (l : Launch) (b : Block) : Nat :=
  footprint (l.sheetOf b) (l.accOf b) (l.ngrpOf b) (l.nsregOf b) (l.nvregOf b)

end Sys2Proof.Machine
end

