-- ==== Sys2Proof/Machine/Phys.lean ====
section
/-!
DEFINITION. Device physical memory: DRAM (R9), sheet slices (R8), capability space (R17 to R21), the system range
(R246, R463), private memory (R118) and the code that firmware maps (R446, R450); poisoned words (R452); the snapshot
copies that precede a launch's first write to a unit (R454, R455).
-/
namespace Sys2Proof.Machine

def sheetBase : Nat := 0x8000000000
def sheetSlice : Nat := 0x600000
def capBase : Nat := 0xC000000000
def systemBase : Nat := 0x1000000000000
def systemEnd : Nat := 0x3000000000000

/-- Keys of the model's own for memory that has no device physical address: a group's private area, translated code,
the firmware object (log 1). -/
def privateKey (g : GRef) (off : Nat) : Nat := 2 ^ 64 + (16 * g.bid + g.gid) * 2 ^ 32 + off
def translatedKey (asid off : Nat) : Nat := 2 ^ 96 + asid * 2 ^ 36 + off
def firmwareKey (off : Nat) : Nat := 2 ^ 112 + off
/-- Memory of those keys that is DRAM all the same: private areas (R118) and translated code (R450). -/
def isBacked (key : Nat) : Bool := privateKey ⟨0, 0⟩ 0 ≤ key && key < firmwareKey 0

def isCap (pa : Nat) : Bool := capBase ≤ pa && pa < capBase + 0x10000
def isSystem (pa : Nat) : Bool := systemBase ≤ pa && pa < systemEnd
def State.isDram (s : State) (pa : Nat) : Bool := pa < s.part.dcap
def State.isSheet (s : State) (pa : Nat) : Bool := sheetBase ≤ pa && pa < sheetBase + s.part.ncore * sheetSlice

/-! Capability space -/

/-- A matrix format: the codes of R107 and R369, in the order of R359 (log 22). -/
inductive MFmt
  | fp (f : FF)
  | kite (k : Kite)
  | int (signed : Bool) (w : Nat)
  deriving DecidableEq, Repr

def MFmt.ofCode : Nat → Option MFmt
  | 0 => some (.fp .bf16) | 1 => some (.fp .f16) | 2 => some (.fp .e4m3) | 3 => some (.fp .e5m2)
  | 4 => some (.kite .kb7) | 5 => some (.kite .kb4) | 6 => some (.kite .kb2)
  | 7 => some (.int true 8) | 8 => some (.int false 8) | 9 => some (.int true 4) | 10 => some (.int false 4)
  | 11 => some (.fp .f32) | 12 => some (.fp .f64)
  | _ => none

def MFmt.recKind : MFmt → RecKind
  | .fp .f32 => .wide
  | .fp .f64 => .wide
  | .int _ _ => .integer
  | _ => .aligned

/-- The record of contract c and format code f (R182). -/
def recordBytes (c f : Nat) : List Byte :=
  behaviourRecord c f (if f = 12 then 64 else 32) ((MFmt.ofCode f).map MFmt.recKind)

def boolNat (b : Bool) : Nat := if b then 1 else 0

/-- CAPSUM (R19). -/
def State.capsum (s : State) : Nat :=
  s.part.ncore + 8 * 2 ^ 16 + 3 * 2 ^ 24 + 0x7E * 2 ^ 32 + popCount 16 s.part.links.toNat * 2 ^ 40
    + popCount 256 s.part.dchan.toNat * 2 ^ 48

/-- TETHER (R20). -/
def State.tether (s : State) : Nat := s.part.links.toNat + boolNat s.tsync * 2 ^ 16 + 224 * 2 ^ 32

/-- The aligned 8 bytes of capability space at offset `o` (R18); a part whose bring-up has not ended reads zero (R470). -/
def State.capWord (s : State) (o : Nat) : Nat :=
  if s.stage ≠ 5 then 0
  else if o = 0 then 0x7A3C + 0x0009 * 2 ^ 16 + s.part.stepping * 2 ^ 32
  else if o = 0x10 then s.capsum
  else if o = 0x18 then packElems 8 s.part.dieCores
  else if 0x100 ≤ o && o < 0x900 then
    match s.part.lmaps[(o - 0x100) / 8]? with
    | some (l0, l1) => l0.toNat + l1.toNat * 2 ^ 32
    | none => 0
  else if 0x900 ≤ o && o < 0xD00 then
    let e (i : Nat) := ((s.part.cpos[(o - 0x900) / 4 + i]?).map BitVec.toNat).getD 0
    e 0 + e 1 * 2 ^ 32
  else if 0xD00 ≤ o && o < 0xD20 then bitsOf s.part.dchan.toNat (8 * (o - 0xD00) + 63) (8 * (o - 0xD00))
  else if o = 0xD20 then s.part.dcap
  else if o = 0xE00 then s.tether
  else if 0xE40 ≤ o && o < 0xE60 then bitsOf s.cretire.toNat (8 * (o - 0xE40) + 63) (8 * (o - 0xE40))
  else if 0x1000 ≤ o && o < 0x1C00 then
    let r := (o - 0x1000) / 32
    leNat (((recordBytes (r / 16 + 1) (r % 16)).drop ((o - 0x1000) % 32)).take 8)
  else if o = 0x2000 then 1250 + s.powerLimit * 2 ^ 16
  else 0

/-! The firmware object -/

/-- STL, D, SUB and IMM32 of a format SI word; STL, D, A, B, SUB and TY of a format S word; STL, A, CC and DISP of a
format B word, with KM 7. -/
def wordSI (op : BitVec 10) (stl : BitVec 4) (d : BitVec 9) (sub : BitVec 6) (imm : BitVec 32) : DWord :=
  clauseWord op (WordSI.bits ⟨stl, 0, d, sub, imm⟩)
def wordS (op : BitVec 10) (stl : BitVec 4) (d a b : BitVec 9) (sub : BitVec 6) (ty : BitVec 5) : DWord :=
  clauseWord op (WordS.bits ⟨stl, 0, d, a, b, 0, sub, ty⟩)
def wordB (op : BitVec 10) (a : BitVec 9) (cc : BitVec 3) (disp : BitVec 32) : DWord :=
  clauseWord op (WordB.bits ⟨0, 0, 7, a, cc, disp⟩)
/-- A clause header without WB, SCK and Y. -/
def headerOf (n : Nat) (cls : BitVec 3) : DWord :=
  WordH.bits ⟨0x3F, BitVec.ofNat 4 (n - 1), cls, 0, 0, 0, 0, 0⟩

/-- The stub bind_resolve at 0x0F00_0000, from its listing in the worked program on lazy binding. -/
def bindResolve : List DWord :=
  [headerOf 3 4, wordSI 0x003 0 6 1 0x0F000000, wordSI 0x003 2 4 1 0x0F000100,
    clauseWord 0x20A (WordMA.bits ⟨0, 0, 6, 2, 4, 0, 1, 0, 0, 2, 1⟩),
   headerOf 3 0, wordSI 0x003 2 4 1 0x0F000000, wordS 0x013 2 4 6 4 0 15, wordB 0x024 4 1 7,
   headerOf 1 0, wordSI 0x02F 0 0 0 1,
   headerOf 1 4, clauseWord 0x205 (WordM.bits ⟨0, 0, 7, 6, 2, 3, 0, 1, 0, 2, 2, 1, 0⟩),
   headerOf 1 0, wordB 0x02A 6 0 0,
   headerOf 3 0, wordSI 0x003 2 4 1 0x0F000100, wordS 0x013 2 4 6 4 0 15, wordB 0x024 4 2 15,
   headerOf 1 0, wordB 0x02A 6 0 0]

/-- The stub wait_bind at 0x0F00_0100. -/
def waitBind : List DWord :=
  [headerOf 1 4, clauseWord 0x202 (WordM.bits ⟨0, 0, 7, 6, 2, 3, 0, 0, 0, 2, 1, 1, 0⟩),
   headerOf 3 0, wordSI 0x003 2 4 1 0x0F000100, wordS 0x013 2 4 6 4 0 15, wordB 0x024 4 2 (-5),
   headerOf 1 0, wordB 0x02A 6 0 0]

/-- Word `i` of the firmware object: the two stubs; what its trap table holds is firmware's (log 12). -/
def firmwareWord (i : Nat) : DWord :=
  if i < 32 then (bindResolve[i]?).getD 0 else (waitBind[i - 32]?).getD 0

/-! Bytes of physical memory -/

/-- The byte at a physical address or key. -/
def State.physByte (s : State) (pa : Nat) : Byte :=
  if isCap pa then
    let o := pa - capBase
    BitVec.ofNat 8 (s.capWord (o / 8 * 8) / 256 ^ (o % 8))
  else if firmwareKey 0 ≤ pa then
    let o := pa - firmwareKey 0
    BitVec.ofNat 8 ((firmwareWord (o / 8)).toNat / 256 ^ (o % 8))
  else s.mem.byte pa

def State.physBytes (s : State) (pas : List Nat) : List Byte := pas.map s.physByte
def State.physNum (s : State) (pas : List Nat) : Nat := leNat (s.physBytes pas)

/-- A number at consecutive physical addresses. -/
def State.numAt (s : State) (pa n : Nat) : Nat := s.physNum (span pa n)

/-! Poison -/

/-- The size of the error-protected word that holds an address, 8 bytes in the sheet and 32 in DRAM (R451). -/
def State.eccSize (s : State) (pa : Nat) : Nat := if s.isSheet pa then 8 else 32
def State.eccWord (s : State) (pa : Nat) : Nat := pa / s.eccSize pa * s.eccSize pa

/-- Reading these bytes consumes poison (R452), or meets an error status of the host (R463). -/
def State.poisoned (s : State) (pas : List Nat) : Bool :=
  pas.any fun a => s.poison.contains (s.eccWord a) || s.hostErrs.contains a

/-- Writes bytes: a store that covers a whole poisoned word clears its poison, and one that covers part of it loses
its bytes (R452). -/
def State.putPhys (s : State) (ps : List (Nat × Byte)) : State :=
  let as := ps.map Prod.fst
  let whole (w : Nat) : Bool := (span w (s.eccSize w)).all fun a => as.contains a
  let clears := s.poison.filter fun w => !whole w
  { s with
    mem := s.mem.putAt (ps.filter fun p => !clears.contains (s.eccWord p.1))
    poison := clears }

/-- Consecutive bytes written, and a number. -/
def State.storeBytes (s : State) (a : Nat) (bs : List Byte) : State := s.putPhys ((span a bs.length).zip bs)
def State.storeNum (s : State) (a n v : Nat) : State := s.storeBytes a (leBytes n v)

/-- A range zeroed by firmware: its whole words lose their poison (R452). -/
def State.zeroRange (s : State) (a size : Nat) : State :=
  { s with
    mem := s.mem.clear a size
    poison := s.poison.filter fun w => !(a ≤ w && w + s.eccSize w ≤ a + size) }

/-! What the front end writes to RCBs -/

/-- 0x40 to 0x57 of an RCB: what is in use beneath it (R24). -/
def useFields (s : State) (addr : Nat) : List Byte :=
  leBytes 2 (s.coresUsed addr) ++ leBytes 2 (s.tilesUsed addr) ++ leBytes 4 0 ++ leBytes 8 (s.sheetUsed addr)
    ++ leBytes 8 (s.ballastUsed addr)

/-- Writes the use fields of every node on a path (R24). -/
def State.writeUse (s : State) (rcb : Nat) : State :=
  (s.pathOf rcb).foldl (fun t r => t.storeBytes (r.addr + 0x40) (useFields t r.addr)) s

/-- Writes STATUS of a launch-region RCB (R24, R40): its state, 2 after a kill, else whether a launch of the region runs,
and the status of an admission, or the last one as it stands. A kill shows until the next of these writes, also while
another launch of the region runs (DESIGN CHOICE, log 86). -/
def State.writeRcbStatus (s : State) (rcb : Nat) (killed : Bool) (status : Option Nat) : State :=
  let state := if killed then 2 else if s.launches.any fun l => l.live && l.rcb = rcb then 1 else 0
  s.storeNum (rcb + 0x60) 8 (state + 256 * status.getD (s.numAt (rcb + 0x61) 1))

/-! Snapshots -/

/-- The snapshot unit of a DRAM address. -/
def unitOf (pa : Nat) : Nat := pa / 4096 * 4096

/-- The launch becomes non-replayable (R455, R474). -/
def State.noReplay (s : State) (lid : Nat) : State :=
  match s.launches[lid]? with
  | some l =>
    if l.snap && l.replayable then
      { (s.modLaunch lid fun l => { l with replayable := false }) with
        telem := { s.telem with noreplay := s.telem.noreplay + 1 } }
    else s
  | none => s

/-- Where the snapshot area holds unit k of a launch (log 16). -/
def State.unitPlace (s : State) (lid k : Nat) (l : Launch) : Nat :=
  match s.effOf l with
  | none => 0
  | some e => e.balbase + 4096 * (Config.choose (lid * 2 ^ 40 + k) % max 1 (e.balsize / 4096))

/-- Copies one unit aside for a launch that takes snapshots, once per run; when the ballast cannot hold it the launch
becomes non-replayable (R454). Words that are poisoned are poisoned in the copy too; what stood in its place is overwritten
whole, its poison too (R452). -/
def State.snapUnit (s : State) (lid unit : Nat) : State :=
  match s.launches[lid]? with
  | some l =>
    if l.snap && l.replayable && s.isDram unit && !(l.units.any fun u => u.base = unit) then
      match s.reserve l.rcb 4096 (.snapshot lid) with
      | some t =>
        let copy : SnapUnit := ⟨unit, s.physBytes (span unit 4096), s.poison.filter fun w => unitOf w = unit⟩
        let place := s.unitPlace lid l.units.length l
        let t : State := { t with poison := t.poison.filter fun w => unitOf w ≠ place }
        (t.modLaunch lid fun l => { l with units := l.units ++ [copy] }).writeUse l.rcb
      | none => s.noReplay lid
    else s
  | none => s

/-- The units that a launch must have copied before it writes these bytes. -/
def State.unitsDue (s : State) (lid : Nat) (pas : List Nat) : List Nat :=
  match s.launches[lid]? with
  | some l =>
    if l.snap && l.replayable then
      (((pas.filter s.isDram).map unitOf).eraseDups).filter fun u => !(l.units.any fun p => p.base = u)
    else []
  | none => []

/-- What precedes a write of these bytes by a launch (R454, R455): units first copied aside; a write to host memory ends
replayability. -/
def State.beforeWrite (pas : List Nat) (s : State) (lid : Nat) : State :=
  let t := (s.unitsDue lid pas).foldl (fun t u => t.snapUnit lid u) s
  if pas.any isSystem then t.noReplay lid else t

/-- A write that counts as one of each of the launches `lids`. -/
def State.writeFor (s : State) (lids : List Nat) (ps : List (Nat × Byte)) : State :=
  (lids.foldl (State.beforeWrite (ps.map Prod.fst)) s).putPhys ps

end Sys2Proof.Machine
end

