-- ==== Sys2Proof/Machine/Mmu.lean ====
section
/-!
DEFINITION. Translation: the fixed windows (R118), the walk of the tables (R242 to R247), permissions (R248), stamps
(R183 to R187), A and D bits (R249), cached translations (R250 to R253).
-/
namespace Sys2Proof.Machine

/-- What an access needs of a leaf (R248). -/
structure Need where
  r : Bool
  w : Bool
  x : Bool
  deriving DecidableEq, Repr

def Need.load : Need := ⟨true, false, false⟩
def Need.store : Need := ⟨false, true, false⟩
def Need.atomic : Need := ⟨true, true, false⟩
def Need.fetch : Need := ⟨false, false, true⟩
def Need.nothing : Need := ⟨false, false, false⟩

/-- Who makes an access: the address space, the group whose private memory it sees, its block, the core and the die whose
caches it uses, and the lane whose last-page register it uses. -/
structure Who where
  asid : Nat
  grp : Option GRef
  bid : Option Nat
  core : Nat
  die : Nat
  lane : Option Nat
  deriving DecidableEq, Repr

/-- The fault codes of R216 that an access raises; PGFLT apart by what it met (R247). -/
inductive AFault
  | misal
  | prot
  | revoke
  | cmix
  /-- A placeholder that the first-touch handler resolves. -/
  | firstTouch
  /-- A not-present entry, or an absent block's share (R61): the access parks. -/
  | absent
  /-- An uncorrectable data error in what is read (R452); fatal under R30. -/
  | ecc
  deriving DecidableEq, Repr

/-- The place of a fault in the order of R231. -/
def AFault.rank : AFault → Nat
  | .misal => 0 | .prot => 1 | .revoke => 2 | .cmix => 3 | .firstTouch => 4 | .absent => 4 | .ecc => 5

/-- Its code (R216). -/
def AFault.code : AFault → Nat
  | .misal => 0x05 | .prot => 0x06 | .revoke => 0x0F | .cmix => 0x08 | .firstTouch => 0x07 | .absent => 0x07 | .ecc => 0x12

/-- Fields of a leaf (R245). -/
def leafV (e : DWord) : Bool := e.getLsbD 0
def leafLeaf (e : DWord) : Bool := e.getLsbD 1
def leafR (e : DWord) : Bool := e.getLsbD 2
def leafW (e : DWord) : Bool := e.getLsbD 3
def leafX (e : DWord) : Bool := e.getLsbD 4
def leafG (e : DWord) : Bool := e.getLsbD 5
def leafA (e : DWord) : Bool := e.getLsbD 6
def leafD (e : DWord) : Bool := e.getLsbD 7
def leafFT (e : DWord) : Bool := e.getLsbD 8
def leafPA (e : DWord) : Nat := (e.extractLsb' 12 40).toNat * 4096
def leafStamp (e : DWord) : Nat := (e.extractLsb' 52 6).toNat
def leafKind (e : DWord) : Nat := (e.extractLsb' 58 3).toNat

/-- The levels of the tree (R243): the root, then L3 to L0. -/
inductive Level
  | root
  | l3
  | l2
  | l1
  | l0
  deriving DecidableEq, Repr

/-- The size of a leaf at the level, and of what one of its tables holds. -/
def Level.size : Level → Nat
  | .root => 2 ^ 39 | .l3 => 2 ^ 30 | .l2 => 2 ^ 21 | .l1 => 2 ^ 16 | .l0 => 2 ^ 12
def Level.entries : Level → Nat
  | .root => 512 | .l3 => 512 | .l2 => 512 | .l1 => 32 | .l0 => 16
def Level.index (l : Level) (va : Nat) : Nat := va / l.size % l.entries
def Level.tableSize (l : Level) : Nat := 8 * l.entries

/-- The outcome of a walk for one address. -/
inductive WalkRes
  | leaf (e : DWord) (ptr size : Nat)
  | placeholder (e : DWord) (ptr size : Nat)
  | absent
  | malformed
  deriving DecidableEq, Repr

/-- A valid leaf's physical range lies in the range of its kind (R246); one that lies partly inside is outside as a whole
(DESIGN CHOICE, log 86). -/
def State.kindOk (s : State) (kind pa size : Nat) : Bool :=
  match kind with
  | 0 => pa + size ≤ s.part.dcap
  | 1 => sheetBase ≤ pa && pa + size ≤ sheetBase + s.part.ncore * sheetSlice
  | 2 => systemBase ≤ pa && pa + size ≤ systemEnd
  | 3 => capBase ≤ pa && pa + size ≤ capBase + 0x10000
  | _ => false

/-- An entry read at a level: what it is, or the next table (R244, R245, R247). -/
def State.entryAt (s : State) (l : Level) (next : Option Level) (ptr : Nat) : WalkRes ⊕ Nat :=
  let e : DWord := BitVec.ofNat 64 (s.numAt ptr 8)
  let rsvd := e.extractLsb' 9 3 ≠ 0 || e.extractLsb' 61 3 ≠ 0
  if s.poisoned [ptr] then .inl .malformed
  else if !leafV e then
    if !leafFT e then .inl .absent
    else if !leafLeaf e || rsvd || l = .root then .inl .malformed
    else .inl (.placeholder e ptr l.size)
  else if leafLeaf e then
    if rsvd || l = .root || leafPA e % l.size ≠ 0 || !s.kindOk (leafKind e) (leafPA e) l.size then .inl .malformed
    else .inl (.leaf e ptr l.size)
  else
    match next with
    | none => .inl .malformed
    | some n =>
      let a := (e.extractLsb' 7 45).toNat * 128
      if e.extractLsb' 2 5 ≠ 0 || e.extractLsb' 52 12 ≠ 0 || a % n.tableSize ≠ 0 || a + n.tableSize > s.part.dcap then
        .inl .malformed
      else .inr a

/-- The walk down the levels that are left. -/
def State.walkFrom (s : State) (va : Nat) : List Level → Nat → WalkRes
  | [], _ => .malformed
  | l :: r, table =>
    match s.entryAt l r.head? (table + 8 * l.index va) with
    | .inl w => w
    | .inr t => s.walkFrom va r t

/-- A walk of the ASID's tree; an ASID without a valid entry faults with PROT (R242). -/
def State.walkTree (s : State) (asid va : Nat) : WalkRes :=
  match s.asids.find? fun p => p.1 = asid with
  | some (_, root) => s.walkFrom va [.root, .l3, .l2, .l1, .l0] root
  | none => .malformed

/-- A translation in use: where the page is, what it maps to, the leaf with the address of its entry when it came from
the tables, and whether it was found in a cache. -/
structure Trans where
  base : Nat
  size : Nat
  pa : Nat
  leaf : Option (DWord × Nat)
  cached : Bool
  deriving DecidableEq, Repr

/-- A translation, or the fault that the access takes (R247). -/
abbrev TransRes := AFault ⊕ Trans

def Need.allowed (n : Need) (r w x : Bool) : Bool := (!n.r || r) && (!n.w || w) && (!n.x || x)

/-- Physical address of byte `off` of a block's sheet share. -/
def shareAddr (b : Block) (off : Nat) : Nat := sheetBase + b.core * sheetSlice + b.shareOff + off

/-- An access to a block's share, which lies at `base`: PROT beyond it (R118); it parks while the block is absent (R61). -/
def shareTrans (b : Block) (base va : Nat) : TransRes :=
  if va - base ≥ b.shareLen then .inl .prot
  else if b.onCore then .inr ⟨base, b.shareLen, shareAddr b 0, none, false⟩ else .inl .absent

/-- The sharing-group record that a block belongs to. -/
def State.sharingOf (s : State) (bid : Nat) : Option Sharing :=
  s.sharing.find? fun r => r.members.any fun p => p.2 = bid

/-- Slot `m` of the sharing-group window as block `bid` sees it (R118, R262): REVOKE for a revoked slot, PROT for one
that holds no member. -/
def State.windowTrans (s : State) (bid m va : Nat) : TransRes :=
  match s.block? bid with
  | none => .inl .prot
  | some me =>
    match s.sharingOf bid with
    | none => .inl (if me.revoked.contains m then .revoke else .prot)
    | some r =>
      match r.members.find? fun p => p.1 = m with
      | some (_, b) =>
        match s.block? b with
        | some o => shareTrans o (0x7F1000000000 + m * 0x800000) va
        | none => .inl .prot
      | none => .inl (if me.revoked.contains m then .revoke else .prot)

/-- The translations that a launch of the ASID has in the translated-code window: offset and length in bytes. -/
def State.translatedRanges (s : State) (asid : Nat) : List (Nat × Nat) :=
  (s.codes.filter fun c => c.asid = asid).flatMap fun c => c.translations.map fun t => (t.addr, t.len)

/-- The part of its share that a block reaches through its own window: its staging reserve lies at the top (R400). -/
def State.ownExtent (s : State) (b : Block) : Nat :=
  b.shareLen - ((s.launches[b.lid]?).map fun l => if l.detOf b then l.stage else 0).getD 0

/-- Firmware's windows (R118, R446), or none when the address lies in no window. -/
def State.window (s : State) (who : Who) (need : Need) (va : Nat) : Option TransRes :=
  if 0x7E0000000000 ≤ va && va < 0x7E0100000000 then
    some (match who.grp with
      | some g => if need.x then .inl .prot else .inr ⟨0x7E0000000000, 2 ^ 32, privateKey g 0, none, false⟩
      | none => .inl .prot)
  else if 0x7F0000000000 ≤ va && va < 0x7F0000000000 + 0x600000 then
    some (match who.bid.bind s.block? with
      | some b =>
        if need.x || va - 0x7F0000000000 ≥ s.ownExtent b then .inl .prot else shareTrans b 0x7F0000000000 va
      | none => .inl .prot)
  else if 0x7F1000000000 ≤ va && va < 0x7F1000000000 + 8 * 0x800000 then
    let m := (va - 0x7F1000000000) / 0x800000
    some (match who.bid with
      | some b => if need.x then .inl .prot else s.windowTrans b m va
      | none => .inl .prot)
  else if 0x7F2000000000 ≤ va && va < 0x7F2000010000 then
    some (if need.w || need.x then .inl .prot else .inr ⟨0x7F2000000000, 0x10000, capBase, none, false⟩)
  else if 0x7F3000000000 ≤ va && va < 0x7F4000000000 then
    some (if need.r || need.w then .inl .prot
      else if (s.translatedRanges who.asid).any fun r => r.1 ≤ va && va < r.1 + r.2 then
        .inr ⟨0x7F3000000000, 2 ^ 36, translatedKey who.asid 0, none, false⟩
      else .inl .prot)
  else if 0x0F000000 ≤ va && va < 0x0F020000 then
    some (if need.r || need.w then .inl .prot else .inr ⟨0x0F000000, 0x20000, firmwareKey 0, none, false⟩)
  else none

/-- Permissions of a leaf for an access; a store to capability space never has one, nor has an atomic on system
memory (R238, R248). -/
def leafAllows (n : Need) (e : DWord) : Bool :=
  n.allowed (leafR e) (leafW e) (leafX e) && !(n.w && leafKind e = 3) && !(n.r && n.w && leafKind e = 2)

/-- A cached translation of the space covers the address. -/
def TlbEntry.covers (t : TlbEntry) (asid va : Nat) : Bool :=
  (t.asid = asid || t.global) && t.base ≤ va && va < t.base + t.size

/-- The last-page register of the lane that makes the access, when its address hits it (R250). -/
def State.lanePage (s : State) (who : Who) (va : Nat) : Option TlbEntry :=
  s.tlb.find? fun t => t.covers who.asid va &&
    (match t.at_ with
      | .lane g j => who.grp = some g && who.lane = some j
      | _ => false)

/-- A cached translation of the core or its die that covers the address (R250). -/
def State.cachedFor (s : State) (who : Who) (va : Nat) : Option TlbEntry :=
  s.tlb.find? fun t => t.covers who.asid va &&
    (match t.at_ with
      | .lane _ _ => false
      | .core c => c = who.core
      | .die d => d = who.die)

/-- The translation of one address (R247). A hit of the lane's last-page register is taken (R250); a translation that the
core or its die has cached may be used or not, which is a free choice (log 8); a write through one whose D is 0 walks
again (R249). -/
def State.translate (s : State) (who : Who) (need : Need) (va : Nat) : TransRes :=
  if 2 ^ 48 ≤ va then .inl .prot
  else
    match s.window who need va with
    | some r => r
    | none =>
      let usable (t : TlbEntry) : Bool := !need.w || leafD t.leaf
      let hit :=
        match (s.lanePage who va).filter usable with
        | some t => some t
        | none => (s.cachedFor who va).filter fun t => Config.choose s.fresh % 2 = 1 && usable t
      match hit with
      | some t =>
        if leafAllows need t.leaf then .inr ⟨t.base, t.size, leafPA t.leaf, some (t.leaf, t.ptr), true⟩ else .inl .prot
      | none =>
        match s.walkTree who.asid va with
        | .malformed => .inl .prot
        | .absent => .inl .absent
        | .placeholder _ _ _ => .inl .firstTouch
        | .leaf e ptr size =>
          if leafAllows need e then .inr ⟨va / size * size, size, leafPA e, some (e, ptr), false⟩ else .inl .prot

/-- The stamp of a translation; window pages carry none. -/
def Trans.stamp (t : Trans) : Nat := (t.leaf.map fun p => leafStamp p.1).getD 0

/-- A contract mismatch (R184). -/
def Trans.mismatch (t : Trans) (contract : Nat) : Bool := t.stamp ≠ 0 && t.stamp ≠ contract

/-- The pieces of `len` bytes from `va` that lie in one 4 KiB page each: start and length; at most `fuel` pieces. -/
def pieces : Nat → Nat → Nat → List (Nat × Nat)
  | 0, _, _ => []
  | fuel + 1, va, len =>
    if len = 0 then []
    else
      let n := min len (4096 - va % 4096)
      (va, n) :: pieces fuel (va + n) (len - n)

/-- What a translated access uses: the physical address of each of its bytes, the translations, and whether a stamp
mismatched. -/
structure Span where
  pas : List Nat
  uses : List Trans
  mism : Bool
  deriving DecidableEq, Repr

/-- A fault and the address of the first byte that raised it (R231). -/
structure SpanFault where
  fault : AFault
  va : Nat
  deriving DecidableEq, Repr

/-- Translation of pieces, with the stamp check against `contract` when there is one to make; a mismatch faults unless
`miss` (R184 to R187). -/
def State.spanPieces (s : State) (who : Who) (need : Need) (contract : Option Nat) (miss : Bool) :
    List (Nat × Nat) → SpanFault ⊕ Span
  | [] => .inr ⟨[], [], false⟩
  | (va, n) :: r =>
    match s.translate who need va with
    | .inl f => .inl ⟨f, va⟩
    | .inr t =>
      let bad := (contract.map t.mismatch).getD false
      if bad && !miss then .inl ⟨.cmix, va⟩
      else
        match s.spanPieces who need contract miss r with
        | .inl f => .inl f
        | .inr sp => .inr ⟨span (t.pa + (va - t.base)) n ++ sp.pas, t :: sp.uses, bad || sp.mism⟩

/-- Translation of `len` bytes from `va`. -/
def State.translateSpan (s : State) (who : Who) (need : Need) (contract : Option Nat) (miss : Bool) (va len : Nat) :
    SpanFault ⊕ Span :=
  s.spanPieces who need contract miss (pieces (len / 4096 + 2) va len)

/-- The address of the entry that the walk reached is updated with A, and with D for a write (R249). -/
def State.markUse (s : State) (write : Bool) (t : Trans) : State :=
  match t.leaf with
  | none => s
  | some (e, ptr) =>
    if leafA e && (leafD e || !write) then s
    else
      let cur := s.numAt ptr 8
      let new := cur ||| (if write then 0xC0 else 0x40)
      s.storeNum ptr 8 new

/-- The entry of a cache that a translation leaves, with A and D as the walker has set them. -/
def Trans.entry (t : Trans) (at_ : TlbPlace) (asid : Nat) (write : Bool) : Option TlbEntry :=
  t.leaf.map fun p =>
    { at_ := at_, asid := asid, global := leafG p.1, base := t.base, size := t.size,
      leaf := p.1 ||| (if write then 0xC0 else 0x40), ptr := p.2 }

/-- Caches a translation in one place: a lane register holds only its most recent one (R250). -/
def State.cache (s : State) (e : TlbEntry) : State :=
  let keep := s.tlb.filter fun t =>
    match e.at_ with
    | .lane _ _ => t.at_ ≠ e.at_
    | _ => !(t.at_ = e.at_ && t.base = e.base && t.asid = e.asid)
  { s with tlb := e :: keep }

/-- Where the translations of an access are kept: the last-page register of a lane, the core's TLB, the die's. -/
def Who.places (w : Who) : List TlbPlace :=
  (w.grp.bind fun g => w.lane.map (TlbPlace.lane g)).toList ++ [.core w.core, .die w.die]

/-- Marks and caches the translations that an access uses. -/
def State.useTrans (s : State) (who : Who) (write : Bool) (ts : List Trans) : State :=
  ts.foldl (fun s t =>
    let s := s.markUse write t
    let places := who.places
    (places.filterMap fun p => t.entry p who.asid write).foldl State.cache s) s

/-- The removals of a TLBI (R252): `kind` as W, or 4 for every translation of an ASID, global ones included (R428); scope the
issuing core or the whole device. -/
def State.invalidate (s : State) (kind asid va : Nat) (core : Option Nat) : State :=
  let covers (t : TlbEntry) := t.base ≤ va && va < t.base + t.size
  let hit (t : TlbEntry) : Bool :=
    match kind with
    | 0 => (t.asid = asid || t.global) && covers t
    | 1 => t.asid = asid && !t.global
    | 2 => true
    | 4 => t.asid = asid || t.global
    | _ => t.global && covers t
  let inScope (t : TlbEntry) : Bool :=
    match core, t.at_ with
    | none, _ => true
    | some c, .core d => c = d
    | some c, .lane g _ => ((s.block? g.bid).map fun b => b.onCore && b.core = c).getD false
    | some _, .die _ => false
  { s with tlb := s.tlb.filter fun t => !(hit t && inScope t) }

/-- The ASID of a block's launch: that which its path gave at LAUNCH, whatever a later reading of the path gives (DESIGN CHOICE,
log 86). -/
def State.asidOf (s : State) (bid : Nat) : Nat :=
  (((s.block? bid).bind fun b => s.launches[b.lid]?).map Launch.asid).getD 0
/-- Who a group, and a block's sequencer or copy, is when it accesses memory. -/
def State.whoBlock (s : State) (bid : Nat) : Who :=
  let core := ((s.block? bid).map Block.core).getD 0
  ⟨s.asidOf bid, none, some bid, core, s.part.dieOf core, none⟩
def State.whoGroup (s : State) (g : GRef) : Who := { s.whoBlock g.bid with grp := some g }
/-- One lane of a group. -/
def State.whoLane (s : State) (g : GRef) (lane : Nat) : Who :=
  { s.whoGroup g with lane := if lane < 96 then some lane else none }

/-- The last-page registers of a block's groups are cleared (R250). -/
def State.clearPages (s : State) (bid : Nat) : State :=
  { s with tlb := s.tlb.filter fun t => match t.at_ with | .lane g _ => g.bid ≠ bid | _ => true }

/-- Ranges of virtual addresses as physical ones, page by page: two addresses that map one physical byte name one location
(R120). A page without a translation stands for itself. -/
def State.physRanges (s : State) (who : Who) (l : List (Nat × Nat)) : List (Nat × Nat) :=
  l.flatMap fun r => (pieces (r.2 / 4096 + 2) r.1 r.2).map fun p =>
    match s.translate who Need.nothing p.1 with
    | .inr t => (t.pa + (p.1 - t.base), p.2)
    | .inl _ => (2 ^ 128 + who.asid * 2 ^ 64 + p.1, p.2)

/-- Two lists of ranges have a byte in common. -/
def rangesMeet (a b : List (Nat × Nat)) : Bool := a.any fun x => b.any fun y => x.1 < y.1 + y.2 && y.1 < x.1 + x.2

/-! Reading and writing virtual memory in the middle of an operation -/

/-- An operation on the state that may meet a fault. -/
abbrev MemM := StateT State (Except SpanFault)

/-- Reads bytes; poison is consumed (R452). -/
def memLoad (who : Who) (contract : Option Nat) (miss : Bool) (va len : Nat) : MemM (List Byte) := fun s =>
  match s.translateSpan who .load contract miss va len with
  | .inl f => .error f
  | .inr sp =>
    if s.poisoned sp.pas then .error ⟨.ecc, va⟩ else .ok (s.physBytes sp.pas, s.useTrans who false sp.uses)

/-- Reads a little-endian number. -/
def memNum (who : Who) (va len : Nat) : MemM Nat := do
  let bs ← memLoad who none false va len
  return leNat bs

/-- Writes bytes for launches. -/
def memStore (who : Who) (lids : List Nat) (va : Nat) (bs : List Byte) : MemM Unit := fun s =>
  match s.translateSpan who .store none false va bs.length with
  | .inl f => .error f
  | .inr sp => .ok ((), (s.useTrans who true sp.uses).writeFor lids (sp.pas.zip bs))

end Sys2Proof.Machine
end

