-- ==== Sys2Proof/Machine/Report.lean ====
section
/-!
DEFINITION. Completion records (R430) and parked-fault records (R448).
-/
namespace Sys2Proof.Machine

/-- STATUS of a completion record (R430). -/
def statusWord (code cause : Nat) (late : Bool) : Nat := code + 256 * cause + boolNat late * 2 ^ 16

/-- A completion record lies in DRAM or the system range, 16-byte aligned (R430). -/
def State.recordOk (s : State) (a : Nat) : Bool := a % 16 = 0 && (a + 16 ≤ s.part.dcap || (isSystem a && isSystem (a + 15)))

/-- Writes a completion record: STATUS and AUX, then VALUE (R430); an address that no record can have is not written
(log 26). -/
def State.complete (s : State) (sg : SignalRef) (code cause : Nat) (late : Bool) (aux : Nat) : State :=
  if sg.addr = 0 || !s.recordOk sg.addr then s
  else s.storeBytes sg.addr (leBytes 4 (statusWord code cause late) ++ leBytes 4 aux ++ leBytes 8 sg.value.toNat)

/-- The interface that owns an ASID (R428, R465). -/
def Vif.ownsAsid (v : Vif) (asid : Nat) : Bool :=
  let first := (v.asidr.extractLsb' 0 8).toNat
  first ≤ asid && asid < first + (v.asidr.extractLsb' 8 8).toNat
def State.vifOfAsid (s : State) (asid : Nat) : Option Nat := indexWhere (fun v => v.ownsAsid asid) s.vifs

/-- The bytes of a parked-fault record (R448). -/
def FaultRec.bytes (r : FaultRec) (seq : Nat) : List Byte :=
  leBytes 8 r.addr ++ leBytes 1 r.asid ++ leBytes 1 r.kind ++ leBytes 2 r.core ++ leBytes 4 seq ++ leBytes 8 r.lpb
    ++ leBytes 8 0

/-- Writes waiting records while the ring has room: the entry to be written next reads zero (log 23). At most `fuel`
records. -/
def drainRing : Nat → Vif → State → Vif × State
  | 0, v, s => (v, s)
  | fuel + 1, v, s =>
    match v.faultRing, v.faultWait with
    | some (base, n), r :: rest =>
      let a := base + 32 * (v.fseq % n)
      if (s.physBytes (span a 32)).all (· = 0) then
        drainRing fuel { v with fseq := (v.fseq + 1) % 2 ^ 32, faultWait := rest } (s.storeBytes a (r.bytes v.fseq))
      else (v, s)
    | _, _ => (v, s)

/-- Moves an interface's waiting records to its ring. -/
def State.flushFaults (s : State) (vif : Nat) : State :=
  match s.vifs[vif]? with
  | none => s
  | some v =>
    let (v', t) := drainRing v.faultWait.length v s
    { t with vifs := t.vifs.set vif v' }

/-- Reports a parked fault to the interface that owns its ASID (R259, R448). -/
def State.report (s : State) (r : FaultRec) : State :=
  match s.vifOfAsid r.asid with
  | none => s
  | some v => (s.modVif v fun w => { w with faultWait := w.faultWait ++ [r] }).flushFaults v

/-- The record of a fault at `va`. -/
def faultRec (va asid kind core lpb : Nat) : FaultRec := ⟨va / 4096 * 4096, asid, kind, core, lpb⟩

end Sys2Proof.Machine
end

