-- ==== Sys2Proof/Machine/Bridle.lean ====
section
/-!
DEFINITION. The Bridles: automaton images (R373 to R377), legal masks and steps (R378, R379), records and their binding
(R380 to R384), and what each of the five operations does in one lane (R385 to R393).
-/
namespace Sys2Proof.Machine

/-- The header of a valid image (R373). -/
structure Image where
  vocab : Nat
  nstate : Nat
  nsym : Nat
  start : Nat
  eos : Nat
  nrow : Nat
  maskoff : Nat
  nmask : Nat
  rowoff : Nat
  troff : Nat
  ntrans : Nat
  accoff : Nat
  deriving DecidableEq, Repr

/-- A number at an offset of a byte list. -/
def fieldOf (bs : List Byte) (off n : Nat) : Nat := leNat ((bs.drop off).take n)

/-- A power of two. -/
def isPow2 (n : Nat) : Bool := n ≠ 0 && 2 ^ Nat.log2 n = n

/-- The image whose header the bytes are, if it is valid (R373, R374). -/
def Image.ofBytes (va : Nat) (bs : List Byte) : Option Image :=
  let f (o : Nat) := fieldOf bs o 4
  let i : Image :=
    { vocab := f 0x08, nstate := f 0x0C, nsym := f 0x10, start := f 0x14, eos := f 0x18, nrow := f 0x1C,
      maskoff := f 0x20, nmask := f 0x24, rowoff := f 0x28, troff := f 0x2C, ntrans := f 0x30, accoff := f 0x34 }
  if va % 64 = 0 && f 0 = 0x4C445242 && fieldOf bs 4 2 = 1 && fieldOf bs 6 2 = 0 && 1 ≤ i.vocab && i.vocab ≤ 2 ^ 20
    && 1 ≤ i.nstate && i.nstate ≤ 2 ^ 20 && i.nsym ≤ 65536 && i.start < i.nstate && i.eos < i.vocab
    && isPow2 i.nrow && i.nrow ≤ 2 ^ 24 && i.maskoff % 64 = 0 && 1 ≤ i.nmask && i.rowoff % 32 = 0
    && i.troff % 16 = 0 && i.accoff % 8 = 0 && fieldOf bs 0x38 8 = 0
  then some i else none

/-- MSZ of a vocabulary (R375). -/
def maskSize (v : Nat) : Nat := (v + 511) / 512 * 64

/-- A row of the table, as its eight words (R376). -/
abbrev Row := List Nat

def rowWord (r : Row) (i : Nat) : Nat := (r[i]?).getD 0

/-- Reads row slot q. -/
def readRow (who : Who) (va : Nat) (i : Image) (q : Nat) : MemM Row := do
  let bs ← memLoad who none false (va + i.rowoff + 32 * q) 32
  return (List.range 8).map fun k => fieldOf bs (4 * k) 4

/-- The search of R376 from slot h + k, `fuel` slots at most. -/
def lookupFrom (who : Who) (va : Nat) (i : Image) (st top h : Nat) : Nat → Nat → MemM (Option Row)
  | 0, _ => return none
  | fuel + 1, k => do
    let r ← readRow who va i ((h + k) % i.nrow)
    if !bitOf (rowWord r 0) 31 then return none
    else if bitsOf (rowWord r 0) 19 0 = st && bitsOf (rowWord r 1) 16 0 = top then return some r
    else lookupFrom who va i st top h fuel (k + 1)

/-- lookup of R376. -/
def lookupRow (who : Who) (va : Nat) (i : Image) (st top : Nat) : MemM (Option Row) :=
  lookupFrom who va i st top ((st * 0x9E3779B1 + top * 0x85EBCA77) % 2 ^ 32) i.nrow 0

/-- The accepting flag of a state (R375). -/
def accepting (who : Who) (va : Nat) (i : Image) (st : Nat) : MemM Bool := do
  let b ← memNum who (va + i.accoff + st / 8) 1
  return bitOf b (st % 8)

/-- Reserved bits of an ACT value (R377). -/
def actReserved (act : Nat) : Bool :=
  bitsOf act 15 3 ≠ 0

/-- Reserved bits of a row (R376, R378). -/
def rowReserved (r : Row) : Bool :=
  bitsOf (rowWord r 0) 30 20 ≠ 0 || bitsOf (rowWord r 1) 31 17 ≠ 0 || actReserved (rowWord r 5)
    || bitsOf (rowWord r 6) 31 20 ≠ 0 || rowWord r 7 ≠ 0

/-- The top code of a record (R376). -/
def Bound.top (b : Bound) : Nat := if b.depth = 0 then 0x10000 else (b.stack[b.depth - 1]?).getD 0

/-- legal_mask of R378: the row found, the mask, and whether BADIMG is reported. -/
def legalMask (who : Who) (i : Image) (b : Bound) : MemM (Option Row × Nat × Bool) := do
  if b.ended then return (none, 0, false)
  match ← lookupRow who b.image i b.state b.top with
  | none => return (none, 0, false)
  | some r =>
    if rowReserved r || rowWord r 2 ≥ i.nmask then return (some r, 0, true)
    let sz := maskSize i.vocab
    let bs ← memLoad who none false (b.image + i.maskoff + rowWord r 2 * sz) sz
    let m := leNat bs % 2 ^ i.vocab
    let acc ← accepting who b.image i b.state
    let m := if bitOf m i.eos && !acc then m - 2 ^ i.eos else m
    return (some r, m, false)

/-- The transition entries `e` onwards, `n` of them: the first that contains the token, and whether any of them sets a
reserved bit (R377, R379). -/
def findTrans (who : Who) (va : Nat) (i : Image) (t : Nat) : Nat → Nat → Option (Nat × Nat) → Bool →
    MemM (Option (Nat × Nat) × Bool)
  | 0, _, found, bad => return (found, bad)
  | n + 1, e, found, bad => do
    let bs ← memLoad who none false (va + i.troff + 16 * e) 16
    let f (k : Nat) := fieldOf bs (4 * k) 4
    let hit := if f 0 ≤ t && t ≤ f 1 && found.isNone then some (f 2, f 3) else found
    findTrans who va i t n (e + 1) hit (bad || actReserved (f 2) || bitsOf (f 3) 31 20 ≠ 0)

/-- step(t) of R379: the status code and the record after it. -/
def bridleStep (who : Who) (i : Image) (b : Bound) (t : Nat) : MemM (Nat × Bound) := do
  let (row, m, bad) ← legalMask who i b
  if bad then return (1, b)
  if t ≥ i.vocab || !bitOf m t then return (2, b)
  let done (c : Bound) : Bound := { c with steps := (c.steps + 1) % 2 ^ 32, lasttok := t }
  if t = i.eos then return (0, done { b with ended := true })
  match row with
  | none => return (2, b)
  | some r =>
    if rowWord r 3 + rowWord r 4 > i.ntrans then return (1, b)
    let (found, rsv) ← findTrans who b.image i t (rowWord r 4) (rowWord r 3) none false
    let (act, nxt) := found.getD (rowWord r 5, rowWord r 6)
    let op := act % 8
    let sym := bitsOf act 31 16
    if rsv || op ≥ 4 || nxt ≥ i.nstate || ((op = 1 || op = 3) && sym ≥ i.nsym) then return (1, b)
    if op = 1 && b.depth = b.slim then return (3, b)
    if (op = 2 || op = 3) && b.depth = 0 then return (3, b)
    let c : Bound :=
      match op with
      | 1 => { b with stack := b.stack.take b.depth ++ [sym], depth := b.depth + 1 }
      | 2 => { b with stack := b.stack.take (b.depth - 1), depth := b.depth - 1 }
      | 3 => { b with stack := b.stack.take (b.depth - 1) ++ [sym] }
      | _ => b
    return (0, done { c with state := nxt })

/-! Records -/

/-- The bytes of a record and of its stack below the depth (R380). -/
def Bound.bytes (b : Bound) : List Byte :=
  leBytes 8 b.image ++ leBytes 4 b.state ++ leBytes 4 b.depth ++ leBytes 4 b.slim ++ leBytes 4 (boolNat b.ended)
    ++ leBytes 4 b.steps ++ leBytes 4 b.lasttok ++ List.replicate 224 0
    ++ ((List.range b.depth).flatMap fun i => leBytes 2 ((b.stack[i]?).getD 0))

/-- Who a write-back is (R393): the address space under which the record was bound, by the die's Bridle and no core. -/
def Bound.who (b : Bound) : Who := ⟨b.asid, some b.binder, some b.binder.bid, 256, b.bridle, none⟩

/-- A write-back (R382): a write of every launch that operated on the record (R454). -/
def writeBack (b : Bound) : MemM Unit := fun s =>
  match s.translateSpan b.who .store none false b.va b.bytes.length with
  | .inl f => .error f
  | .inr sp =>
    .ok ((), (s.useTrans b.who true sp.uses).writeFor b.lids (sp.pas.zip b.bytes))

/-- Changes the bound record at a physical address. -/
def State.modBound (s : State) (pa : Nat) (f : Bound → Bound) : State :=
  { s with bound := mapWhere (fun b => b.pa = pa) f s.bound }
def State.bound? (s : State) (pa : Nat) : Option Bound := s.bound.find? fun b => b.pa = pa
def State.unbind (s : State) (pa : Nat) : State := { s with bound := s.bound.filter fun b => b.pa ≠ pa }

/-- The launch parameter block of a record's first live launch, for a report. -/
def State.lpbOf (s : State) (lids : List Nat) : Nat :=
  ((lids.head?.bind fun l => s.launches[l]?).map Launch.lpb).getD 0

/-- Reports a write-back that faults, once, as a parked fault (R393). No core makes it: the record names 32 × die as its core,
whatever cores the die has (DESIGN CHOICE, log 86). -/
def State.reportWriteBack (s : State) (b : Bound) (va : Nat) : State :=
  if b.stuck then s
  else (s.modBound b.pa fun c => { c with stuck := true }).report
    (faultRec va b.asid 5 (32 * b.bridle) (s.lpbOf b.lids))

/-- The bound records of a Bridle from the least recently used on, insertion by last use. -/
def insertByUse (b : Bound) : List Bound → List Bound
  | [] => [b]
  | c :: r => if b.lastUse < c.lastUse then b :: c :: r else c :: insertByUse b r
def State.byUse (s : State) (bridle : Nat) : List Bound :=
  (s.bound.filter fun b => b.bridle = bridle).foldl (fun l b => insertByUse b l) []

/-- Evicts the first record of the list whose write-back does not fault (R381, R393); none when every one faults. -/
def evictFrom : List Bound → State → State × Bool
  | [], s => (s, false)
  | b :: r, s =>
    match writeBack b s with
    | .ok ((), t) => (t.unbind b.pa, true)
    | .error f => evictFrom r (s.reportWriteBack b f.va)

/-- Room for one more record in a Bridle. -/
def makeRoom (bridle : Nat) : MemM Bool := fun s =>
  if (s.byUse bridle).length < 256 then .ok (true, s)
  else let (t, ok) := evictFrom (s.byUse bridle) s; .ok (ok, t)

/-- The take-over of a record bound in another Bridle (R381, R393): false when its write-back faults. -/
def takeOver (b : Bound) : MemM Bool := fun s =>
  match writeBack b s with
  | .ok ((), t) => .ok (true, t.unbind b.pa)
  | .error f => .ok (false, s.reportWriteBack b f.va)

/-- Reads and checks a record (R380, R381): BADREC 4, BADIMG 1, or the record. -/
def readRecord (who : Who) (binder : GRef) (va pa bridle : Nat) : MemM (Nat ⊕ Bound) := do
  let bs ← memLoad who none false va 256
  let f (o : Nat) := fieldOf bs o 4
  let st := f 0x08
  let dp := f 0x0C
  let slim := f 0x10
  if bitsOf st 31 20 ≠ 0 || bitsOf dp 31 13 ≠ 0 || bitsOf (f 0x14) 31 1 ≠ 0 || fieldOf bs 0x20 224 ≠ 0
    || slim = 0 || slim > 4096 || dp > slim then return .inl 4
  let image := fieldOf bs 0 8
  let hdr ← memLoad who none false image 64
  match Image.ofBytes image hdr with
  | none => return .inl 1
  | some i =>
    if st ≥ i.nstate then return .inl 4
    let sb ← memLoad who none false (va + 0x100) (2 * dp)
    return .inr { pa := pa, va := va, asid := who.asid, binder := binder, bridle := bridle, image := image,
                  header := hdr, state := st, depth := dp, slim := slim, ended := bitOf (f 0x14) 0, steps := f 0x18,
                  lasttok := f 0x1C, stack := (List.range dp).map fun k => fieldOf sb (2 * k) 2, lastUse := 0,
                  lids := [], stuck := false }

/-- A new sequence on the image at `image` (R388): BADIMG 1, or the record. -/
def newRecord (who : Who) (binder : GRef) (va pa bridle image slim : Nat) : MemM (Nat ⊕ Bound) := do
  let hdr ← memLoad who none false image 64
  match Image.ofBytes image hdr with
  | none => return .inl 1
  | some i =>
    return .inr { pa := pa, va := va, asid := who.asid, binder := binder, bridle := bridle, image := image,
                  header := hdr, state := i.start, depth := 0, slim := slim, ended := false, steps := 0,
                  lasttok := 0xFFFFFFFF, stack := [], lastUse := 0, lids := [], stuck := false }

/-- The physical address that names a record (R381). -/
def recordAddr (who : Who) (va : Nat) : MemM Nat := fun s =>
  match s.translateSpan who .load none false va 256 with
  | .inl f => .error f
  | .inr sp => .ok ((sp.pas.head?).getD 0, s)

/-- A record enters a Bridle that has room for it, or makes room; BUSY when none can be made. -/
def enterBridle (bridle : Nat) (n : Bound) : MemM (Nat ⊕ Bound) := do
  if !(← makeRoom bridle) then return .inl 5
  modify fun t => { t with bound := t.bound ++ [n] }
  return .inr n

/-- The image that a bound record names is valid now (R374). -/
def imageValid (who : Who) (b : Bound) : MemM Bool := do
  let hdr ← memLoad who none false b.image 64
  return (Image.ofBytes b.image hdr).isSome

/-- Takes a record over from another Bridle: one whose write-back faults, or for which no room can be made, stays where it is
bound (R381, R393), and so does one whose new binding fails. -/
def rebind (bridle : Nat) (b : Bound) (make : MemM (Nat ⊕ Bound)) : MemM (Nat ⊕ Bound) := do
  let s ← get
  if (writeBack b s).toOption.isNone then
    let _ ← takeOver b
    return .inl 5
  if !(← makeRoom bridle) then return .inl 5
  let _ ← takeOver b
  match ← make with
  | .inl c => set s
              return .inl c
  | .inr n => enterBridle bridle n

/-- Binds the record at `va` in Bridle `bridle` unless it is bound there: a failing code, or the bound record. `make`
gives the record when it is not bound anywhere; `fresh` discards what a bound record holds (R388). An image that is not
valid leaves everything as it is (R374). -/
def bindRecord (who : Who) (va bridle : Nat) (fresh : Bool) (make : Nat → MemM (Nat ⊕ Bound)) :
    MemM (Nat ⊕ Bound) := do
  let pa ← recordAddr who va
  let s ← get
  match s.bound? pa with
  | none =>
    match ← make pa with
    | .inl c => return .inl c
    | .inr n => enterBridle bridle n
  | some b =>
    if fresh then
      match ← make pa with
      | .inl c => return .inl c
      | .inr n =>
        if b.bridle = bridle then
          modify fun t => t.modBound pa fun _ => { n with lids := b.lids }
          return .inr { n with lids := b.lids }
        else rebind bridle b (pure (.inr n))
    else if b.bridle = bridle then return .inr b
    else if !(← imageValid who b) then return .inl 1
    else rebind bridle b (make pa)

/-- The status word of R385. -/
def bridleStatus (who : Who) (code : Nat) (b : Bound) : MemM Nat := do
  if code = 1 || code = 4 || code = 5 then return code
  match Image.ofBytes b.image b.header with
  | none => return 1
  | some i =>
    let (_, m, bad) ← legalMask who i b
    if bad then return 1
    let acc ← accepting who b.image i b.state
    return code + 16 * boolNat acc + 32 * boolNat (m = 0) + 64 * boolNat b.ended + 256 * b.depth

/-- One operation in one lane (R388 to R391): the status word. `use` orders it among the uses of the Bridle's records. -/
def bridleLane (who : Who) (g : GRef) (lid : Nat) (op : BridleOp) (use va arg : Nat) : MemM Nat := do
  let bridle := who.die
  let bound ←
    match op with
    | .init image slim => bindRecord who va bridle true fun pa => newRecord who g va pa bridle image slim
    | _ => bindRecord who va bridle false fun pa => readRecord who g va pa bridle
  match bound with
  | .inl code => return code
  | .inr b0 =>
    let b := { b0 with lastUse := use, lids := if b0.lids.contains lid then b0.lids else b0.lids ++ [lid] }
    modify fun t => t.modBound b.pa fun _ => b
    match Image.ofBytes b.image b.header with
    | none => return 1
    | some i =>
      match op with
      | .step =>
        let (code, c) ← bridleStep who i b arg
        modify fun t => t.modBound b.pa fun _ => c
        bridleStatus who code c
      | .mask conj =>
        let (_, m, bad) ← legalMask who i b
        if bad then return 1
        let sz := maskSize i.vocab
        let old ← if conj then memLoad who none false arg sz else pure []
        let new := if conj then leBytes sz (m &&& leNat old) else leBytes sz m
        memStore who [lid] arg new
        bridleStatus who 0 b
      | .save evict =>
        writeBack b
        if evict then modify fun t => t.unbind b.pa
        bridleStatus who 0 b
      | _ => bridleStatus who 0 b

/-- Writes back every record on which a launch operated, leaving those whose write-back faults bound; answers the
addresses of those (R384). -/
def writeBackAll (lid : Nat) (s : State) : State × List (Bound × Nat) :=
  (s.bound.filter fun b => b.lids.contains lid).foldl (fun acc b =>
    match writeBack b acc.1 with
    | .ok ((), t) => (t.modBound b.pa fun c => { c with lids := c.lids.filter (· ≠ lid), stuck := false }, acc.2)
    | .error f => (acc.1, acc.2 ++ [(b, f.va)])) (s, [])

end Sys2Proof.Machine
end

