-- ==== Sys2Proof/Machine/Launches.lean ====
section
/-!
DEFINITION. What happens to launches and blocks as a whole: numbered, block and grid barriers (R64 to R66, R349 to
R351), sharing groups (R260 to R265), chains (R408, R409), the exit of groups and blocks (R211, R265), kill (R30) and
rollback (R456 to R459).
-/
namespace Sys2Proof.Machine

/-! Numbered barriers -/

/-- The three kinds of party of a numbered barrier (R349). -/
inductive BParty
  | grp (gid : Nat)
  | seqr
  | port
  deriving DecidableEq, Repr

/-- TGT (R349). -/
def Block.tgt (b : Block) : Nat := (b.groups.filter fun g => !g.exited).length

def Barrier.seen (b : Barrier) : BParty → Nat
  | .grp g => assocGet 0 b.seenG g
  | .seqr => b.seenS
  | .port => b.seenP

/-- A party's lag (R349). -/
def Barrier.lag (b : Barrier) (p : BParty) : Nat := (b.gen + 2 ^ 32 - b.seen p) % 2 ^ 32

def Barrier.raise (b : Barrier) (p : BParty) : Barrier :=
  match p with
  | .grp g => { b with seenG := assocSet 0 b.seenG g ((b.seen p + 1) % 2 ^ 32) }
  | .seqr => { b with seenS := (b.seenS + 1) % 2 ^ 32 }
  | .port => { b with seenP := (b.seenP + 1) % 2 ^ 32 }

/-- A generation completes among `n` groups: no lag ever exceeds 65,535 (R349). -/
def Barrier.complete (n : Nat) (b : Barrier) : Barrier :=
  let full := ((List.range n).map BParty.grp ++ [BParty.seqr, BParty.port]).filter fun p => b.lag p = 65535
  let c := full.foldl Barrier.raise b
  { c with gen := (c.gen + 1) % 2 ^ 32 }

/-- Completes generations while CNTB ≥ TGT and TGT > 0 (R350). -/
def Barrier.settle (n tgt : Nat) (b : Barrier) : Barrier :=
  if tgt = 0 then b
  else (List.range (b.cnt / tgt)).foldl (fun c _ => c.complete n) { b with cnt := b.cnt % tgt }

/-- An arrival that adds `k` (R350). -/
def Barrier.arrive (n tgt k : Nat) (b : Barrier) : Barrier :=
  if tgt = 0 then b.complete n else Barrier.settle n tgt { b with cnt := b.cnt + k }

/-- The block's barrier b1 to b15 stands at index b - 1. -/
def Block.modBar (b : Block) (bar : Nat) (f : Barrier → Barrier) : Block := { b with bars := b.bars.modify (bar - 1) f }

/-- An arrival by a group with n, or by the sequencer or the gang port with TGT (R350). -/
def Block.arrive (b : Block) (bar : Nat) (count : Option Nat) : Block :=
  b.modBar bar fun x => x.arrive b.groups.length b.tgt (count.getD b.tgt)

/-- A party has a generation to take (R351). -/
def Block.canTake (b : Block) (bar : Nat) (p : BParty) : Bool :=
  match b.bars[bar - 1]? with
  | some x => x.lag p ≠ 0
  | none => false

/-- Takes a generation (R351). -/
def Block.take (b : Block) (bar : Nat) (p : BParty) : Block := b.modBar bar fun x => x.raise p

/-! Block and grid barriers -/

/-- Every non-exited group has arrived `k` times at the block barrier (R64). -/
def Block.bbDone (b : Block) (k : Nat) : Bool := b.groups.all fun g => g.exited || k ≤ g.bbArr

/-- The block has arrived at the grid barrier's generation `k` (R66). -/
def Block.gbDone (b : Block) (k : Nat) : Bool := b.groups.all fun g => g.exited || k ≤ g.gbArr

/-- The grid's block count. -/
def Launch.total (l : Launch) : Nat := l.gx * l.gy * l.gz

/-- The blocks of a launch's present run, and its own among them; node blocks are no part of the grid. -/
def State.launchBlocks (s : State) (lid : Nat) : List Block := s.blocks.filter fun b => b.lid = lid && b.place ≠ .gone
def State.gridBlocks (s : State) (lid : Nat) : List Block := (s.launchBlocks lid).filter fun b => b.node.isNone

def Body.writes : Body → Bool
  | .store => true
  | .atomic _ _ _ => true
  | _ => false

/-- Private memory, the own share and the sharing-group window, whose accesses are never staged (R401). -/
def unstagedWindow (va : Nat) : Bool :=
  (0x7E0000000000 ≤ va && va < 0x7E0100000000) || (0x7F0000000000 ≤ va && va < 0x7F0000600000)
    || (0x7F1000000000 ≤ va && va < 0x7F1004000000)

/-- The operation has accesses that are staged in a deterministic launch (R401). -/
def Pend.willStage (p : Pend) : Bool :=
  p.body.writes && p.accs.any fun c => c.staged || (c.pas.isEmpty && !unstagedWindow c.va)

/-- An operation of the block that is not performed and will have its accesses staged, or part of them (R401): those
that have issued already belong to the epoch in which they issued. -/
def Block.willStage (b : Block) : Bool := b.groups.any fun g => (g.outstanding ++ g.aside).any Pend.willStage

/-- Every access that the block has staged, or has issued to be staged, has been released (R402, R406). -/
def Block.epochOver (l : Launch) (b : Block) : Bool := b.staged.isEmpty && !(l.detOf b && b.willStage)

/-- The current generation of the grid barrier is complete: every block has arrived or exited, and in a deterministic
launch every access of the epoch has been performed and released (R66, R406). -/
def State.gridDone (s : State) (lid : Nat) (l : Launch) : Bool :=
  let bs := s.gridBlocks lid
  l.gridbar && l.nextBseq = l.total && bs.any (fun b => b.place ≠ .exited) &&
    bs.all fun b => (b.place = .exited || b.gbDone (l.gridGen + 1)) && b.epochOver l

/-- Releases the generations of the grid barrier that are complete, `fuel` of them at most. -/
def State.settleGridFrom (lid : Nat) : Nat → State → State
  | 0, s => s
  | fuel + 1, s =>
    match s.launches[lid]? with
    | none => s
    | some l =>
      if s.gridDone lid l then
        (s.modLaunch lid fun l => { l with gridGen := l.gridGen + 1 }).settleGridFrom lid fuel
      else s

/-- Releases every generation of the grid barrier that is complete (R66): none beyond the greatest at which a group has
arrived. -/
def State.settleGrid (s : State) (lid : Nat) : State :=
  s.settleGridFrom lid (((s.gridBlocks lid).flatMap fun b => b.groups.map Group.gbArr).foldl max 0)

/-- The head block of a deterministic launch: the lowest BSEQ not retired from the current epoch (R402, R406). -/
def State.headOf (s : State) (lid : Nat) : Option Nat :=
  (s.launches[lid]?).bind fun l =>
    lowest l.total fun q =>
      !((s.gridBlocks lid).any fun b =>
        b.bseq = q && b.epochOver l && (b.place = .exited || (l.gridbar && b.gbDone (l.gridGen + 1))))

/-- The block is the head of its launch. -/
def State.isHead (s : State) (b : Block) : Bool := b.node.isNone && s.headOf b.lid = some b.bseq

/-! Sharing groups -/

/-- Removes a block from its sharing group: revoked for the members that saw it, and every slot for the leaver
(R262, R265); parts for it that have not begun are dropped (R366). -/
def State.leaveSharing (s : State) (bid : Nat) : State :=
  match s.sharingOf bid with
  | none => s
  | some r =>
    let slot := ((r.members.find? fun p => p.2 = bid).map Prod.fst).getD 0
    let others := (r.members.filter fun p => p.2 ≠ bid).map Prod.snd
    let rest := { r with members := r.members.filter fun p => p.2 ≠ bid }
    let recs := s.sharing.filterMap fun q =>
      if q.lid = r.lid && q.num = r.num then (if rest.members.isEmpty then none else some rest) else some q
    let s := { s with sharing := recs }
    let s := others.foldl (fun s o => s.modBlock o fun b =>
      { b with revoked := b.revoked ++ [slot], undelivered := b.undelivered.filter fun u => u.member ≠ bid }) s
    s.modBlock bid fun b => { b with revoked := List.range 8, parts := b.parts.filter GangPart.begun }

/-! Chains -/

/-- The block of a launch, or of one of its nodes, with a BSEQ. -/
def State.blockAt (s : State) (lid : Nat) (node : Option Nat) (bseq : Nat) : Option Block :=
  s.blocks.find? fun b => b.lid = lid && b.node = node && b.bseq = bseq && b.place ≠ .gone

/-- Moves NXT past exited blocks, marking the token as passed implicitly; at most `fuel` blocks (R409). -/
def passExited (s : State) : Nat → Chain → Chain
  | 0, c => c
  | fuel + 1, c =>
    match s.blockAt c.lid c.node c.nxt with
    | some b => if b.place = .exited then passExited s fuel { c with nxt := c.nxt + 1, implicit := true } else c
    | none => c

/-- The chain still lives: NXT has not passed the launch's last BSEQ (R408). -/
def State.chainLives (s : State) (c : Chain) : Bool :=
  c.node.isSome || (s.launches[c.lid]?).any fun l => c.nxt < l.total

/-- The ticket unit after an exit or a pass (R408, R409). -/
def State.settleChains (s : State) : State :=
  { s with chains := (s.chains.map fun c => passExited s s.blocks.length c).filter s.chainLives }

/-! Scheduling (R48, R49) -/

/-- Takes a group off its core's sets. -/
def State.unschedule (s : State) (p : GRef → Bool) : State :=
  { s with cores := s.cores.map fun c =>
      { c with active := c.active.filter fun g => !p g, pending := c.pending.filter fun q => !p q.1 } }

/-- The group leaves the active set for the pending set (R49). -/
def State.toPending (s : State) (g : GRef) : State :=
  let c := ((s.block? g.bid).map Block.core).getD 0
  s.modCore c fun k =>
    if k.active.contains g then
      { k with active := k.active.filter (· ≠ g), pending := k.pending ++ [(g, s.time)] }
    else k

/-! Gathering of work graphs (R438) -/

/-- Writes a closed batch's records into its segment, in gather order. -/
def Batch.writeTo (n : Node) (b : Batch) (s : State) : State :=
  s.storeBytes (n.buf + 96 * n.rsz * b.segment) b.recs.flatten

/-- Closes the open batch of a node, if it has one. -/
def State.closeBatch (s : State) (lid node : Nat) : State :=
  match s.launches[lid]? with
  | none => s
  | some l =>
    match l.nodes[node]?, l.gathers[node]? with
    | some n, some gth =>
      match gth.current with
      | none => s
      | some b =>
        let g' : Gather := { gth with current := none, closed := gth.closed ++ [(gth.count, b)], count := gth.count + 1 }
        b.writeTo n (s.modLaunch lid fun l => { l with gathers := l.gathers.set node g' })
    | _, _ => s

/-- Every block of the root launch has been admitted and has exited. -/
def State.rootDone (s : State) (lid : Nat) : Bool :=
  match s.launches[lid]? with
  | none => false
  | some l => l.nextBseq = l.total && (s.gridBlocks lid).all fun b => b.place = .exited

/-! Exit -/

/-- Drops the sequencer's stream and the parts not begun; the word in progress is completed by its own event (R346). -/
def Block.stopSequencer (b : Block) : Block :=
  let busy := ((b.seqr.map fun q => q.work.isSome || !q.drains.isEmpty).getD false) || b.parts.any GangPart.begun
  { b with
    seqr := b.seqr.map fun q => { q with ended := true }
    parts := b.parts.filter GangPart.begun
    undelivered := b.undelivered
    tiles := if busy then b.tiles else [] }

/-- The block has exited (R211, R265, R346, R409). -/
def State.exitBlock (s : State) (bid : Nat) : State :=
  match s.block? bid with
  | none => s
  | some b =>
    let s := s.leaveSharing bid
    let s := s.modBlock bid fun b => { b.stopSequencer with place := .exited, savedShare := [], savedPoison := [], wants := 0, owed := 0 }
    let s := s.releaseOf bid
    let s := s.settleChains
    let s := s.settleGrid b.lid
    let s :=
      if s.rootDone b.lid then
        (List.range (((s.launches[b.lid]?).map fun l => l.nodes.length).getD 0)).foldl
          (fun s n => s.closeBatch b.lid n) s
      else s
    ((s.launches[b.lid]?).map fun l => s.writeUse l.rcb).getD s

/-- A group has exited (R64, R211, R350). -/
def State.exitGroup (s : State) (g : GRef) : State :=
  let s := s.modGroup g fun h => { h with exited := true, slotA := Slot.vacant, slotB := Slot.vacant }
  let s := s.modBlock g.bid fun b => { b with bars := b.bars.map (Barrier.settle b.groups.length b.tgt) }
  let s := s.unschedule (· = g)
  match s.block? g.bid with
  | none => s
  | some b => if b.groups.all Group.exited then s.exitBlock g.bid else s.settleGrid b.lid

/-! The state table (R467) -/

/-- What the active complex records at a command boundary; its layout in memory is firmware's (log 81). -/
def State.tableNow (s : State) : StateTable where
  version := s.firmware.running.tableVersion
  queues := s.queues
  launches := s.launches.map fun l => (l.st, l.nextBseq)
  comms := s.comms
  chains := s.chains
  rings := s.vifs.map Vif.fseq

/-- A command boundary: an entry is recorded as started, or a step of R445 or R456 is finished. -/
def State.boundary (s : State) : State := { s with firmware := { s.firmware with table := s.tableNow } }

/-! Kill and rollback -/

/-- Removes every block of a launch, with all it holds (R30, R407, R456). -/
def State.removeBlocks (s : State) (lid : Nat) : State :=
  let mine (bid : Nat) : Bool := (s.block? bid).any fun b => b.lid = lid
  let s := s.unschedule fun g => mine g.bid
  { s with
    cores := s.cores.map fun c => { c with gondola := c.gondola.filter fun b => !mine b }
    blocks := mapWhere (fun b => b.lid = lid) (fun b =>
      { b with
        place := .gone
        seqr := none
        tiles := []
        badTiles := []
        parts := []
        undelivered := []
        staged := []
        savedShare := []
        savedPoison := []
        waiting := none
        wants := 0
        owed := 0
        groups := b.groups.map fun g =>
          { g with exited := true, pend := [], aside := [], trapped := none, slotA := Slot.vacant, slotB := Slot.vacant } })
      s.blocks
    copies := mapWhere (fun c => mine c.owner.bid && (c.st = .armed || c.st = .running || c.st = .paused))
      (fun c => { c with st := .stopped, cause := 4 }) s.copies
    chains := s.chains.filter fun c => c.lid ≠ lid
    sharing := s.sharing.filter fun r => r.lid ≠ lid
    ballast := s.ballast.filter fun r =>
      match r.use with
      | .image b => !mine b
      | .faults b => !mine b
      | .snapshot _ => true }

/-- The operation is no longer outstanding. -/
def State.dropOp (s : State) (g : GRef) (ser : Nat) : State :=
  s.modGroup g fun h => { h with
    pend := h.pend.filter fun p => p.ser ≠ ser
    aside := h.aside.filter fun p => p.ser ≠ ser }

/-- A step that is still in flight. -/
def RedStep.inFlight (t : RedStep) : Bool := t.st = .armed || t.st = .running

/-- The steps in flight of a communicator that satisfy `p` fail with a cause: they hold nothing of their groups any
more (R418, R421). -/
def State.failSteps (s : State) (ci cause : Nat) (p : RedStep → Bool) : State :=
  let gone := ((s.comms[ci]?).map fun c => c.steps.filter fun t => t.inFlight && p t).getD []
  let s : State := { s with comms := s.comms.modify ci fun c =>
    { c with steps := mapWhere (fun t => t.inFlight && p t) (fun t => { t with st := .failed, cause := cause }) c.steps } }
  gone.foldl (fun s t => s.dropOp t.owner t.ser) s

/-- Aborts the steps of a killed launch (R418, R421). -/
def State.abortSteps (s : State) (lid : Nat) : State :=
  (List.range s.comms.length).foldl (fun s ci => s.failSteps ci 7 fun t => t.lid = lid) s

/-- Sets the step counters of a killed launch's communicators back to its lowest step; the steps from there on fail
with ABORT (R459). -/
def State.resetSteps (s : State) (l : Launch) : State :=
  (List.range s.comms.length).foldl (fun s ci =>
    match s.comms[ci]? with
    | none => s
    | some c =>
      match (l.steps.filter fun p => c.live && c.vif = l.vif && p.1 = c.handle).map Prod.snd with
      | [] => s
      | k :: ks =>
        let low := ks.foldl min k
        let s := s.failSteps ci 7 fun t => t.k ≥ low
        { s with comms := s.comms.modify ci fun c => { c with nextStep := low } }) s

/-- A block of a launch has nothing left to do (R346, R407, R435). -/
def Block.finished (b : Block) : Bool := b.place = .exited && !b.draining && b.staged.isEmpty && b.undelivered.isEmpty

/-- What must hold at completion, the Bridles' write-back apart (R435). -/
def State.launchDone (s : State) (lid : Nat) (l : Launch) : Bool :=
  l.st = .running && l.nextBseq = l.total && (s.launchBlocks lid).all Block.finished
    && l.gathers.all (fun g => g.current.isNone && g.closed.isEmpty)
    && s.copies.all (fun c => s.lidOf c.owner.bid ≠ lid || c.st = .done || c.st = .stopped)
    && s.comms.all fun m => m.steps.all fun t => t.lid ≠ lid || !t.inFlight

/-- The launch has come to its completion instant (R435), its completion record written or not. -/
def State.atCompletion (s : State) (lid : Nat) (l : Launch) : Bool :=
  l.st = .completed || (s.launchDone lid l && s.bound.all fun b => !b.lids.contains lid)

/-- A gather with nothing in it. -/
def Gather.empty : Gather := ⟨none, [], 0, none⟩

/-- A launch as it stands when it has just started (R433, R456). -/
def Launch.fresh (l : Launch) (now : Nat) : Launch :=
  { l with
    st := if l.timed then .timed else .running
    late := l.timed && l.tstart < now
    nextBseq := 0
    waiting := none
    gridGen := 0
    units := []
    replayable := l.snap
    mapped := []
    steps := []
    gathers := l.nodes.map fun _ => Gather.empty }

/-- Ends a killed launch: its Bridle records are written back as far as that works, its completion record reads
KILLED (R30, R384, R407). -/
def State.endKilled (s : State) (lid : Nat) (l : Launch) (cause : Nat) : State :=
  let s := (s.removeBlocks lid).abortSteps lid
  let s : State := (writeBackAll lid s).1
  let s : State := { s with bound := s.bound.map fun (b : Bound) => { b with lids := b.lids.filter (· ≠ lid) } }
  let s := s.release fun u => u = .snapshot lid
  let s := s.modLaunch lid fun l => { l with st := .killed, units := [] }
  ((s.complete l.signal 0x10 cause l.late 0).writeRcbStatus l.rcb true none).writeUse l.rcb

/-- Writes the snapshotted units back (R456) with the poison that they held when they were copied (R452); a unit whose
saved copy has since met an uncorrectable error is poisoned in place, and then none follows it (R457). -/
def State.restoreUnits (s : State) (lid : Nat) (l : Launch) : List (Nat × SnapUnit) → State × Bool
  | [] => (s, true)
  | (k, u) :: r =>
    if s.poisoned (span (s.unitPlace lid k l) 4096) then
      ({ s with poison := s.poison ++ (span u.base 4096).filter fun w => w % 32 = 0 && !s.poison.contains w }, false)
    else
      let t := s.storeBytes u.base u.bytes
      ({ t with poison := t.poison ++ u.poison }).restoreUnits lid l r

/-- Rolls a killed launch back and starts it again (R456, R457, R459). -/
def State.rollback (s : State) (lid : Nat) (l : Launch) (cause : Nat) : State :=
  let s := (s.removeBlocks lid).abortSteps lid |>.resetSteps l
  match s.restoreUnits lid l (l.units.zipIdx.map fun p => (p.2, p.1)) with
  | (s, false) => s.endKilled lid l cause
  | (s, true) =>
    let s := l.mapped.foldl (fun s p => s.zeroRange p.1 p.2) s
    let s := s.release fun u => u = .snapshot lid
    let s := s.modLaunch lid fun l => { l.fresh s.time with replays := l.replays + 1 }
    (({ s with telem := { s.telem with replayn := s.telem.replayn + 1 } } : State).writeUse l.rcb).boundary

/-- Kills one launch, or rolls it back when it qualifies (R30, R456). One whose completion instant is past is not affected:
it is non-replayable from then on (R435, R455). -/
def State.killOne (s : State) (cause : Nat) (lid : Nat) : State :=
  match s.launches[lid]? with
  | none => s
  | some l =>
    if s.atCompletion lid l then s.noReplay lid
    else if !l.live then s
    else if l.snap && l.replayable && l.replays < l.retry then s.rollback lid l cause
    else s.endKilled lid l cause

/-- The other launches of the fault domain: those under the same interface with the same nonzero effective FDOM
(R30). -/
def State.domainOf (s : State) (lid : Nat) : List Nat :=
  match s.launches[lid]? with
  | none => []
  | some l =>
    let dom (l : Launch) := ((s.effOf l).map EffRcb.fdom).getD 0
    (List.range s.launches.length).filter fun k =>
      k ≠ lid && ((s.launches[k]?).map fun m => m.live && m.vif = l.vif && dom l ≠ 0 && dom m = dom l).getD false

/-- A fatal error of a launch with its trap code (R30). -/
def State.kill (s : State) (lid cause : Nat) : State :=
  let others := s.domainOf lid
  let s := if cause = 0x0A then { s with telem := { s.telem with sigmisn := s.telem.sigmisn + 1 } } else s
  others.foldl (fun s k => s.killOne 0 k) (s.killOne cause lid)

/-- A fatal error of a group's launch. -/
def State.killGroup (s : State) (g : GRef) (cause : Nat) : State :=
  match s.block? g.bid with
  | none => s
  | some b => s.kill b.lid cause

end Sys2Proof.Machine
end

