-- ==== Sys2Proof/Machine/Perform.lean ====
section
/-!
DEFINITION. Operations of a group that have issued (R121 to R155): the edges that hold them back, what each one does
when it is performed, the ticket unit's staging (R401 to R406), and the drain of a trap, a swap or a pre-emption
(R56, R152, R155).
-/
namespace Sys2Proof.Machine

/-! Edges -/

/-- `a` is an edge-predecessor of `b` (R123). -/
def Pend.edge (a b : Pend) : Bool :=
  a.ser < b.ser && (a.q.any fun n => b.pm.getLsbD n) && (a.path = b.path || b.x)

/-- A release point (R137, R412). -/
def Pend.isRelease (p : Pend) : Bool :=
  match p.body with
  | .store => p.sem = .release || p.sem = .acqRel
  | .atomic _ _ _ => p.sem = .release || p.sem = .acqRel
  | .order => p.sem = .release || p.sem = .acqRel
  | .ticket .pass _ _ => true
  | .ticket .fin _ _ => true
  | _ => false

/-- An acquire point (R137, R412). -/
def Pend.isAcquire (p : Pend) : Bool :=
  match p.body with
  | .load => p.sem = .acquire || p.sem = .acqRel
  | .atomic _ _ _ => p.sem = .acquire || p.sem = .acqRel
  | .order => p.sem = .acquire || p.sem = .acqRel
  | .ticket .wait _ _ => true
  | _ => false

/-- The operation is in its block's staging reserve. -/
def Block.inReserve (b : Block) (gid ser : Nat) : Bool := b.staged.contains ⟨gid, ser⟩

/-- A store in the reserve is performed at block scope (R403). -/
def Block.stored (b : Block) (gid : Nat) (a : Pend) : Bool :=
  b.inReserve gid a.ser && a.body = .store && a.scope = .block

/-- `a` is performed as far as `p` needs it, though not at every scope: at block scope, which is enough for a block-scope
successor; or it is behind staged accesses of other groups alone, with which synchronisation has ordered it, and they hold
back release points only (R403). -/
def Block.seenBy (b : Block) (gid : Nat) (a p : Pend) : Bool :=
  (p.scope = .block && (a.st = .passed || b.stored gid a))
    || (a.st = .passed && !p.isRelease && a.behind.all fun e => e.gid ≠ gid)

/-- `a` does not hold `p` back (R124). -/
def Block.edgeMet (b : Block) (gid : Nat) (p a : Pend) : Bool := !a.edge p || b.seenBy gid a p

/-- Every edge-predecessor is performed (R124). An instruction of a handler does not wait for what the entry has set aside,
unless it is performed at block scope already (R152). -/
def Block.edgesMet (b : Block) (gid : Nat) (g : Group) (p : Pend) : Bool :=
  g.outstanding.all (b.edgeMet gid p)
    && g.aside.all fun a => b.edgeMet gid p a || (g.trapSer ≤ p.ser && a.st ≠ .passed && !b.inReserve gid a.ser)

/-- What a predecessor in the reserve, or a link of a chain, puts a successor behind. -/
def Block.reach (b : Block) (gid : Nat) (a : Pend) : List Staged :=
  if b.inReserve gid a.ser then [⟨gid, a.ser⟩] else a.behind

/-- The staged accesses not yet released that an operation follows (R124, R403): through its edges, and, for an acquire point,
through every release point of the block's other groups that is performed at block scope, as if the acquire point had
synchronised with each (R138, R139; DESIGN CHOICE, log 87). -/
def Block.behindOf (b : Block) (gid : Nat) (g : Group) (p : Pend) : List Staged :=
  (((g.outstanding ++ g.aside).filter fun a => a.edge p).flatMap (b.reach gid)
    ++ (if p.isAcquire then
          b.groups.zipIdx.flatMap fun h =>
            if h.2 = gid then [] else ((h.1.pend ++ h.1.aside).filter Pend.isRelease).flatMap (b.reach h.2)
        else [])).eraseDups

/-- An operation that stays as a link of a chain. -/
def Pend.pass (p : Pend) (l : List Staged) : Pend :=
  { p with accs := [], body := .order, sem := if p.isRelease then .release else .plain, got := [], st := .passed, behind := l }

/-- The operation is performed: it is outstanding no more, or stays as a link of the chain of edges. -/
def State.endOp (s : State) (g : GRef) (p : Pend) : State :=
  let l := ((s.block? g.bid).bind fun b => (b.groups[g.gid]?).map fun h => b.behindOf g.gid h p).getD []
  if !l.isEmpty && (p.q.isSome || p.isRelease) then
    s.modGroup g fun h => { h with pend := mapWhere (fun q => q.ser = p.ser) (fun q => q.pass l) h.pend }
  else s.dropOp g p.ser

/-- A staged access is released: no link stands behind it any more, and one behind nothing is gone. -/
def Group.shed (h : Group) (e : Staged) : Group :=
  let shed (l : List Pend) : List Pend :=
    (l.map fun p => { p with behind := p.behind.filter (· ≠ e) }).filter fun p => p.st ≠ .passed || !p.behind.isEmpty
  { h with pend := shed h.pend, aside := shed h.aside }

/-- Every release point before the operation is performed at its scope, as an arrival needs (R139). -/
def Block.releasesMet (b : Block) (gid : Nat) (g : Group) (ser : Nat) : Bool :=
  (g.outstanding ++ g.aside).all fun a => !(a.ser < ser && a.isRelease && a.st ≠ .passed && !b.stored gid a)

/-- Every acquire point is performed, as a clause fetch needs (R254). -/
def Group.acquiresMet (g : Group) : Bool := g.outstanding.all fun a => !(a.isAcquire && a.st ≠ .passed)

/-- The bytes of one lane's access: those of its translation, or of one made now. -/
def State.accRanges (s : State) (who : Who) (c : LaneAcc) : List (Nat × Nat) :=
  if c.pas.isEmpty then s.physRanges who [(c.va, c.len)] else c.pas.map fun a => (a, 1)

/-- Two lanes' accesses touch a common byte (R120). -/
def State.touches (s : State) (who : Who) (a c : LaneAcc) : Bool :=
  if a.pas.isEmpty || c.pas.isEmpty then rangesMeet (s.accRanges who a) (s.accRanges who c)
  else a.pas.any fun x => c.pas.contains x

/-- `a` precedes `p` on its path and touches a byte in common with it (R136), in a way that the staging reserve does
not already order. -/
def State.conflict (s : State) (g : GRef) (b : Block) (p a : Pend) : Bool :=
  a.ser < p.ser && a.path = p.path &&
    (a.accs.any fun c => p.accs.any fun d =>
      s.touches (s.whoGroup g) c d &&
        !(b.inReserve g.gid a.ser && ((p.body = .load && a.body = .store) || (d.staged && !s.isHead b))))

def State.conflictFree (s : State) (g : GRef) (b : Block) (h : Group) (p : Pend) : Bool :=
  h.outstanding.all fun a => !s.conflict g b p a

/-- The outstanding operations that stand on edges before `p`, directly or through a chain, out of a list in falling
program order. -/
def ancestorsIn (p : Pend) (l : List Pend) : List Pend :=
  l.foldl (fun acc a => if a.edge p || acc.any (fun c => a.edge c) then acc ++ [a] else acc) []

def Group.ancestors (g : Group) (p : Pend) : List Pend :=
  ancestorsIn p (g.outstanding.foldl (fun l a => insertPend a l) []).reverse

/-- A TLBI before the operation on its edges is not yet performed, so that translation waits for it (R253). -/
def Group.tlbiAhead (h : Group) (p : Pend) : Bool :=
  (h.ancestors p).any fun a => match a.body with | .tlbi _ _ _ _ => true | _ => false

/-- The class-7 operations that the Bridle and the front end execute whole. -/
def Body.isWhole : Body → Bool
  | .bridle _ _ => true
  | .sample _ _ => true
  | .emit _ _ _ => true
  | _ => false

/-- Held (R151): an edge-predecessor, directly or through a chain, is faulted. -/
def Group.isHeld (g : Group) (p : Pend) : Bool := (g.ancestors p).any fun a => a.st = .faulted

/-! Bytes as a block's parties see them -/

/-- The bytes that a store brings, in ascending lane order (R150). -/
def Pend.storeCells (p : Pend) : List (Nat × Byte) := p.accs.flatMap fun c => c.pas.zip (leBytes c.len c.data)

/-- The operation of a group with a place in program order, set aside or not. -/
def Group.op? (g : Group) (ser : Nat) : Option Pend := (g.pend ++ g.aside).find? fun p => p.ser = ser

/-- Stores in the block's reserve, the latest first: its own parties see them (R403). -/
def State.reserveCells (s : State) (bid : Nat) : List (Nat × Byte) :=
  match s.block? bid with
  | none => []
  | some b =>
    (b.staged.flatMap fun e =>
      match (b.groups[e.gid]?).bind fun g => g.op? e.ser with
      | some p => if p.body = .store then p.storeCells else []
      | none => []).reverse

/-- Bytes as the groups and the sequencer of a block load them. -/
def State.seenBytes (s : State) (bid : Nat) (pas : List Nat) : List Byte :=
  let overlay := s.reserveCells bid
  pas.map fun a => (assocFind overlay a).getD (s.physByte a)

/-! Register results -/

/-- A variable-latency result reaches its registers: visible at once to the issuing slot, ANDed with OWN for EXEC
(R98, R194; log 14). -/
def Group.land (g : Group) (x : SlotId) (l : List (RegCell × Word)) : Group :=
  let g := g.modSlot x fun sl => { sl with shadows := sl.shadows.filter fun h => !(l.map Prod.fst).contains h.cell }
  g.setCells l

def State.land (s : State) (g : GRef) (x : SlotId) (l : List (RegCell × Word)) : State :=
  s.modGroup g fun h => h.land x l

/-! Loads, stores and atomics -/

/-- op(aop, old, b) of R238 at `n` bytes, FADD under R239. -/
def atomicOp (contract aop n old b : Nat) : Nat :=
  let w := 8 * n
  let f : FF := if n = 8 then .f64 else .f32
  match aop with
  | 0 => (old + b) % 2 ^ w
  | 1 => old &&& b
  | 2 => old ||| b
  | 3 => old ^^^ b
  | 4 => if sext old w ≤ sext b w then old else b
  | 5 => if sext old w ≤ sext b w then b else old
  | 6 => min old b
  | 7 => max old b
  | 8 => b
  | _ => f.enc .rne (vecFlush contract)
           (Val.sum [f.read (vecFlush contract) old, f.read (vecFlush contract) b])

/-- Bytes from which a piece is cut (R146): AS of a load or store, the datum of an atomic. -/
def Pend.unit (p : Pend) : Nat :=
  match p.body with
  | .atomic _ _ wide => if wide then 8 else 4
  | _ => match (WordM.ofWord p.iword).as with
    | 1 => 8
    | 2 => 16
    | _ => 4

/-- The byte is left: no piece with it has been read or written. -/
def Pend.left (p : Pend) (a : Nat) : Bool := (assocFind p.got a).isNone

/-- The bytes of a load: those that its pieces have read, and the rest as they are now. -/
def State.loadBytes (s : State) (bid : Nat) (got : List (Nat × Byte)) (pas : List Nat) : List Byte :=
  (pas.zip (s.seenBytes bid pas)).map fun q => (assocFind got q.1).getD q.2

/-- What the lanes of a load write. -/
def State.loadResult (s : State) (bid : Nat) (got : List (Nat × Byte)) (accs : List LaneAcc) : List (RegCell × Word) :=
  accs.flatMap fun c => c.dst.zip (wordsOf c.dst.length (leNat (s.loadBytes bid got c.pas)))

/-- One lane of an atomic (R238): memory, and the old value to its register. -/
def atomicLane (lid contract aop : Nat) (cas : Bool) (acc : State × List (RegCell × Word)) (c : LaneAcc) :
    State × List (RegCell × Word) :=
  let s := acc.1
  let old := s.physNum c.pas
  let res := acc.2 ++ c.dst.zip (wordsOf c.dst.length old)
  if cas && old ≠ c.cmp then (s, res)
  else
    let new := if cas then c.data else atomicOp contract aop c.len old c.data
    (s.writeFor [lid] (c.pas.zip (leBytes c.len new)), res)

def Launch.contractOf (l : Launch) : Nat := l.contract

/-- Performs what is left of the accesses `accs` of a load, store or atomic (R234, R238, R150). Consumed poison is fatal
(R452). -/
def State.performAccs (s : State) (g : GRef) (p : Pend) (accs : List LaneAcc) : State :=
  let lid := s.lidOf g.bid
  let contract := ((s.launchOf g.bid).map Launch.contract).getD 0
  match p.body with
  | .load =>
    if accs.any fun c => s.poisoned (c.pas.filter p.left) then s.kill lid 0x12
    else s.land g p.slot (s.loadResult g.bid p.got accs)
  | .store => s.writeFor [lid] (({ p with accs := accs }.storeCells).filter fun q => p.left q.1)
  | .atomic aop cas _ =>
    let accs := accs.filter fun c => c.pas.all p.left
    if accs.any fun c => s.poisoned c.pas then s.kill lid 0x12
    else
      let (t, res) := accs.foldl (atomicLane lid contract aop cas) (s, [])
      t.land g p.slot res
  | _ => s

/-- The part of an operation that acts when it is performed: all of it, or, away from the head block, what is not staged
(R401). -/
def State.directAccs (s : State) (b : Block) (p : Pend) : List LaneAcc :=
  if (p.accs.any LaneAcc.staged) && !s.isHead b then p.accs.filter fun c => !c.staged else p.accs

/-- Bytes that pieces of an operation have read or written. -/
def State.noteGot (s : State) (g : GRef) (ser : Nat) (l : List (Nat × Byte)) : State :=
  s.modGroup g fun h => { h with pend := mapWhere (fun q => q.ser = ser) (fun q => { q with got := q.got ++ l }) h.pend }

/-- The bytes of the piece that holds byte `k` (R146, R148): those of one lane in its aligned unit, with the lanes that touch
a byte in common, since they act in their order (R150). -/
def Pend.pieceOf (p : Pend) (accs : List LaneAcc) (k : Nat) : List Nat :=
  let lanes := (accs.map fun c => c.pas.filter fun a => a / p.unit = k / p.unit).filter fun l => !l.isEmpty
  (List.range p.unit).foldl (fun got _ => (got ++ (lanes.filter fun l => l.any got.contains).flatten).eraseDups) [k]

/-- A store to `pas` covers the poisoned word of byte `k` whole: its bytes there are stored together, which clears the
poison (R452). -/
def State.mends (s : State) (pas : List Nat) (k : Nat) : Bool :=
  s.poison.contains (s.eccWord k) && (span (s.eccWord k) (s.eccSize k)).all pas.contains

/-- Performs the piece of an operation that holds the byte `k` of physical memory (R146, R148, R150). A load's registers are
written when the last of its pieces has been read. -/
def State.performPiece (s : State) (g : GRef) (b : Block) (p : Pend) (k : Nat) : State :=
  let accs := s.directAccs b p
  let piece := p.pieceOf accs k
  match p.body with
  | .load =>
    let pas := ((accs.flatMap LaneAcc.pas).filter fun a => piece.contains a && p.left a).eraseDups
    if s.poisoned pas then s.kill b.lid 0x12 else s.noteGot g p.ser (pas.zip (s.seenBytes g.bid pas))
  | .store =>
    let all := { p with accs := accs }.storeCells
    let mends := s.mends (all.map Prod.fst) k
    let mine (a : Nat) : Bool := (piece.contains a || (mends && s.eccWord a = s.eccWord k)) && p.left a
    let cells := all.filter fun q => mine q.1
    (s.writeFor [b.lid] cells).noteGot g p.ser cells
  | .atomic _ _ _ =>
    let cs := accs.filter fun c => !c.pas.isEmpty && c.pas.all fun a => piece.contains a && p.left a
    (s.performAccs g p cs).noteGot g p.ser (cs.flatMap fun c => c.pas.map fun a => (a, 0))
  | _ => s

/-! Sharing groups -/

/-- SGJOIN (R261): the status word and the state. -/
def State.sgJoin (s : State) (bid : Nat) (req : Word) : State × Word :=
  let num := (req.extractLsb' 0 12).toNat
  let lid := s.lidOf bid
  let st (code slot : Nat) : Word := BitVec.ofNat 32 (code * 2 ^ 24 + slot)
  match s.sharingOf bid with
  | some r => (s, st 3 (((r.members.find? fun p => p.2 = bid).map Prod.fst).getD 0))
  | none =>
    let rec? := s.sharing.find? fun r => r.lid = lid && r.num = num
    let members := (rec?.map Sharing.members).getD []
    let want := if req.getLsbD 15 then lowest 8 fun k => (assocFind members k).isNone
      else some (req.extractLsb' 12 3).toNat
    if rec?.isNone && s.sharing.length ≥ 256 then (s, st 4 0)
    else if members.length = 8 then (s, st 1 0)
    else
      match want with
      | none => (s, st 1 0)
      | some k =>
        if (assocFind members k).isSome then (s, st 2 0)
        else
          let new : Sharing := ⟨lid, num, assocPut members k bid⟩
          let recs := if rec?.isNone then s.sharing ++ [new]
            else mapWhere (fun r => r.lid = lid && r.num = num) (fun _ => new) s.sharing
          let t : State := { s with sharing := recs }
          let t := members.foldl (fun t m =>
            t.modBlock m.2 fun b => { b with revoked := b.revoked.filter (· ≠ k) }) t
          (t.modBlock bid fun b => { b with revoked := [] }, st 0 k)

/-- SGQRY (R264). -/
def State.sgQuery (s : State) (bid : Nat) : Word :=
  match s.sharingOf bid with
  | none => 0
  | some r =>
    let slot := ((r.members.find? fun p => p.2 = bid).map Prod.fst).getD 0
    let map := r.members.foldl (fun a p => a + 2 ^ (24 + p.1)) 0
    BitVec.ofNat 32 (r.num + slot * 2 ^ 12 + 2 ^ 15 + map)

/-- A copy's chunk in progress, or a running reduction step, reaches a byte of which `hit` holds; `hit` has the block of its
group, the virtual address and the physical one. -/
def State.engineReaches (s : State) (hit : Nat → Nat → Nat → Bool) : Bool :=
  (s.copies.any fun c => c.st = .running && c.work.any fun w =>
      (w.src.any fun q => hit c.owner.bid q.1 q.2) || w.dst.any fun q => hit c.owner.bid ((c.dst + q.1) % 2 ^ 64) q.2)
    || s.comms.any fun m => m.steps.any fun t =>
      t.st = .running && t.dest.zipIdx.any fun q => hit t.owner.bid ((t.dst + q.2) % 2 ^ 64) q.1

/-- A block's share in physical memory. -/
def inShare (b : Block) (pa : Nat) : Bool := shareAddr b 0 ≤ pa && pa < shareAddr b 0 + b.shareLen

/-- An outstanding access, already translated through a window slot, that SGLEAVE of `bid` waits for (R262): by a
member through the leaver's slot, or by the leaver through any slot; a drain's, a copy's and a reduction step's included. -/
def State.crossesLeaver (s : State) (bid : Nat) : Bool :=
  match s.block? bid with
  | none => false
  | some me =>
    let window (va : Nat) : Bool := 0x7F1000000000 ≤ va && va < 0x7F1004000000
    let hit (o va pa : Nat) : Bool :=
      window va && s.lidOf o = me.lid && (s.block? o).isSome && (o = bid || inShare me pa)
    s.engineReaches hit || (List.range s.blocks.length).any fun o => (s.block? o).any fun b => b.lid = me.lid &&
      ((b.groups.any fun g => g.outstanding.any fun p => p.accs.any fun c =>
          window c.va && !c.pas.isEmpty && (o = bid || c.pas.any (inShare me)))
        || b.seqr.any fun q => q.drains.any fun d => d.dest.any fun x => hit o x.1 x.2)

/-- An access of another block, already translated, reaches the share, a drain's included, or one of a copy or of a running
reduction step: the TLBI of R60 waits for it (R253, R347), and the share of a block that has exited stays in use. -/
def State.shareInUse (s : State) (bid : Nat) (b : Block) : Bool :=
  s.engineReaches (fun o _ pa => o ≠ bid && inShare b pa) || s.blocks.zipIdx.any fun p =>
    p.2 ≠ bid &&
      ((p.1.groups.any fun h => (h.outstanding ++ h.aside).any fun o =>
          o.st ≠ .faulted && o.accs.any fun a => a.pas.any (inShare b))
        || p.1.seqr.any fun q => q.drains.any fun d => d.dest.any fun x => inShare b x.2)

/-! First-touch pages -/

/-- The pools of the nearest node on a launch's path to the root that has any (R448). -/
def State.poolsOf (s : State) (l : Launch) : List Nat :=
  ((s.pathOf l.rcb).findSome? fun r =>
    match (List.range s.pools.length).filter fun k => (s.pools[k]?).any fun p => p.rcb = r.addr with
    | [] => none
    | ks => some ks).getD []

/-- The lowest free aligned page of a pool (R448). -/
def Pool.page (p : Pool) (size : Nat) : Option Nat :=
  let first := roundUp p.base size
  (lowest ((p.base + p.size - first) / size) fun k =>
    let a := first + k * size
    p.taken.all fun t => a + size ≤ t.1 || t.1 + t.2 ≤ a).map fun k => first + k * size

/-- The lowest free page of that size in some pools, with the pool that has it. -/
def State.lowestPage (s : State) (size : Nat) : List Nat → Option (Nat × Nat)
  | [] => none
  | k :: r =>
    match (s.pools[k]?).bind fun p => p.page size, s.lowestPage size r with
    | none, x => x
    | some a, none => some (k, a)
    | some a, some x => some (if x.2 < a then x else (k, a))

/-- The entry that replaces a placeholder (R256). -/
def mappedEntry (e : DWord) (pa : Nat) : DWord :=
  (e &&& 0x03F000000000003C) ||| 0x43 ||| BitVec.ofNat 64 pa

/-- pfmap of R256 for a launch's address space: the state, the status and the page's address. The walk takes the low 48
bits of the address (DESIGN CHOICE, log 77). -/
def State.mapPage (s : State) (lid va : Nat) : State × Nat × Nat :=
  match s.launches[lid]? with
  | none => (s, 3, 0)
  | some l =>
    match s.walkTree l.asid va with
    | .leaf e _ _ => (s, 1, leafPA e)
    | .placeholder e ptr size =>
      match s.lowestPage size (s.poolsOf l) with
      | none => (s, 2, 0)
      | some (k, a) =>
        let t : State := { s with pools := s.pools.modify k fun p => { p with taken := p.taken ++ [(a, size)] } }
        let t := (t.zeroRange a size).storeNum ptr 8 (mappedEntry e a).toNat
        (t.modLaunch lid fun l => { l with mapped := l.mapped ++ [(a, size)] }, 0, a)
    | _ => (s, 3, 0)

/-- PFMAP's result pair. -/
def pfmapWord (status pa : Nat) : Nat := pa + status * 2 ^ 56

/-! TLBI -/

/-- An outstanding access, a drain's, the aperture's and those of a copy's chunk and of a running reduction step included,
that uses a translation which the TLBI removes (R253). -/
def State.tlbiBusy (s : State) (kind asid va : Nat) (core : Option Nat) : Bool :=
  let gone := s.tlb.filter fun t => !((s.invalidate kind asid va core).tlb.contains t)
  let used (asid va len : Nat) : Bool :=
    gone.any fun t => (t.asid = asid || t.global) && t.base < va + len && va < t.base + t.size
  let hit (bid va len : Nat) : Bool := used (s.asidOf bid) va len
  let here (bid : Nat) : Bool := core.isNone || core = (s.block? bid).map Block.core
  (core.isNone && s.vifs.any fun w => w.aperture.any fun k => used k.asid k.va k.pas.length)
    || s.engineReaches (fun bid va _ => here bid && hit bid va 1) || (List.range s.blocks.length).any fun bid =>
    here bid && (s.block? bid).any fun b =>
      (b.seqr.any fun q => q.drains.any fun d => d.dest.any fun p => hit bid p.1 1) ||
        b.groups.any fun g => (g.outstanding ++ g.aside).any fun p => p.st ≠ .faulted && p.accs.any fun c =>
          !c.pas.isEmpty && hit bid c.va c.len

/-! The ticket unit -/

/-- The chain record of a key, as the block's launch names it (R408). -/
def State.chainOf (s : State) (b : Block) (key : Word) : Option Chain :=
  s.chains.find? fun c => c.key = key && c.lid = b.lid && c.node = b.node

/-- The status with which a ticket instruction completes now, or none while it waits (R410, R411). -/
def State.ticketStatus (s : State) (b : Block) (op : TicketOp) (key : Word) : Option Nat :=
  match op, s.chainOf b key with
  | .beg, some _ => some 4
  | .beg, none => if s.chains.length < 256 then some 0 else none
  | .wait, some c =>
    if c.nxt = b.bseq then some (if c.implicit then 1 else 0) else if c.nxt > b.bseq then some 3 else none
  | .wait, none =>
    if (List.range b.bseq).all fun q => (s.blockAt b.lid b.node q).any fun o => o.place = .exited then some 2 else none
  | _, some c => some (if c.nxt = b.bseq then 0 else 5)
  | _, none => some 5

/-- The effect of a ticket instruction that completes with OK. -/
def State.ticketEffect (s : State) (b : Block) (op : TicketOp) (key : Word) : State :=
  let mine (c : Chain) : Bool := c.key = key && c.lid = b.lid && c.node = b.node
  match op with
  | .beg => State.settleChains { s with chains := s.chains ++ [⟨key, b.lid, b.node, b.bseq, false⟩] }
  | .wait => s
  | .pass => State.settleChains { s with
      chains := mapWhere mine (fun c => { c with nxt := b.bseq + 1, implicit := false }) s.chains }
  | .fin => { s with chains := s.chains.filter fun c => !mine c }

/-! Performing one operation -/

/-- A staged access of which `which` holds touches one of these bytes: it is earlier in the coherence order than what is
stored directly from then on, so that its release comes first (R141, R405). -/
def Block.reserveTouches (b : Block) (which : Staged → Bool) (pas : List Nat) : Bool :=
  b.staged.any fun e => which e && ((b.groups[e.gid]?).bind fun h => h.op? e.ser).any fun p =>
    p.accs.any fun c => c.pas.any pas.contains

/-- What else an operation needs, beside its edges and same-byte order, before it is performed. Copies, steps and the
class-7 operations that the walk event performs end by their own events. -/
def State.ready (s : State) (g : GRef) (b : Block) (h : Group) (p : Pend) : Bool :=
  match p.body with
  | .arrive _ _ => b.releasesMet g.gid h p.ser
  | .tlbi kind asid va dev => !s.tlbiBusy kind asid va (if dev then none else some b.core)
  | .sgDrain bid => !s.crossesLeaver bid
  | .ticket op key _ => (s.ticketStatus b op key).isSome
  | .bridle _ _ => false
  | .sample _ _ => false
  | .emit _ _ _ => false
  | .copy _ => false
  | .step _ _ => false
  | _ =>
    !b.inReserve g.gid p.ser
      && !(p.body.writes && b.reserveTouches (fun e => e.gid ≠ g.gid) (p.accs.flatMap LaneAcc.pas) && s.isHead b)

/-- An earlier operation of the group has yet to enter the staging reserve, which they enter in program order (R402); what
a fault holds back is passed over (DESIGN CHOICE, log 82). -/
def State.stagesLate (s : State) (g : GRef) (b : Block) (h : Group) (p : Pend) : Bool :=
  p.willStage && ((s.launches[b.lid]?).any fun l => l.detOf b) && !s.isHead b &&
    h.outstanding.any fun a =>
      a.ser < p.ser && a.st = .waiting && a.willStage && !b.inReserve g.gid a.ser && !h.isHeld a

/-- The operation may be performed now. -/
def State.performable (s : State) (g : GRef) (p : Pend) : Bool :=
  match s.block? g.bid with
  | none => false
  | some b =>
    match b.groups[g.gid]? with
    | none => false
    | some h =>
      p.st = .waiting && b.edgesMet g.gid h p && s.conflictFree g b h p && s.ready g b h p && !s.stagesLate g b h p

/-- Puts the operation's staged part into the reserve, when its block is not the head (R401, R402). -/
def State.toReserve (s : State) (g : GRef) (p : Pend) : State :=
  let s := s.modGroup g fun h => { h with
    pend := mapWhere (fun q => q.ser = p.ser) (fun q => { q with accs := q.accs.filter LaneAcc.staged, got := [] }) h.pend }
  s.modBlock g.bid fun b => { b with staged := b.staged ++ [⟨g.gid, p.ser⟩] }

/-- Performs an operation that may be performed (R124). -/
def State.perform (s : State) (g : GRef) (p : Pend) : State :=
  match s.block? g.bid with
  | none => s
  | some b =>
    match p.body with
    | .sgJoin d req =>
      let (t, w) := s.sgJoin g.bid req
      (t.land g p.slot [(d, w)]).endOp g p
    | .sgLeave d =>
      if (s.sharingOf g.bid).isNone then (s.land g p.slot [(d, 0x05000000)]).endOp g p
      else
        let t := (s.leaveSharing g.bid).land g p.slot [(d, 0)]
        t.modGroup g fun h => { h with
          pend := mapWhere (fun q => q.ser = p.ser) (fun q => { q with body := .sgDrain g.bid }) h.pend }
    | .sgQuery d => (s.land g p.slot [(d, s.sgQuery g.bid)]).endOp g p
    | .pfmap d0 d1 va =>
      let (t, st, pa) := s.mapPage b.lid va
      (t.land g p.slot ([d0, d1].zip (wordsOf 2 (pfmapWord st pa)))).endOp g p
    | .tlbi kind asid va dev => (s.invalidate kind asid va (if dev then none else some b.core)).endOp g p
    | .arrive bar count => (s.modBlock g.bid fun b => b.arrive bar (some count)).endOp g p
    | .ticket op key d =>
      match s.ticketStatus b op key with
      | none => s
      | some st =>
        let t := if st = 0 then s.ticketEffect b op key else s
        (t.land g p.slot [(d, BitVec.ofNat 32 st)]).endOp g p
    | _ =>
      if (p.accs.any LaneAcc.staged) && !s.isHead b then
        (s.performAccs g p (s.directAccs b p)).toReserve g p
      else (s.performAccs g p p.accs).endOp g p

/-- Releases one access of the reserve (R402): it is performed as though it issued now, and the chains behind it end. -/
def State.releaseStaged (s : State) (bid : Nat) (e : Staged) : State :=
  let g : GRef := ⟨bid, e.gid⟩
  let s := s.modBlock bid fun b => { b with staged := b.staged.filter (· ≠ e) }
  match (s.group? g).bind fun h => h.op? e.ser with
  | none => s
  | some p =>
    let lid := s.lidOf bid
    let t := (s.performAccs g p p.accs).dropOp g e.ser
    (t.modBlock bid fun b => { b with groups := b.groups.map fun h => h.shed e }).settleGrid lid

/-! Drains -/

/-- An operation that keeps running while its group is in a handler (R152). -/
def Pend.isCopy (p : Pend) : Bool :=
  match p.body with
  | .copy _ => true
  | _ => false

/-- The operation ends by events of its own: it stays as it is (R56, R421). -/
def Pend.stays (p : Pend) : Bool :=
  match p.body with
  | .copy _ => true
  | .step _ _ => true
  | _ => false

/-- What a drain leaves of an operation (R56, R151, R152): held, to be translated again when it issues on its own edges; a
faulted one and what the staging reserve has stay as they are. -/
def Pend.heldUnless (staged : Nat → Bool) (p : Pend) : Pend :=
  if p.st = .waiting && !p.stays && !staged p.ser then
    { p with st := .held, accs := p.accs.map fun a => { a with pas := [] } }
  else p

/-- The waits that a trap, a swap or a pre-emption abandons (R220): the operation of a TKBEG or TKWAIT issues again. -/
def Slot.abandoned (sl : Slot) : Option Nat :=
  match sl.st with
  | .atEvent (.ticket ser) => some ser
  | _ => none

/-- A slot whose wait is abandoned runs again at the waiting instruction; what has not completed its issue issues again
(R217, R220). -/
def Slot.abandon (sl : Slot) : Slot :=
  let sl := sl.settle
  { sl with
    st := match sl.st with
      | .atEvent _ => .running
      | st => st
    walk := none
    hold := none }

/-- The operations of the waits that are abandoned issue again. -/
def Group.dropTickets (h : Group) : Group :=
  let gone := h.slotA.abandoned.toList ++ h.slotB.abandoned.toList
  { h with pend := h.pend.filter fun p => !gone.contains p.ser }

/-- Stops the waits and the walks of a group. -/
def Group.abandonWaits (h : Group) : Group :=
  { h.dropTickets with
    slotA := h.slotA.abandon
    slotB := h.slotB.abandon }

end Sys2Proof.Machine
end

