-- ==== Sys2Proof/Machine/Whole.lean ====
section
/-!
DEFINITION. The class-7 operations that have their whole effect at once: the Bridle's (R386 to R393), SAMPLE and SARGMX
(R395 to R398), NEMIT (R437, R438).
-/
namespace Sys2Proof.Machine

/-- The slot that issues, with its group, block and launch. -/
structure Ctx where
  g : GRef
  x : SlotId
  l : Launch
  b : Block
  h : Group
  deriving DecidableEq, Repr

def Ctx.sl (c : Ctx) : Slot := c.h.slot c.x

/-- The context of slot x of group g. -/
def State.ctxOf (s : State) (g : GRef) (x : SlotId) : Option Ctx :=
  match s.block? g.bid with
  | none => none
  | some b =>
    match b.groups[g.gid]?, s.launches[b.lid]? with
    | some h, some l => some ⟨g, x, l, b, h⟩
    | _, _ => none

/-- A fault of one lane. -/
structure LaneFault where
  fault : AFault
  lanes : Lanes
  va : Nat
  deriving DecidableEq, Repr

/-- The fault that an instruction takes of those its lanes raise (R231, R255): the first in order, with every lane that
raised it; a placeholder beside an absent page parks. -/
def takeFault : List LaneFault → Option LaneFault
  | [] => none
  | f :: r =>
    let all := f :: r
    let rank := (all.map fun x => x.fault.rank).foldl min f.fault.rank
    let same := all.filter fun x => x.fault.rank = rank
    let lanes := same.foldl (fun m x => m ||| x.lanes) 0
    let low := lowLane lanes
    let va := ((same.find? fun x => x.lanes.getLsbD low).map LaneFault.va).getD f.va
    let kind := if same.any fun x => x.fault = .absent then AFault.absent
      else ((same.head?).map LaneFault.fault).getD f.fault
    some ⟨kind, lanes, va⟩

/-- Bytes of a logit. -/
def SampleDesc.width (d : SampleDesc) : Nat := if d.bf then 2 else 4

/-! The choice of a token -/

/-- x < y of values that are no NaN; the zeros are equal. -/
def Val.less (x y : Val) : Bool := x.below y && !(x.isZero && y.isZero)

/-- A legal token whose logit is no NaN. -/
structure Choice where
  tok : Nat
  logit : Val
  deriving DecidableEq, Repr

/-- The legal token of greatest logit, the lowest one among equals: amax of R396. -/
def argMax : List Choice → Option Choice
  | [] => none
  | c :: r => some (r.foldl (fun b x => if b.logit.less x.logit then x else b) c)

/-- The quotient of y in last places and x, rounded to f32. -/
def quotientF32 (fl : Bool) (y : Int) (x : Dy) : Nat :=
  match quotient ⟨y, -fxPlaces⟩ x with
  | .exact v => FF.f32.enc .rne fl (.fin v)
  | .between v _ => FF.f32.enc .rne fl (.fin v)

/-- c of R396 as an f32 encoding: log2(e) / T = 1 / (T ln 2), rounded from both ends of an enclosure; where they round
apart the encoding is free (log 11). -/
def scaleOf (contract temp : Nat) (t : Val) : Nat :=
  match t with
  | .fin x =>
    let l : Int := (fxOne * fxOne / fxLn2 : Nat)
    let lo := quotientF32 (vecFlush contract) (l - fxSlack) x
    if quotientF32 (vecFlush contract) (l + fxSlack) x = lo then lo
    else Config.undecided 10 23 0 contract temp 0 % 2 ^ 32
  | _ => 0

/-- w(i) of R396 in units of 2^-149. -/
def weightOf (contract : Nat) (c m : Val) (logit : Val) : Nat :=
  match m, logit with
  | .inf true, _ => 0
  | _, .inf true => 0
  | _, _ =>
    let d := logit.dy.sub m.dy
    let z := if d.isZero then 0 else FF.f32.enc .rne (vecFlush contract) (Val.mul (Val.ofDy d false) c)
    ((FF.f32.value (fnElement .ex2 false .f32 .rne contract z 0).enc).dy).quo (-149)

/-- Weights in falling order, the lower token first among equals. -/
def insertWeight (p : Nat × Nat) : List (Nat × Nat) → List (Nat × Nat)
  | [] => [p]
  | q :: r => if q.2 < p.2 then p :: q :: r else q :: insertWeight p r

/-- The first k of a list in that order, back in token order. -/
def topOf (k : Nat) (l : List (Nat × Nat)) : List (Nat × Nat) :=
  if k = 0 || k ≥ l.length then l
  else
    let keep := ((l.foldl (fun acc p => insertWeight p acc) []).take k).map Prod.fst
    l.filter fun p => keep.contains p.1

/-- The first token at which the running sum exceeds S · dr / 2^32. -/
def firstPast (s dr : Nat) : Nat → List (Nat × Nat) → Nat
  | _, [] => 0xFFFFFFFF
  | acc, (t, w) :: r => if (acc + w) * 2 ^ 32 > s * dr then t else firstPast s dr (acc + w) r

/-- What one lane of SAMPLE or SARGMX gives. -/
structure Sampled where
  token : Nat
  drew : Bool
  flags : Nat
  deriving DecidableEq, Repr

/-- sample(j) of R396, and amax for SARGMX (R397), from the tokens of the mask with their encodings. -/
def sampleRow (d : SampleDesc) (contract lane counter : Nat) (legal : List (Nat × Nat)) : Sampled :=
  let fl := vecFlush contract
  let f : FF := if d.bf then .bf16 else .f32
  let vals := legal.map fun p => (⟨p.1, f.read fl p.2⟩ : Choice)
  let nan := if vals.any fun v => v.logit.isNan then gsNANL else 0
  let L := vals.filter fun v => !v.logit.isNan
  match argMax L with
  | none => ⟨0xFFFFFFFF, false, nan ||| gsTKNIL⟩
  | some top =>
    let t := FF.f32.read fl d.temp
    let plain := !d.draws || d.topk = 1 || t.isNan || t.isZero || t.isNeg || top.logit = .inf false
    let cEnc := if plain then 0 else scaleOf contract d.temp t
    let c := FF.f32.value cEnc
    if plain || c.isInf then ⟨top.tok, false, nan⟩
    else
      let ws := L.map fun v => (v.tok, weightOf contract c top.logit v.logit)
      let K := topOf d.topk ws
      let s := (K.map Prod.snd).sum
      let dr := rngMix d.key ((d.sbase + lane) % 2 ^ 32) counter
      let wrap := if counter = 2 ^ 32 - 1 then gsRNGWRAP else 0
      if s = 0 then ⟨((L.head?).map Choice.tok).getD 0, true, nan ||| wrap ||| gsSDEGEN⟩
      else ⟨firstPast s dr 0 K, true, nan ||| wrap⟩

/-! The whole effect (R393) -/

/-- What a class-7 operation does at the end of its walk: it waits, faults without effect, or has its whole effect,
with a trap to be taken after it. -/
inductive WholeOut
  | wait
  | fault (k : AFault) (lanes : Lanes) (va : Nat)
  | ok (s : State) (after : Option (Nat × Lanes))
  deriving DecidableEq, Repr

/-- Runs a lane after another; a lane that faults changes nothing (R393). -/
def runLanes {α β : Type} (laneOf : α → Nat) (f : α → MemM β) : List α → State →
    State × List LaneFault × List (α × β)
  | [], s => (s, [], [])
  | a :: r, s =>
    match f a s with
    | .ok (v, t) =>
      let (u, fs, vs) := runLanes laneOf f r t
      (u, fs, (a, v) :: vs)
    | .error e =>
      let (u, fs, vs) := runLanes laneOf f r s
      (u, ⟨e.fault, lanesOf (· = laneOf a), e.va⟩ :: fs, vs)

/-- An address that lacks its alignment, and one beyond 48 bits, whether or not it comes to be accessed (R387). -/
def aligned (n va : Nat) : MemM Unit := if va % n = 0 then pure () else throw ⟨.misal, va⟩
def canonical (va : Nat) : MemM Unit := if va < 2 ^ 48 then pure () else throw ⟨.prot, va⟩

/-- Of the faults of two accesses of one lane the first in the order of R231, the first access's among equals. -/
def SpanFault.first (f : SpanFault) : Option SpanFault → SpanFault
  | some x => if x.fault.rank < f.fault.rank then x else f
  | none => f

/-- Two accesses that a lane makes in any case. -/
def bothAccesses {α β : Type} (a : MemM α) (b : MemM β) : MemM (α × β) := fun s =>
  match a s with
  | .error f => .error (f.first (match b s with | .error x => some x | .ok _ => none))
  | .ok (x, t) =>
    match b t with
    | .error f => .error f
    | .ok (y, u) => .ok ((x, y), u)

/-- A lane with the store that it makes in any case: where something else of it faults, that of TMMASK to its mask, of 64 bytes
at least, and that of TMSAVE to its record count too (R231). -/
def withStore {α : Type} (who : Who) (op : BridleOp) (l : BridleLane) (a : MemM α) : MemM α := fun s =>
  match a s with
  | .ok x => .ok x
  | .error f =>
    let store (va len : Nat) : Option SpanFault := (s.translateSpan who .store none false va len).getLeft?
    .error (f.first (match op with
      | .mask _ => store l.arg 64
      | .save _ => store l.record 256
      | _ => none))

/-- The five operations on records (R387 to R391, R398). -/
def State.runBridle (s : State) (c : Ctx) (p : Pend) (op : BridleOp) (lanes : List BridleLane) : WholeOut :=
  let who := s.whoGroup c.g
  let one (l : BridleLane) : MemM Nat := do
    aligned 256 l.record
    match op with
    | .mask _ => do
      aligned 64 l.arg
      canonical l.arg
    | _ => pure ()
    withStore who op l (bridleLane who c.g c.b.lid op (128 * s.fresh + l.lane) l.record l.arg)
  let (t, faults, res) := runLanes BridleLane.lane one lanes s
  match takeFault faults with
  | some f => .fault f.fault f.lanes f.va
  | none =>
    let t := t.land c.g p.slot (res.map fun r => (r.1.dst, BitVec.ofNat 32 r.2))
    let bad := if op = .step then lanesFrom ((res.filter fun r => 1 ≤ r.2 % 16 && r.2 % 16 ≤ 3).map fun r => r.1.lane) else 0
    if bad = 0 then .ok t none
    else
      .ok (t.modGroup c.g fun h => h.raise gsTMILL)
        (if bitOf c.h.enables 9 then some (trapTMILL, bad) else none)

/-- Reads bytes with the stamp check, and whether a mismatch proceeded (R186, R187). -/
def memLoadMixed (who : Who) (contract : Nat) (miss : Bool) (va len : Nat) : MemM (List Byte × Bool) := fun s =>
  match s.translateSpan who .load (some contract) miss va len with
  | .inl f => .error f
  | .inr sp =>
    if s.poisoned sp.pas then .error ⟨.ecc, va⟩
    else .ok ((s.physBytes sp.pas, sp.mism), s.useTrans who false sp.uses)

/-- One lane of SAMPLE or SARGMX: it reads its mask row and its row of logits whole. -/
def sampleLane (who : Who) (contract : Nat) (miss : Bool) (d : SampleDesc) (l : SampleLane) : MemM (Sampled × Bool) := do
  let sz := maskSize d.vocab
  let (ms, ls, mism) ← bothAccesses (memLoad who none false ((d.msk + l.lane * sz) % 2 ^ 64) sz)
    (memLoadMixed who contract miss ((d.log + l.lane * d.lstr) % 2 ^ 64) (d.vocab * d.width))
  let m := leNat ms
  let legal := ((List.range d.vocab).filter fun i => bitOf m i).map fun i => (i, fieldOf ls (d.width * i) d.width)
  return (sampleRow d contract l.lane l.counter legal, mism)

/-- SAMPLE and SARGMX (R395 to R398). -/
def State.runSample (s : State) (c : Ctx) (p : Pend) (d : SampleDesc) (lanes : List SampleLane) : WholeOut :=
  let first := lowLane p.mask
  if d.log % d.width ≠ 0 then .fault .misal p.mask ((d.log + first * d.lstr) % 2 ^ 64)
  else if d.msk % 64 ≠ 0 then .fault .misal p.mask ((d.msk + first * maskSize d.vocab) % 2 ^ 64)
  else
    let who := s.whoGroup c.g
    let (t, faults, res) := runLanes SampleLane.lane (sampleLane who c.l.contract c.h.miss d) lanes s
    match takeFault faults with
    | some f => .fault f.fault f.lanes f.va
    | none =>
      let writes := res.flatMap fun r =>
        (r.1.dst, BitVec.ofNat 32 r.2.1.token) ::
          (if r.2.1.drew then [(r.1.ctr, BitVec.ofNat 32 (r.1.counter + 1))] else [])
      let flags := res.foldl (fun a r => a ||| r.2.1.flags ||| (if r.2.2 then gsCMIXS else 0)) 0
      let with_ (bit : Nat) : Lanes := lanesFrom ((res.filter fun r => r.2.1.flags &&& bit ≠ 0).map fun r => r.1.lane)
      let t := (t.land c.g p.slot writes).modGroup c.g fun h => h.raise flags
      let after :=
        if with_ gsTKNIL ≠ 0 && bitOf c.h.enables 8 then some (trapTKNIL, with_ gsTKNIL)
        else if with_ gsRNGWRAP ≠ 0 && bitOf c.h.enables 10 then some (trapRNGWRAP, with_ gsRNGWRAP)
        else none
      .ok t after

/-! Work graphs -/

/-- Segments of a node that hold nothing: no open or waiting batch, no block that has not exited (R438). -/
def State.freeSegments (s : State) (lid node : Nat) (n : Node) (g : Gather) : List Nat :=
  let used := (g.current.map Batch.segment).toList ++ g.closed.map (fun p => p.2.segment)
    ++ ((s.blocks.filter fun b => b.lid = lid && b.node = some node && b.place ≠ .exited && b.place ≠ .gone).map Block.segment)
  (List.range (n.cap / 96)).filter fun k => !used.contains k

/-- The node can place `c` records (R438). -/
def State.canPlace (s : State) (lid node c : Nat) : Bool :=
  match (s.launches[lid]?).bind fun l => (l.nodes[node]?).bind fun n => (l.gathers[node]?).map fun g => (n, g) with
  | none => false
  | some (n, g) =>
    let room := (g.current.map fun b => 96 - b.recs.length).getD 0
    c ≤ room + 96 * (s.freeSegments lid node n g).length

/-- Appends one record to a node's gather order; a batch of 96 closes (R438). -/
def State.placeRecord (s : State) (lid node : Nat) (rec_ : List Byte) : State :=
  match (s.launches[lid]?).bind fun l => (l.nodes[node]?).bind fun n => (l.gathers[node]?).map fun g => (n, g) with
  | none => s
  | some (n, g) =>
    let open_ : Batch := g.current.getD ⟨((s.freeSegments lid node n g).head?).getD 0, [], s.time⟩
    let b : Batch := { open_ with recs := open_.recs ++ [rec_] }
    let s := s.modLaunch lid fun l => { l with gathers := l.gathers.set node { g with current := some b } }
    if b.recs.length ≥ 96 then s.closeBatch lid node else s

/-- nemit of R437 at the end of its walk. -/
def State.runEmit (s : State) (c : Ctx) (p : Pend) (node : Nat) (d : RegCell) (recs : List (Nat × Nat)) : WholeOut :=
  match c.l.nodes[node]? with
  | none => .ok (s.land c.g p.slot [(d, 1)]) none
  | some n =>
    let who := s.whoGroup c.g
    let one (r : Nat × Nat) : MemM (List Byte) := do
      aligned 8 r.2
      memLoad who none false r.2 n.rsz
    let (t, faults, res) := runLanes Prod.fst one recs s
    match takeFault faults with
    | some f => .fault f.fault f.lanes f.va
    | none =>
      if !s.canPlace c.b.lid node recs.length then .wait
      else
        let t := res.foldl (fun t r => t.placeRecord c.b.lid node r.2) t
        let t := if t.rootDone c.b.lid then t.closeBatch c.b.lid node else t
        .ok (t.land c.g p.slot [(d, BitVec.ofNat 32 (recs.length * 2 ^ 16))]) none

/-! Operations that have their whole effect at the end of their walk -/

/-- The whole effect of such an operation. -/
def State.runWhole (s : State) (c : Ctx) (p : Pend) : WholeOut :=
  match p.body with
  | .bridle op lanes => s.runBridle c p op lanes
  | .sample d lanes => s.runSample c p d lanes
  | .emit node d recs => s.runEmit c p node d recs
  | _ => .wait

/-- It may act: its edge-predecessors are performed, no earlier access of its path that it may meet is outstanding, no
TLBI stands before it (R136, R253, R383). -/
def State.wholeReady (s : State) (c : Ctx) (p : Pend) : Bool :=
  c.b.edgesMet c.g.gid c.h p && !c.h.tlbiAhead p && s.conflictFree c.g c.b c.h p
    && (p.path ≠ .p4 || c.h.outstanding.all fun a => !(a.path = .p4 && a.ser < p.ser))

end Sys2Proof.Machine
end

