-- ==== Sys2Proof/Machine/Walk.lean ====
section
/-!
DEFINITION. The walk of an operation's lanes (R230, R231, R247, R249), parking (R54), the slot after an instruction (R82),
and what becomes of a group's issued operations when it stops for a trap, a swap or a pre-emption (R56, R152, R155, R217).
-/
namespace Sys2Proof.Machine

/-- Fields of an operation's own word. -/
def Pend.op (p : Pend) : BitVec 10 := p.iword.extractLsb' 54 10
def Pend.stl (p : Pend) : BitVec 4 := p.iword.extractLsb' 50 4

/-- What an operation needs of a page (R248). -/
def Body.need : Body → Need
  | .store => .store
  | .atomic _ _ _ => .atomic
  | _ => .load

/-- The access is checked against the stamp of its page (R184). -/
def Body.stampChecked : Body → Bool
  | .load => true
  | .store => true
  | .atomic aop cas _ => aop = 9 && !cas
  | _ => false

/-- The outcome of checking and translating every lane. -/
inductive WalkOut
  | fault (k : AFault) (lanes : Lanes) (va : Nat)
  | ok (s : State) (accs : List LaneAcc) (mism : Bool)

/-- The lanes that an access stands for. -/
def LaneAcc.lanes (a : LaneAcc) (mask : Lanes) : Lanes := if a.lane ≥ 96 then mask else lanesOf (· = a.lane)

/-- One lane's translation, or its fault. -/
def State.walkAcc (s : State) (who : Who) (p : Pend) (contract : Nat) (miss : Bool) (a : LaneAcc) :
    LaneFault ⊕ Span :=
  if a.misal then .inl ⟨.misal, a.lanes p.mask, a.va⟩
  else
    match s.translateSpan who p.body.need (if p.body.stampChecked then some contract else none) miss a.va a.len with
    | .inl f => .inl ⟨f.fault, a.lanes p.mask, f.va⟩
    | .inr sp => .inr sp

/-- Every lane of an operation checked and translated (R230, R231, R249): a compare-and-swap that will fail and write nothing
sets D like one that succeeds (DESIGN CHOICE, log 78). -/
def State.walkLanes (s : State) (c : Ctx) (p : Pend) : WalkOut :=
  let rs := p.accs.map fun a => (a, s.walkAcc (s.whoLane c.g a.lane) p c.l.contract c.h.miss a)
  let faults := rs.filterMap fun r => match r.2 with | .inl f => some f | .inr _ => none
  match takeFault faults with
  | some f => .fault f.fault f.lanes f.va
  | none =>
    let spans := rs.filterMap fun r => match r.2 with | .inl _ => none | .inr sp => some (r.1, sp)
    let stages := c.l.detOf c.b && p.body.writes
    let t := spans.foldl (fun t r =>
      t.useTrans (s.whoLane c.g r.1.lane) p.body.writes r.2.uses) s
    .ok t (spans.map fun r => { r.1 with pas := r.2.pas, staged := stages && !unstagedWindow r.1.va })
      (spans.any fun r => r.2.mism)

/-- FKIND of a parked access (R448). -/
def Body.kind : Body → Nat
  | .store => 1
  | .atomic _ _ _ => 1
  | .bridle _ _ => 5
  | .sample _ _ => 5
  | _ => 0

/-! The end of an instruction -/

/-- One step of sig_update with the bit `b` (R82). -/
def sigBit (s : BitVec 16) (b : Bool) : BitVec 16 :=
  if s.getLsbD 15 != b then (s <<< 1) ^^^ 0x1021 else s <<< 1

/-- sig_update of R82. -/
def sigUpdate (s : BitVec 16) (op : BitVec 10) (j : Bool) : BitVec 16 :=
  let w : BitVec 11 := op ++ (if j then 1#1 else 0#1)
  (List.range 11).foldl (fun s i => sigBit s (w.getLsbD (10 - i))) s

/-- What the end of an instruction needs to know of it: its opcode, STL, j of R82, and the path's next PC. -/
structure Retire where
  op : BitVec 10
  stl : BitVec 4
  j : Bool
  next : DWord
  /-- SIGSET's value, in place of the update (R225). -/
  sig : Option (BitVec 16) := none
  deriving DecidableEq, Repr

/-- The slot after an instruction has issued (R82, R99), and whether its clause has ended. -/
def Slot.retire (sl : Slot) (r : Retire) : Slot × Bool :=
  let sig := r.sig.getD (sigUpdate sl.sig r.op r.j)
  match sl.clause with
  | none =>
    ({ sl.settle with pc := r.next, sig := sig, arrived := none, st := .running, resumed := false, hold := none }, true)
  | some c =>
    if c.pos + 1 < c.words.length then
      ({ sl with pc := r.next, sig := sig, arrived := none, st := .running, resumed := false, hold := none,
                 clock := sl.clock + r.stl.toNat + 1, clause := some { c with pos := c.pos + 1 } }, false)
    else
      ({ sl.settle with pc := r.next, sig := sig, arrived := none, st := .running, resumed := false, hold := none,
                        clause := none }, true)

/-! Parking -/

/-- Reports a parked fault of a group's access (R259, R448). -/
def State.reportGroup (s : State) (g : GRef) (va kind : Nat) : State :=
  let w := s.whoGroup g
  s.report (faultRec va w.asid kind w.core (((s.launchOf g.bid).map Launch.lpb).getD 0))

/-- The slot parks (R54, R232). -/
def State.park (s : State) (g : GRef) (x : SlotId) (why : ParkWhy) (va kind : Nat) : State :=
  (s.modSlot g x fun sl => { sl with park := some ⟨why, va, s.time⟩ }).reportGroup g va kind

/-! Drains -/

/-- The operation has yet to be translated: it was held while its group did not run (R62, R153). -/
def Pend.unmapped (p : Pend) : Bool := p.body.isWhole || p.accs.any fun c => c.pas.isEmpty

/-- The lanes of an operation as they have been translated. -/
def State.mapOp (s : State) (g : GRef) (ser : Nat) (accs : List LaneAcc) (mism : Bool) : State :=
  s.modGroup g fun h =>
    { h.raise (if mism then gsCMIXS else 0) with
      pend := mapWhere (fun q => q.ser = ser) (fun q => { q with accs := accs, st := .waiting }) h.pend }

/-- The operation is a faulted access now, and its slot parks (R151, R232, R476). -/
def State.parkOp (s : State) (g : GRef) (p : Pend) (va : Nat) : State :=
  (s.modGroup g fun h => { h with
    pend := mapWhere (fun q => q.ser = p.ser) (fun q => { q with st := .faulted }) h.pend }).park g p.slot
      (.access p.ser) va p.body.kind

/-- A class-7 operation that is outstanding has its effect, or parks, if it may act now. -/
def State.drainWhole (s : State) (c : Ctx) (q : Pend) : State :=
  if q.st = .waiting && s.wholeReady c q then
    match s.runWhole c q with
    | .ok t _ => t.dropOp c.g q.ser
    | .fault .absent _ va => s.parkOp c.g q va
    | .fault .ecc _ _ => s.killGroup c.g 0x12
    | _ => s
  else s

/-- Performs one operation, translated first if need be; one whose translation faults stays: faulted when the fault
parks. -/
def State.drainOp (s : State) (g : GRef) (q : Pend) : State :=
  match s.ctxOf g q.slot with
  | none => s
  | some c =>
    if q.body.isWhole then s.drainWhole c q
    else if !s.performable g q then s
    else if !q.unmapped then s.perform g q
    else
      match s.walkLanes c q with
      | .fault .absent _ va => s.parkOp g q va
      | .fault _ _ _ => s
      | .ok t accs mism => (t.mapOp g q.ser accs mism).perform g { q with accs := accs }

/-- Performs what can be performed of a group's operations, in program order; copies, steps and what waits stays. -/
def State.drainOps (s : State) (g : GRef) : State :=
  match s.group? g with
  | none => s
  | some h =>
    h.pend.foldl (fun s p =>
      match (s.group? g).bind fun k => k.pend.find? fun q => q.ser = p.ser with
      | none => s
      | some q => s.drainOp g q) s

/-- What the end of an issued operation needs to know of it. -/
def Ctx.retire (c : Ctx) (p : Pend) : Retire := ⟨p.op, p.stl, false, c.sl.pc + 8, none⟩

/-- The issued operation `p` of the slot has completed its issue when its group stops (R217): the slot's PC is past it, and
it is outstanding, as `q`, or done. A signature that does not match is fatal (R82). -/
def State.pastIssue (s : State) (c : Ctx) (p : Pend) (q : Option Pend) (mism : Bool) : State :=
  let r := c.sl.retire (c.retire p)
  if r.2 && c.sl.clause.any fun k => k.sck && k.whole && k.sig ≠ r.1.sig then s.killGroup c.g 0x0A
  else s.modGroup c.g fun h =>
    let h := (h.raise (if mism then gsCMIXS else 0)).modSlot c.x fun sl => { (sl.retire (c.retire p)).1 with walk := none }
    { h with pend := q.elim h.pend fun q => insertPend q h.pend }

/-- The issued instruction of slot x with its context, unless it ends a clause with an FPEXC pending, whose trap it takes
when it issues again. -/
def State.stopping (s : State) (g : GRef) (x : SlotId) : Option (Ctx × Pend) :=
  (s.ctxOf g x).bind fun c => c.sl.walk.bind fun p =>
    if (c.sl.retire (c.retire p)).2 && c.sl.fpx.isSome then none else some (c, p)

/-- The issued access of slot x, whose lanes are not all translated when its group stops, completes its issue (R217): it is
outstanding, faulted when it parks. One with a fault for a handler issues again when no edge holds it (log 83). -/
def State.settleWalk (s : State) (g : GRef) (x : SlotId) : State :=
  match s.stopping g x with
  | none => s
  | some (c, p) =>
    if p.body.isWhole then s
    else if c.h.tlbiAhead p then s.pastIssue c p (some p) false
    else
      match s.walkLanes c p with
      | .ok t accs mism => t.pastIssue c p (some { p with accs := accs }) mism
      | .fault k _ va =>
        if !c.b.edgesMet g.gid c.h p then s.pastIssue c p (some p) false
        else if k = .absent then (s.pastIssue c p (some p) false).parkOp g p va
        else if k = .ecc then s.killGroup g 0x12
        else s

/-- The issued class-7 operation of slot x completes when its group stops (R56, R152, R217, R299): it has its effect, and
the slot's PC is past it; a trap that it would take after its effect leaves its GSTAT bit alone (log 83). One that an edge
holds is outstanding, one that parks is faulted. A NEMIT that waits for room is abandoned at its PC (R220), and one with a
fault for a handler issues again. -/
def State.settleWhole (s : State) (g : GRef) (x : SlotId) : State :=
  match s.stopping g x with
  | none => s
  | some (c, p) =>
    if !p.body.isWhole then s
    else if !s.wholeReady c p then s.pastIssue c p (some p) false
    else
      match s.runWhole c p with
      | .ok t _ => t.pastIssue c p none false
      | .fault .absent _ va => (s.pastIssue c p (some p) false).parkOp g p va
      | .fault .ecc _ _ => s.killGroup g 0x12
      | _ => s

/-- The slots in the order in which their walks have issued. -/
def Group.walkOrder (h : Group) : List SlotId :=
  match h.slotA.walk, h.slotB.walk with
  | some p, some q => if q.ser < p.ser then [.b, .a] else [.a, .b]
  | _, _ => [.a, .b]

/-- A group stops (R56, R152, R155): what its slots have issued completes its issue, what can be performed is, class-7
operations last of all, and the waits of its slots are abandoned. -/
def State.quiesce (s : State) (g : GRef) : State :=
  let s := ((s.settleWalk g .a).settleWalk g .b).modGroup g Group.dropTickets
  let s := s.drainOps g
  let s := (((s.group? g).map Group.walkOrder).getD []).foldl (fun s x => s.settleWhole g x) s
  (s.modGroup g Group.abandonWaits).drainOps g

end Sys2Proof.Machine
end

