-- ==== Sys2Proof/Machine/Ops.lean ====
section
/-!
DEFINITION. The operations that instructions of a group share: who issues, the end of an instruction and of its clause
(R82, R99, R227, R297), the tail stack and the refill steps (R44, R215), parking (R54), the entry to a trap handler
(R216 to R220) and the return from one (R223).
-/
namespace Sys2Proof.Machine

/-- An answer that goes on. -/
def go (s : State) : Result := .next s

/-- The context of the slot that issues in this step. -/
def State.ctx? (s : State) : Option Ctx :=
  match s.issuer with
  | .slot g x => s.ctxOf g x
  | _ => none

/-- A meaning of a word that a slot issues. -/
def State.issue (s : State) (f : Ctx → State) : Result :=
  match s.ctx? with
  | none => .fault .noIssuer
  | some c => .next (f c)

/-! The tail stack (R44) -/

/-- The private memory of a group, by offset. -/
def State.privNum (s : State) (g : GRef) (off n : Nat) : Nat := s.numAt (privateKey g off) n
def State.privPut (s : State) (g : GRef) (off : Nat) (bs : List Byte) : State :=
  s.putPhys ((span (privateKey g off) bs.length).zip bs)

/-- An entry of the tail stack. -/
structure TailEntry where
  pc : DWord
  mask : Lanes
  rj : DWord
  deriving DecidableEq, Repr

/-- A waiting record's PC is its rejoin address. -/
def TailEntry.waiting (e : TailEntry) : Bool := e.pc = e.rj

def State.tailEntry (s : State) (g : GRef) (i : Nat) : TailEntry :=
  { pc := BitVec.ofNat 64 (s.privNum g (24 * i) 6)
    mask := BitVec.ofNat 96 (s.privNum g (24 * i + 6) 12)
    rj := BitVec.ofNat 64 (s.privNum g (24 * i + 18) 6) }

def State.putTail (s : State) (g : GRef) (i : Nat) (e : TailEntry) : State :=
  s.privPut g (24 * i) (leBytes 6 e.pc.toNat ++ leBytes 12 e.mask.toNat ++ leBytes 6 e.rj.toNat)

/-- Entries `i` to `n - 1` of the tail stack hold an uncorrectable error (R452). -/
def State.tailBad (s : State) (g : GRef) (i n : Nat) : Bool := s.poisoned (span (privateKey g (24 * i)) (24 * (n - i)))

def State.setDepth (s : State) (g : GRef) (d : Nat) : State := s.modGroup g fun h => { h with depth := d }

/-- The private-memory window (R118). -/
def privateWindow : Nat := 0x7E0000000000

/-- An access of the group to the first `n` entries of its tail stack is outstanding (R46): private memory is reached
through its window alone. -/
def Group.tailMeets (h : Group) (n : Nat) : Bool :=
  h.outstanding.any fun p => p.accs.any fun c => privateWindow < c.va + c.len && c.va < privateWindow + 24 * n

/-- A push or pop waits for an access to the tail stack (R46). -/
def Group.tailBusy (h : Group) : Bool := h.tailMeets (h.depth + 1)

/-! Paths in slots -/

/-- A running path (R213, R218). -/
def Slot.path (sl : Slot) (pc : DWord) (own exec : Lanes) (rj : DWord) : Slot :=
  { sl with st := .running, pc := pc, own := own, exec := exec, rj := rj, clause := none, clock := 0, shadows := [],
            fpx := none, arrived := none, walk := none, park := none, resumed := false, hold := none }

/-- A slot emptied; its signature register stays. -/
def Slot.emptied (sl : Slot) : Slot := { Slot.vacant with sig := sl.sig }

/-- The branch target of format B (R91). -/
def branchTarget (pc : DWord) (disp : BitVec 32) : DWord := pc + 8 * disp.signExtend 64

/-- The outer rejoin of the BJOIN at `pc`, where a path of the group waits (R214, R215): the one that a path has reached
there. A waiting record or a frame that software has made up may name a word that none has reached: the word is read,
and without a BJOIN to be read the rejoin is 0 (DESIGN CHOICE, log 79). -/
def State.outerAt (s : State) (g : GRef) (pc : DWord) : DWord :=
  match (s.group? g).bind fun h => assocFind h.outers pc.toNat with
  | some o => o
  | none =>
    match s.translate (s.whoGroup g) Need.fetch pc.toNat with
    | .inl _ => 0
    | .inr t =>
      match decodeInstr (BitVec.ofNat 64 (s.numAt (t.pa + (pc.toNat - t.base)) 8)) with
      | .bjoin f => if f.disp = 0 then 0 else branchTarget pc f.disp
      | _ => 0

def Slot.isEmpty (sl : Slot) : Bool := sl.st = .empty
def Slot.isJoin (sl : Slot) : Bool :=
  match sl.st with
  | .atJoin _ => true
  | _ => false
def Slot.isEvent (sl : Slot) : Bool :=
  match sl.st with
  | .atEvent _ => true
  | _ => false
def Slot.outer (sl : Slot) : DWord :=
  match sl.st with
  | .atJoin o => o
  | _ => 0

/-- Two paths at one rejoin become one path in slot A (R214). -/
def Group.merge (h : Group) (outer next : DWord) : Group :=
  let own := h.slotA.own ||| h.slotB.own
  { h with slotA := h.slotA.path next own own outer, slotB := h.slotB.emptied }

/-- The pending entry nearest the top of the tail stack. -/
def State.topPending (s : State) (g : GRef) : Nat → Option Nat
  | 0 => none
  | d + 1 => if (s.tailEntry g d).waiting then s.topPending g d else some d

/-- Pops the top entry into an empty slot (R215 step 1); an uncorrectable error in it is fatal (R452). -/
def State.popInto (s : State) (g : GRef) (h : Group) (x : SlotId) : State :=
  let d := h.depth - 1
  let e := s.tailEntry g d
  let bad := s.tailBad g d h.depth
  let s := s.setDepth g d
  if bad then s.killGroup g trapECCUNC
  else if e.waiting then
    let o := s.outerAt g e.rj
    let s := s.modSlot g x fun sl => { sl.path e.rj e.mask e.mask e.rj with st := .atJoin o }
    let other := h.slot (SlotId.other x)
    if other.isJoin && other.rj = e.rj then s.modGroup g fun k => k.merge o (e.rj + 8) else s
  else s.modSlot g x fun sl => sl.path e.pc e.mask e.mask e.rj

/-- One refill step, if one applies (R215). -/
def State.refillStep (s : State) (g : GRef) : Option State :=
  match s.group? g with
  | none => none
  | some h =>
    let a := h.slotA
    let b := h.slotB
    if h.exited then none
    else if a.isEmpty && h.depth ≠ 0 then some (s.popInto g h .a)
    else if b.isEmpty && h.depth ≠ 0 then some (s.popInto g h .b)
    else
      let pending := s.topPending g h.depth
      let idle (x : Slot) : Bool := x.isEmpty || x.isJoin
      if a.isJoin && b.isJoin && s.tailBad g (pending.getD 0) h.depth then some (s.killGroup g trapECCUNC)
      else if a.isJoin && b.isJoin && a.rj ≠ b.rj && pending.isSome then
        let i := pending.getD 0
        let e := s.tailEntry g i
        let s := s.putTail g i ⟨b.rj, b.own, b.rj⟩
        some (s.modSlot g .b fun sl => sl.path e.pc e.mask e.mask e.rj)
      else if idle a && idle b && pending.isNone && !(a.isEmpty && b.isEmpty) then
        if a.isJoin && b.isJoin && a.rj = b.rj then some (s.modGroup g fun k => k.merge a.outer (a.pc + 8))
        else if a.isJoin then some (s.modSlot g .a fun sl => sl.path (sl.pc + 8) sl.own sl.own sl.outer)
        else some (s.modSlot g .b fun sl => sl.path (sl.pc + 8) sl.own sl.own sl.outer)
      else none

/-- The refill steps until none applies, `fuel` of them at most. -/
def State.refillLoop (g : GRef) : Nat → State → State
  | 0, s => s
  | fuel + 1, s =>
    match s.refillStep g with
    | some t => t.refillLoop g fuel
    | none => s

/-- Refill, and the group's exit when both slots and its tail stack are empty (R211, R215, R223). Each step pops an
entry, exchanges a pending one or lets a path run, so twice the depth and four steps are enough. -/
def State.refill (s : State) (g : GRef) : State :=
  let d := ((s.group? g).map Group.depth).getD 0
  let s := s.refillLoop g (2 * d + 4)
  match s.group? g with
  | none => s
  | some h => if !h.exited && h.slotA.isEmpty && h.slotB.isEmpty && h.depth = 0 then s.exitGroup g else s

/-! Copies by handle (R326) -/

/-- The most recent copy of the group that a handle names, if it is current: in flight, or among the 16 most recently issued. -/
def State.copyOf (s : State) (g : GRef) (h : Group) (handle : Nat) : Option Nat :=
  let age := (h.copySeq + 4096 - 1 - handle) % 4096
  ((List.range s.copies.length).reverse.find? fun k => (s.copies[k]?).any fun c => c.owner = g && c.handle = handle).filter
    fun k => (s.copies[k]?).any fun c => age < 16 || c.st = .armed || c.st = .running || c.st = .paused

/-- The copies of a group in flight on a stream, oldest first. -/
def Group.flightOn (h : Group) (n : Nat) : List Nat :=
  h.pend.filterMap fun p =>
    match p.body with
    | .copy cid => if p.q = some n then some cid else none
    | _ => none

/-! Waits -/

/-- The numbered barrier of a wait. -/
def Wait.bar? : Wait → Option Nat
  | .barrier k => some k
  | .arrived k _ => some k
  | .header k => some k
  | _ => none

/-- The numbered barrier on which a slot waits. -/
def Slot.bar? (sl : Slot) : Option Nat :=
  match sl.st with
  | .atEvent w => w.bar?
  | _ => none

/-- Of the two slots of a group, which are one party of a barrier, the other one waits on it and issued its wait earlier
(R351). -/
def Group.waitsBefore (h : Group) (x : SlotId) (k : Nat) : Bool :=
  let o := h.slot (SlotId.other x)
  o.bar? = some k && ((h.slot x).bar? ≠ some k || o.since < (h.slot x).since)

/-- Slot x of the group may take a generation of barrier k: they are taken in issue order (R351). -/
def Block.slotTakes (b : Block) (g : GRef) (x : SlotId) (k : Nat) : Bool :=
  b.canTake k (.grp g.gid) && !(b.groups[g.gid]?).any fun h => h.waitsBefore x k

/-- The event that slot x waits for has occurred (R64, R66, R193, R340, R351, R352, R411, R424). -/
def State.waitOver (s : State) (g : GRef) (x : SlotId) (w : Wait) : Bool :=
  match s.block? g.bid with
  | none => false
  | some b =>
    match w with
    | .block gen => b.bbDone gen
    | .grid gen => (s.launches[b.lid]?).any fun l => gen ≤ l.gridGen
    | .barrier k => b.slotTakes g x k
    | .header k => b.slotTakes g x k
    | .arrived k ser =>
      b.slotTakes g x k && (b.groups[g.gid]?).any fun h => !h.outstanding.any fun p => p.ser = ser
    | .copy handle target =>
      match (b.groups[g.gid]?).bind fun h => s.copyOf g h handle with
      | none => true
      | some k => (s.copies[k]?).all fun c => target ≤ c.wp || c.st = .done || c.st = .stopped
    | .ticket ser => (b.groups[g.gid]?).any fun h => !h.outstanding.any fun p => p.ser = ser
    | .time t => t ≤ s.time

/-- The slot's state code (R193). -/
def Slot.code (sl : Slot) : Nat :=
  match sl.st with
  | .empty => 0
  | .running => 1
  | .atJoin _ => 2
  | .atEvent _ => 3

/-- The slot could issue an instruction. -/
def Slot.canIssue (sl : Slot) : Bool := sl.st = .running && sl.park.isNone && sl.walk.isNone

/-! Taking an exception -/

/-- What a trap reports (R216, R219). `lanes` is TRAPLANES of a lane-specific trap. -/
structure TrapInfo where
  code : Nat
  clidx : Nat
  pc : DWord
  iword : DWord
  lanes : Option Lanes
  fva : Nat
  arg : Nat
  matrix : Bool
  sstep : Bool
  deriving DecidableEq, Repr

/-- Firmware's trap table, BASE 0x0F01: it has handlers for the first-touch trap and for the bind service, TRAP 1;
another trap that reaches it has no handler (R30, R446; log 12). -/
def firmwareTable : Word := 0x0F01
def hasHandler (tvec : Word) (code arg : Nat) : Bool :=
  tvec ≠ firmwareTable || code = 0x07 || (code = 0x10 && arg = 1)

/-- Where the trap table's handler of a code stands (R218). -/
def handlerPc (tvec : Word) (code : Nat) : DWord := BitVec.ofNat 64 (tvec.toNat * 65536 + 64 * code)

/-- Offset of the frame in the private area (R201). -/
def Group.frameOff (h : Group) : Nat := (h.tframe.extractLsb' 9 23).toNat * 512

/-- The handles of the copies in flight on a stream as the frame lists them (R219). -/
def State.frameHandles (s : State) (h : Group) (n : Nat) : List Byte :=
  let hs := ((h.flightOn n).take 16).map fun cid => ((s.copies[cid]?).map Copy.handle).getD 0xFFFF
  ((List.range 16).flatMap fun i => leBytes 2 ((hs[i]?).getD 0xFFFF))

/-- The trap frame (R219). FLANE of a lane-specific trap without a lane is 96 (DESIGN CHOICE, log 88). -/
def State.frameBytes (s : State) (h : Group) (x : SlotId) (t : TrapInfo) : List Byte :=
  let flags := (if x = .b then 1 else 0) + (if t.lanes.isSome then 2 else 0) + (if t.matrix then 4 else 0)
    + (if t.sstep then 8 else 0) + (if h.slotA.arrived.isSome then 16 else 0)
    + (if h.slotB.arrived.isSome then 32 else 0)
  let planes := t.lanes.getD 0
  leBytes 1 t.code ++ leBytes 1 flags ++ leBytes 1 t.clidx
    ++ leBytes 1 (match t.lanes with | some m => lowLane m | none => 0xFF)
    ++ leBytes 4 t.arg ++ leBytes 8 t.pc.toNat ++ leBytes 8 t.fva ++ leBytes 8 t.iword.toNat
    ++ leBytes 12 planes.toNat ++ leBytes 4 h.depth
    ++ leBytes 8 h.slotA.pc.toNat ++ leBytes 8 h.slotB.pc.toNat
    ++ leBytes 12 h.slotA.exec.toNat ++ leBytes 12 h.slotA.own.toNat
    ++ leBytes 12 h.slotB.exec.toNat ++ leBytes 12 h.slotB.own.toNat
    ++ leBytes 8 h.slotA.rj.toNat ++ leBytes 8 h.slotB.rj.toNat
    ++ leBytes 1 h.slotA.code ++ leBytes 1 h.slotB.code ++ leBytes 2 0
    ++ leBytes 4 (h.strm 0).toNat ++ leBytes 4 (h.strm 1).toNat
    ++ leBytes 4 h.fpctl.toNat ++ leBytes 4 h.cmixctl.toNat ++ leBytes 4 (h.slot x).sig.toNat
    ++ ((List.range 4).flatMap fun i => leBytes 1 (assocGet 0 h.ix i).toNat)
    ++ leBytes 4 h.gstat.toNat ++ List.replicate 96 0
    ++ ((List.range 8).flatMap fun n => s.frameHandles h n)

/-- Sets aside what the drain left: faulted and held operations, and what the staging reserve has; copies keep running and
stay counted (R152). -/
def Group.setAside (h : Group) (staged : Nat → Bool) : Group :=
  { h with
    pend := h.pend.filter Pend.isCopy
    aside := h.aside ++ (h.pend.filter fun p => !p.isCopy).map (Pend.heldUnless staged) }

/-- The group in supervisor mode, slot A at the handler with the mask `m` (R218). -/
def Group.enterHandler (h : Group) (code : Nat) (m : Lanes) (trapped : Option Pend) : Group :=
  { h with
    tcode := BitVec.ofNat 32 (code + 0x100)
    trapSer := h.ser
    refillDue := false
    timeHold := none
    fpctl := 0
    cmixctl := h.cmixctl ||| 1
    slotA := (h.slotA.path (handlerPc h.tvec code) m m 0)
    slotB := h.slotB.emptied
    keptA := h.slotA.arrived
    keptB := h.slotB.arrived
    trapped := trapped
    step := .off }

/-- A pending FPEXC is discarded (R217, R298): also that of the slot through which a trap enters that no instruction of its
clause raises (DESIGN CHOICE, log 88). -/
def Group.dropFpx (h : Group) : Group :=
  { h with slotA := { h.slotA with fpx := none }, slotB := { h.slotB with fpx := none } }

/-- Trap entry (R218) for slot x. In supervisor mode, or without a handler, the trap kills the launch (R30, R222).
`trapped` is the instruction that a first-touch trap leaves for PFPARK (R258). -/
def State.trap (s : State) (g : GRef) (x : SlotId) (t : TrapInfo) (trapped : Option Pend) : State :=
  match s.group? g with
  | none => s
  | some h =>
    if h.exited then s
    else if h.sup || !hasHandler h.tvec t.code t.arg then s.killGroup g t.code
    else
      let s := (s.modGroup g Group.dropFpx).quiesce g
      match s.group? g with
      | none => s
      | some h =>
        if h.exited then s
        else
          let t := if t.matrix then { t with pc := (h.slot x).pc } else t
          let h := h.setAside fun n => (s.block? g.bid).any fun b => b.inReserve g.gid n
          let s := s.modGroup g fun _ => h
          let s := s.privPut g h.frameOff (s.frameBytes h x t)
          s.modGroup g fun k => k.enterHandler t.code (t.lanes.getD (h.slot x).exec) trapped

/-- A trap that the issuing instruction takes, leaving the PC at it. -/
def Ctx.trapInfo (c : Ctx) (iword : DWord) (code : Nat) : TrapInfo :=
  ⟨code, c.sl.clidx, c.sl.pc, iword, none, 0, 0, false, false⟩

/-- A trap that is not lane-specific (R216). -/
def State.trapPlain (s : State) (c : Ctx) (iword : DWord) (code : Nat) : State :=
  s.trap c.g c.x (c.trapInfo iword code) none

/-- A lane-specific trap. -/
def State.trapLanes (s : State) (c : Ctx) (iword : DWord) (code : Nat) (m : Lanes) (fva : Nat) : State :=
  s.trap c.g c.x { c.trapInfo iword code with lanes := some m, fva := fva } none

/-! The end of an instruction -/

/-- The end of a single step (R227): BRKPT, with the slot's PC past the instruction. -/
def State.endStepAt (s : State) (c : Ctx) (iword : DWord) (clidx : Nat) : State :=
  if c.h.step = .armed c.x && (s.group? c.g).any fun h => h.step = .armed c.x then
    s.trap c.g c.x { c.trapInfo iword trapBRKPT with clidx := clidx, sstep := true } none
  else s
def State.endStep (s : State) (c : Ctx) (iword : DWord) : State := s.endStepAt c iword c.sl.clidx

/-- The engines of a core: one for each class, the vector engine's two pipes for classes 1 and 2 (R10, R34, R48). -/
inductive Engine
  | vector (pipe : Nat)
  | of (cls : Nat)
  deriving DecidableEq, Repr

/-- The engines that a clause of a group uses: its class's, and the control engine for its free instructions (R75). -/
def Clause.engines (k : Clause) (pipe : Nat) : List Engine :=
  (if k.cls = 1 || k.cls = 2 then Engine.vector pipe else .of k.cls) ::
    (if k.words.any fun w => opField w / 128 ≠ k.cls then [Engine.of 0] else [])

/-- The pipe of a group (R34). -/
def Block.pipe (b : Block) (gid : Nat) : Nat := ((b.slots[gid]?).getD 0) % 2

/-- The engines of the clause in which a slot stands. -/
def State.enginesOf (s : State) (g : GRef) (x : SlotId) : List Engine :=
  match s.block? g.bid, (s.slot? g x).bind Slot.clause with
  | some b, some k => k.engines (b.pipe g.gid)
  | _, _ => []

/-- A clause of another group is under way on an engine that the slot's clause uses (R79). -/
def State.engineTaken (s : State) (c : Ctx) : Bool :=
  ((s.cores[c.b.core]?).map Core.inClause).getD [] |>.any fun p =>
    p.1 ≠ c.g && (s.enginesOf p.1 p.2).any fun e => (s.enginesOf c.g c.x).contains e

/-- The slot is in the middle of its clause, or past its end (R79): a clause that goes on after a walk does so when no other
group's clause has come to be under way on its engines, and is suspended else. -/
def State.clauseGoesOn (s : State) (c : Ctx) (ended : Bool) : State :=
  let on := !ended && !s.engineTaken c
  s.modCore c.b.core fun k => { k with
    inClause := (if on then [(c.g, c.x)] else []) ++ k.inClause.filter (· ≠ (c.g, c.x)) }

/-- The end of an instruction of slot c.x (R82, R227, R297, R298): the signature, the PC, the end of its clause with
SIGMIS, which comes first (DESIGN CHOICE, log 88), and a pending FPEXC, then the rest of the instruction's effect on its group's paths, `tail`, and a single step's
BRKPT. `s` may already hold the instruction's effect; `c` is the context in which it issued. -/
def State.finishWith (s : State) (c : Ctx) (iword : DWord) (r : Retire) (tail : State → State) : State :=
  match s.slot? c.g c.x with
  | none => s
  | some sl =>
    let (sl', ended) := sl.retire r
    let s := (s.modSlot c.g c.x fun _ => sl').clauseGoesOn c ended
    let mism := ended && (sl.clause.any fun k => k.sck && k.whole && k.sig ≠ sl'.sig)
    if mism then s.killGroup c.g trapSIGMIS
    else
      match sl.fpx with
      | some f =>
        if ended || c.h.step = .armed c.x then
          s.trap c.g c.x ⟨trapFPEXC, f.clidx, f.pc, f.iword, some f.lanes, 0, 0, false, false⟩ none
        else s
      | none => (tail s).endStep c iword

def State.finish (s : State) (c : Ctx) (iword : DWord) (r : Retire) : State := s.finishWith c iword r id

/-- The ordinary end: on to the next word. -/
def State.finishNext (s : State) (c : Ctx) (op : BitVec 10) (stl : BitVec 4) (iword : DWord) : State :=
  s.finish c iword ⟨op, stl, false, c.sl.pc + 8, none⟩

/-- The slot starts to wait (R193, R220): its PC stays at the waiting instruction; a single step of it ends at once
(R227). -/
def State.wait (s : State) (c : Ctx) (iword : DWord) (w : Wait) : State :=
  (s.modSlot c.g c.x fun sl => { sl with st := .atEvent w, since := s.fresh }).endStep c iword

/-! The return from a handler -/

/-- A slot as the frame restores it (R223). -/
def State.restoreSlot (s : State) (g : GRef) (old : Slot) (pc : DWord) (own exec : Lanes) (rj : DWord) (st : Nat)
    (arr : Option Arrival) (sig : BitVec 16) : Slot :=
  if st = 0 || own = 0 then { old.emptied with sig := sig }
  else
    { old.path pc own (exec &&& own) rj with
      st := if st = 2 then .atJoin (s.outerAt g pc) else .running
      arrived := arr
      sig := sig
      resumed := true }

/-- The frame's fields that ERET reads, at an offset of the group's private area. -/
def State.frameNum (s : State) (g : GRef) (h : Group) (off n : Nat) : Nat := s.privNum g (h.frameOff + off) n

/-- The group restored from its trap frame (R223), or none when the frame does not hold a group; reserved bits of FPCTL
and CMIXCTL are not written (R5). -/
def State.restoreFrame (s : State) (g : GRef) (h : Group) : Option Group :=
  let f (off n : Nat) := s.frameNum g h off n
  let d (off : Nat) : DWord := BitVec.ofNat 64 (f off 8)
  let m (off : Nat) : Lanes := BitVec.ofNat 96 (f off 12)
  let full (st : Nat) (own : Lanes) : Bool := st ≠ 0 && own ≠ 0
  let sta := f 0x80 1
  let stb := f 0x81 1
  let oa := m 0x4C
  let ob := m 0x64
  if oa &&& ob ≠ 0 || sta > 3 || stb > 3 || (full sta oa && f 0x30 1 % 8 ≠ 0) || (full stb ob && f 0x38 1 % 8 ≠ 0) then
    none
  else
    let flags := f 0x01 1
    let sig : BitVec 16 := BitVec.ofNat 16 (f 0x94 4)
    let arr (bit : Nat) (kept : Option Arrival) : Option Arrival :=
      if bitOf flags bit then some (kept.getD .latest) else none
    some { h with
      slotA := s.restoreSlot g h.slotA (d 0x30) oa (m 0x40) (d 0x70) sta (arr 4 h.keptA)
        (if bitOf flags 0 then 0xFFFF else sig)
      slotB := s.restoreSlot g h.slotB (d 0x38) ob (m 0x58) (d 0x78) stb (arr 5 h.keptB)
        (if bitOf flags 0 then sig else 0xFFFF)
      fpctl := BitVec.ofNat 32 (f 0x8C 4) &&& 0x71F
      cmixctl := BitVec.ofNat 32 (f 0x90 4) &&& 1
      tcode := 0
      keptA := none
      keptB := none
      pend := (h.pend ++ h.aside.map fun p => if p.st = .held then { p with st := .waiting } else p).foldl
        (fun l p => insertPend p l) []
      aside := []
      trapped := none }

/-! Code -/

/-- The words of a byte list. -/
def wordsFrom (n : Nat) (bs : List Byte) : List DWord :=
  (List.range n).map fun i => BitVec.ofNat 64 (leNat ((bs.drop (8 * i)).take 8))

/-- Reads `n` words of code at `va`. -/
def State.readCode (s : State) (who : Who) (va n : Nat) : SpanFault ⊕ (List DWord × State) :=
  match s.translateSpan who Need.fetch none false va (8 * n) with
  | .inl f => .inl f
  | .inr sp =>
    if s.poisoned sp.pas then .inl ⟨.ecc, va⟩
    else .inr (wordsFrom n (s.physBytes sp.pas), s.useTrans who false sp.uses)

/-- MARK of R74. -/
def isHeader (w : DWord) : Bool := w.extractLsb' 58 6 = 0x3F
/-- Instructions of the clause that a header starts (R74). -/
def headerLen (w : DWord) : Nat := (w.extractLsb' 54 4).toNat + 1

/-- The nearest header at or before word `k` back from the address `va`, at most `fuel` words further (R223; log 9). -/
def State.headerBefore (s : State) (who : Who) (va : Nat) : Nat → Nat → SpanFault ⊕ Option (Nat × DWord)
  | 0, _ => .inr none
  | fuel + 1, k =>
    if va < 8 * k then .inr none
    else
      match s.readCode who (va - 8 * k) 1 with
      | .inl f => .inl f
      | .inr (ws, _) =>
        match ws with
        | w :: _ => if isHeader w then .inr (some (k, w)) else s.headerBefore who va fuel (k + 1)
        | [] => .inr none

/-- The slot that a single step selects (R227). -/
def Group.stepSlot (h : Group) : SlotId :=
  match (h.dbgsel.extractLsb' 1 2).toNat with
  | 1 => .a
  | 2 => .b
  | _ => if h.slotA.isEmpty || h.slotA.isJoin then .b else .a

/-- What the frame of a step that could not issue reports of a slot: the word at its PC, and the word's place in its
clause; 0 for a word that cannot be read and for an empty slot (DESIGN CHOICE, log 76). -/
def State.stepWord (s : State) (g : GRef) (sl : Slot) : DWord × Nat :=
  let who := s.whoGroup g
  match sl.clause.bind fun k => k.words[k.pos]? with
  | some w => (w, sl.clidx)
  | none =>
    if sl.isEmpty then (0, 0)
    else
      match s.readCode who sl.pc.toNat 1 with
      | .inr (w :: _, _) =>
        if isHeader w then (w, 0x1E)
        else
          match s.headerBefore who sl.pc.toNat 16 1 with
          | .inr (some (k, _)) => (w, k - 1)
          | _ => (w, 0)
      | _ => (0, 0)

/-- The end of ERET in user mode: with DBGSEL.SS one instruction may issue, or the step's trap is taken at once, with
ARG 1 and FLAGS[3] set (R227; DESIGN CHOICE, log 76). -/
def State.armStep (s : State) (g : GRef) : State :=
  match s.group? g with
  | none => s
  | some h =>
    if h.exited || h.sup || !h.dbgsel.getLsbD 0 then s
    else
      let x := h.stepSlot
      let sl := h.slot x
      if sl.canIssue then s.modGroup g fun k => { k with step := .armed x }
      else
        let w := s.stepWord g sl
        s.trap g x ⟨trapBRKPT, w.2, sl.pc, w.1, none, 0, 1, false, true⟩ none

/-- The refill of a return from a handler, and the single step that it arms (R215, R223, R227); behind an outstanding access
to the tail stack it is due later (R46). -/
def State.refillReturn (s : State) (g : GRef) : State :=
  match s.group? g with
  | none => s
  | some h =>
    if h.exited || h.sup then s
    else if h.tailMeets h.depth then s.modGroup g fun k => { k with refillDue := true }
    else ((s.modGroup g fun k => { k with refillDue := false }).refill g).armStep g

end Sys2Proof.Machine
end

