-- ==== Sys2Proof/Machine/Operands.lean ====
section
/-!
DEFINITION. Types (R97), inline constants (R95, R96), operand fields (R92 to R94) and the checks that precede an
instruction in the order of R108.
-/
namespace Sys2Proof.Machine

/-! Types -/

/-- Type codes of R97. -/
def tB32 : Nat := 0
def tS8 : Nat := 1
def tN8 : Nat := 2
def tS16 : Nat := 3
def tN16 : Nat := 4
def tS32 : Nat := 5
def tN32 : Nat := 6
def tS64 : Nat := 7
def tN64 : Nat := 8
def tF16 : Nat := 9
def tBF16 : Nat := 10
def tF32 : Nat := 11
def tF64 : Nat := 12
def tE4M3 : Nat := 13
def tE5M2 : Nat := 14
def tB64 : Nat := 15
def tPF16 : Nat := 16
def tPBF16 : Nat := 17
def tKB7 : Nat := 18
def tKB4 : Nat := 19
def tKB2 : Nat := 20

/-- The floating-point format of a type. -/
def ffOf : Nat → Option FF
  | 9 => some .f16 | 10 => some .bf16 | 11 => some .f32 | 12 => some .f64 | 13 => some .e4m3 | 14 => some .e5m2
  | 16 => some .f16 | 17 => some .bf16
  | _ => none

/-- The block format of a type. -/
def kiteOf : Nat → Option Kite
  | 18 => some .kb7 | 19 => some .kb4 | 20 => some .kb2
  | _ => none

/-- A 64-bit type, held in a pair. -/
def tyWide (t : Nat) : Bool := t = 7 || t = 8 || t = 12 || t = 15
def tyRegs (t : Nat) : Nat := if tyWide t then 2 else 1
def tySigned (t : Nat) : Bool := t = 1 || t = 3 || t = 5 || t = 7

/-- Element width, and elements of that width in a lane. -/
def tyWidth (t : Nat) : Nat :=
  match t with
  | 1 => 8 | 2 => 8 | 3 => 16 | 4 => 16 | 7 => 64 | 8 => 64 | 9 => 16 | 10 => 16 | 12 => 64 | 13 => 8 | 14 => 8
  | 15 => 64 | 16 => 16 | 17 => 16
  | _ => 32
def tyElems (t : Nat) : Nat :=
  match t with
  | 1 => 4 | 2 => 4 | 3 => 2 | 4 => 2 | 16 => 2 | 17 => 2
  | _ => 1

/-- INT and BITS of R273. -/
def tyInt (t : Nat) : Bool := 1 ≤ t && t ≤ 8
def tyBits (t : Nat) : Bool := t = 0 || t = 15 || tyInt t
/-- s32, n32, s64, n64. -/
def tyInt32 (t : Nat) : Bool := 5 ≤ t && t ≤ 8
/-- The six scalar types of R203. -/
def tyScalar (t : Nat) : Bool := t = 0 || t = 15 || tyInt32 t
/-- The arithmetic floating-point types of R286. -/
def tyFloat (t : Nat) : Bool := (9 ≤ t && t ≤ 12) || t = 16 || t = 17

/-! Inline constants -/

/-- The integer of entries 0x00 to 0x4F. -/
def constInt (c : Nat) : Int := if c < 0x40 then c else 63 - (c : Int)

/-- The patterns of entries 0x70 to 0x7F. -/
def constPattern (c : Nat) : Nat :=
  ([0xFFFFFFFF, 0x80000000, 0x7FFFFFFF, 0x0000FFFF, 0xFFFF0000, 0x000000FF, 0xFF000000, 0x00FF00FF, 0xFF00FF00,
    0x0F0F0F0F, 0xF0F0F0F0, 0x33333333, 0x55555555, 0xAAAAAAAA, 0x01010101, 0x80808080][c - 0x70]?).getD 0

/-- The real values of entries 0x50 to 0x6F in a format; π, 1/π, e and their like to 128 binary places. -/
def constReal (f : FF) (c : Nat) : Nat :=
  let x (n : Nat) : Nat := f.enc .rne false (.fin ⟨n, -128⟩)
  let h (n k : Int) : Nat := f.enc .rne false (.fin ⟨n, k⟩)
  match c with
  | 0x50 => h 1 (-1) | 0x51 => h 1 0 | 0x52 => h 2 0 | 0x53 => h 4 0 | 0x54 => h 8 0 | 0x55 => h 1 (-2)
  | 0x56 => h 1 (-3) | 0x57 => h 3 (-1) | 0x58 => h (-1) (-1) | 0x59 => h (-1) 0 | 0x5A => h (-2) 0
  | 0x5B => h (-4) 0 | 0x5C => h 3 0 | 0x5D => h 10 0
  | 0x5E => x 34028236692093846346337460743176821145
  | 0x5F => f.zero true
  | 0x60 => f.inf false | 0x61 => f.inf true | 0x62 => f.nan | 0x63 => f.maxFin | 0x64 => 2 ^ f.frac
  | 0x65 => x 1069028584064966747859680373161870783300
  | 0x66 => x 108315241484954818046902227470560947936
  | 0x67 => x 2138057168129933495719360746323741566601
  | 0x68 => x 534514292032483373929840186580935391650
  | 0x69 => x 924983374546220337150911035843336795079
  | 0x6A => x 490923683258796565746369346286093237521
  | 0x6B => x 235865763225513294137944142764154484399
  | 0x6C => x 481231938336009023090067544955250113854
  | 0x6D => x 240615969168004511545033772477625056927
  | 0x6E => x 1130393554869435518674010122299176348979
  | _ => x 102435199438739363750012109250103232700

/-- An element's value repeated in every element of a type's lane. -/
def splat (t v : Nat) : Nat := packElems (tyWidth t) (List.replicate (tyElems t) v)

/-- Entry c converted to a type (R95): the lane's word, or 64 bits for a 64-bit type; none where it traps. -/
def inlineConst (t c : Nat) : Option Nat :=
  if (kiteOf t).isSome || t > 20 then none
  else if c < 0x50 then
    match ffOf t with
    | some f => some (splat t (f.enc .rne false (Val.ofInt (constInt c))))
    | none => some (splat t (wrap (constInt c) (tyWidth t)))
  else if c < 0x70 then (ffOf t).map fun f => splat t (constReal f c)
  else
    let p := constPattern c
    some (if tyWide t then p + 2 ^ 32 * p else if tyElems t > 1 then p else p % 2 ^ tyWidth t)

/-! Operand fields -/

/-- The columns of R92. `vk` is the V column with a k-mask for kind 01 (R271). -/
inductive Col
  | v
  | vk
  | s
  deriving DecidableEq, Repr

/-- What an instruction takes in a field: the column, the kinds it allows (vector, scalar, k-mask, inline constant),
the registers of a value, and the type to which a constant is converted. -/
structure Want where
  col : Col
  v : Bool
  s : Bool
  k : Bool
  c : Bool
  n : Nat
  ct : Nat
  deriving DecidableEq, Repr

/-- A resolved operand: vector or scalar registers from an effective number, a mask, or a constant's value. -/
inductive Opnd
  | v (r n : Nat)
  | s (r n : Nat)
  | k (m : Nat)
  | c (i : Nat)
  deriving DecidableEq, Repr

/-- In the V column: a vector register; a source of any kind, with constants of type t; a scalar or a constant; a
scalar; a vector or a scalar; a vector or a k-mask. -/
def Want.vreg (n : Nat) : Want := ⟨.v, true, false, false, false, n, 0⟩
def Want.vsrc (t : Nat) : Want := ⟨.v, true, true, false, true, tyRegs t, t⟩
def Want.vscal (t : Nat) : Want := ⟨.v, false, true, false, true, tyRegs t, t⟩
def Want.vsonly (n : Nat) : Want := ⟨.v, false, true, false, false, n, 0⟩
def Want.vors (n : Nat) : Want := ⟨.v, true, true, false, false, n, 0⟩
def Want.vork (n : Nat) : Want := ⟨.vk, true, false, true, false, n, 0⟩
/-- In the S column: a scalar register; a scalar or a constant of type t; a k-mask. -/
def Want.sreg (n : Nat) : Want := ⟨.s, false, true, false, false, n, 0⟩
def Want.ssrc (t : Nat) : Want := ⟨.s, false, true, false, true, tyRegs t, t⟩
def Want.mask : Want := ⟨.s, false, false, true, false, 1, 0⟩

/-- Fields of an operand (R92). -/
def opKind (f : BitVec 9) : Nat := (f.extractLsb' 7 2).toNat
def opNum (f : BitVec 9) : Nat := (f.extractLsb' 0 7).toNat
def opBase (f : BitVec 9) : Nat := (f.extractLsb' 0 5).toNat
def opIx (f : BitVec 9) : Nat := (f.extractLsb' 5 2).toNat

/-- The operand that a field names, with the index registers' values `ix` (R92 to R94); none where it traps with
ILLOP. -/
def resolve (ix : Nat → Nat) (w : Want) (f : BitVec 9) : Option Opnd :=
  let vec (r : Nat) : Option Opnd := if w.v && r % w.n = 0 then some (.v r w.n) else none
  let scl (r : Nat) : Option Opnd := if w.s && r % w.n = 0 then some (.s r w.n) else none
  let file (r : Nat) : Option Opnd := if w.col = .s then scl r else vec r
  match opKind f with
  | 0 => file (opNum f)
  | 1 => if w.col = .v then scl (opNum f) else if w.k && opNum f < 8 then some (.k (opNum f)) else none
  | 2 => file (opBase f + ix (opIx f))
  | _ => if w.c then (inlineConst w.ct (opNum f)).map Opnd.c else none

/-- Every register of the operand exists (R32, R94). -/
def Opnd.inBounds (ns nv : Nat) (sup : Bool) : Opnd → Bool
  | .v r m => (List.range m).all fun i => vExists nv sup (r + i)
  | .s r m => (List.range m).all fun i => sExists ns sup (r + i)
  | _ => true

/-- One field of an instruction: what it takes, its bits, and whether it is read and written. -/
structure Use where
  want : Want
  field : BitVec 9
  reads : Bool
  writes : Bool
  /-- Registers by which the operand lies above the one that the field names. -/
  above : Nat := 0
  deriving DecidableEq, Repr

def Use.src (w : Want) (f : BitVec 9) : Use := ⟨w, f, true, false, 0⟩
def Use.dst (w : Want) (f : BitVec 9) : Use := ⟨w, f, false, true, 0⟩
def Use.both (w : Want) (f : BitVec 9) : Use := ⟨w, f, true, true, 0⟩

def Opnd.shift (k : Nat) : Opnd → Opnd
  | .v r n => .v (r + k) n
  | .s r n => .s (r + k) n
  | o => o

/-- The cells of an operand in the lanes `m`. -/
def Opnd.cells (sup : Bool) (x : SlotId) (m : List Nat) : Opnd → List RegCell
  | .v r n => (List.range n).flatMap fun i => m.map fun j => vCell sup (r + i) j
  | .s r n => (List.range n).map fun i => sCell sup x (r + i)
  | .k q => (List.range 3).map fun i => sCell sup x (104 + 3 * q + i)
  | .c _ => []

/-- An index register that a field uses. -/
def ixCells (f : BitVec 9) : List RegCell := if opKind f = 2 then [.ix (opIx f)] else []

/-- Index register n as the slot reads it. -/
def Ctx.ix (c : Ctx) (n : Nat) : Nat := (c.h.readCell c.x (.ix n)).toNat

/-- The launch's allotments for this group (R31). -/
def Ctx.nS (c : Ctx) : Nat := c.l.nsregOf c.b
def Ctx.nV (c : Ctx) : Nat := c.l.nvregOf c.b

/-- EXEC and the effective mask of KM (R85) as the slot reads them. -/
def Ctx.exec (c : Ctx) : Lanes := c.h.readMask c.x 7
def Ctx.active (c : Ctx) (km : BitVec 3) : Lanes := c.h.readMask c.x km.toNat &&& c.exec

/-- The value of an operand in lane `j`: its words as one number. -/
def Ctx.lane (c : Ctx) (o : Opnd) (j : Nat) : Nat :=
  match o with
  | .v r n => ofWords ((List.range n).map fun i => c.h.readCell c.x (vCell c.h.sup (r + i) j))
  | .s r n => ofWords ((List.range n).map fun i => c.h.readCell c.x (sCell c.h.sup c.x (r + i)))
  | .k _ => 0
  | .c k => k

/-- The value of a scalar operand. -/
def Ctx.scalar (c : Ctx) (o : Opnd) : Nat := c.lane o 0

/-- A mask operand. -/
def Ctx.kmask (c : Ctx) (o : Opnd) : Lanes :=
  match o with
  | .k m => c.h.readMask c.x m
  | _ => 0

/-! The checks before an instruction (R108) -/

/-- What is checked of an instruction before it acts. `reads` are cells read besides the operands, `lanes` those in
which vector sources are read. -/
structure Plan where
  iword : DWord
  legal : Bool
  priv : Bool
  uses : List Use
  reads : List RegCell
  lanes : Lanes
  deriving DecidableEq, Repr

/-- The cells of EXEC and of the mask that KM selects. -/
def Ctx.maskCells (c : Ctx) (km : Nat) : List RegCell :=
  ((List.range 3).map fun i => sCell c.h.sup c.x (125 + i)) ++
    (if km = 7 then [] else (List.range 3).map fun i => sCell c.h.sup c.x (104 + 3 * km + i))

/-- RU names no source that the instruction does not read (R84): `src` has A, B, C from bit 2 down. -/
def ruOk (ru src : BitVec 3) : Bool := ru &&& ~~~src = 0

/-- Cells that an instruction reads, and cells that it reads or writes. -/
def Ctx.readCells (c : Ctx) (p : Plan) (os : List (Use × Opnd)) : List RegCell :=
  p.reads ++ (p.uses.flatMap fun u => ixCells u.field) ++
    ((os.filter fun q => q.1.reads).flatMap fun q => q.2.cells c.h.sup c.x (laneList p.lanes))
def Ctx.touchedCells (c : Ctx) (p : Plan) (os : List (Use × Opnd)) : List RegCell :=
  c.readCells p os ++ ((os.filter fun q => q.1.writes).flatMap fun q => q.2.cells c.h.sup c.x (laneList c.exec))

/-- The instruction at the slot's PC waits: its clause is suspended there (R79). -/
def State.holdOn (s : State) (c : Ctx) (w : Hold) : State := s.modSlot c.g c.x fun sl => { sl with hold := some w }

/-- The instruction reads xa: XADD to XRND, XSCAN, XRD and XSTAT. -/
def Plan.readsXa (p : Plan) : Bool :=
  let op := (p.iword.extractLsb' 54 10).toNat
  0x112 ≤ op && op ≤ 0x118 && op ≠ 0x117

/-- The instruction reads a register, or xa, that holds an uncorrectable error (R452). -/
def Ctx.readsBad (c : Ctx) (p : Plan) (us : List (Use × Opnd)) : Bool :=
  (c.readCells p us).any c.h.bad.contains || (c.h.xaBad && p.readsXa)

/-- The checks in the order of R108, the scoreboard (R98, R194), then the instruction `k` on its operands; an
uncorrectable error in what it reads is fatal (R30, R452). -/
def State.checked (s : State) (c : Ctx) (p : Plan) (k : List Opnd → State) : State :=
  let os := p.uses.map fun u => (resolve c.ix u.want u.field).map (Opnd.shift u.above)
  if !p.legal || os.any Option.isNone then s.trapPlain c p.iword trapILLOP
  else
    let os := os.filterMap id
    let us := p.uses.zip os
    if p.priv && !c.h.sup then s.trapPlain c p.iword trapPRIV
    else if os.any fun o => !o.inBounds c.nS c.nV c.h.sup then s.trapPlain c p.iword trapREGBND
    else if c.h.busy (c.touchedCells p us) then s.holdOn c (.cells (c.touchedCells p us))
    else if c.h.sbchk.getLsbD 0 && (c.readCells p us).any (c.h.stale c.x) then s.trapPlain c p.iword trapSBCHK
    else if c.readsBad p us then s.killGroup c.g trapECCUNC
    else k os

/-- The value of a scalar operand that can be read now, for a check of its data that stands among those of ILLOP. -/
def Ctx.peek (c : Ctx) (u : Use) : Option Nat :=
  match resolve c.ix u.want u.field with
  | some o =>
    if o.inBounds c.nS c.nV c.h.sup && !c.h.busy (o.cells c.h.sup c.x []) then some (c.scalar o) else none
  | none => none

/-- The registers of a checked operand, when they still await a result. -/
def Ctx.awaited (c : Ctx) (u : Use) : List RegCell :=
  match resolve c.ix u.want u.field with
  | some o =>
    let cs := o.cells c.h.sup c.x []
    if o.inBounds c.nS c.nV c.h.sup && c.h.busy cs then cs else []
  | none => []

/-- The registers of `early`, on whose data an ILLOP depends, for which the instruction waits: no later trap of R108 is
taken before that check can be made. -/
def Ctx.earlyWait (c : Ctx) (early : List Use) (p : Plan) : List RegCell :=
  if p.legal && (p.uses.all fun u => (resolve c.ix u.want u.field).isSome) then early.flatMap c.awaited else []

/-- The checks of an instruction that has operands whose data can raise ILLOP. -/
def State.checkedOn (s : State) (c : Ctx) (early : List Use) (p : Plan) (k : List Opnd → State) : State :=
  match c.earlyWait early p with
  | [] => s.checked c p k
  | cs => s.holdOn c (.cells cs)

/-- The scalar registers that a field names lie below the allotment where they exist (R89, R423; log 49). -/
def Ctx.belowAllotment (c : Ctx) (u : Use) : Bool :=
  (resolve c.ix u.want u.field).all fun o =>
    match o with
    | .s r n => r < c.nS || !(Opnd.s r n).inBounds c.nS c.nV c.h.sup
    | _ => true

/-! Instructions with register results -/

/-- The effect of an instruction of classes 0 to 3: its fixed-latency results, sticky bits, the conditions of each
lane, xa, RKEY, a trap after the effect. -/
structure Eff where
  writes : List (RegCell × Word) := []
  gstat : Nat := 0
  conds : List (Nat × Nat) := []
  xa : Option (BitVec 640 × BitVec 5) := none
  rkey : Option DWord := none
  after : Option (Nat × Lanes) := none
  deriving DecidableEq, Repr

/-- Fixed-latency results written: until the clause clock reaches their latency the slot reads the old values (R99). -/
def Group.setFixed (h : Group) (x : SlotId) (lat : Nat) (l : List (RegCell × Word)) : Group :=
  let old := l.map fun p => (⟨p.1, h.cell p.1, (h.slot x).clock + lat⟩ : Shadow)
  (h.modSlot x fun sl => { sl with shadows := old ++ sl.shadows }).setCells l

/-- The group with an effect applied. -/
def Group.applyEff (h : Group) (x : SlotId) (iword : DWord) (lat : Nat) (e : Eff) : Group :=
  let h1 := (h.setFixed x lat e.writes).raise (e.gstat ||| allConds e.conds)
  let h2 := h1.modSlot x fun sl => sl.collect iword (enabledLanes h.enables e.conds)
  { h2 with
    xa := (e.xa.map Prod.fst).getD h2.xa
    xaStat := (e.xa.map Prod.snd).getD h2.xaStat
    xaBad := h2.xaBad && iword.extractLsb' 54 10 ≠ 0x111
    rkey := e.rkey.getD h2.rkey }

/-- An instruction of classes 0 to 3 with its effect, and its end. A trap after the effect discards a pending FPEXC
(R298). -/
def State.regular (s : State) (c : Ctx) (p : Plan) (op : BitVec 10) (stl : BitVec 4) (lat : Nat)
    (f : List Opnd → Eff) : State :=
  s.checked c p fun os =>
    let e := f os
    let s := s.modGroup c.g fun h => h.applyEff c.x p.iword lat e
    match e.after with
    | none => s.finishNext c op stl p.iword
    | some (code, m) =>
      let s := s.modSlot c.g c.x fun sl => { sl with fpx := none }
      s.finishWith c p.iword ⟨op, stl, false, c.sl.pc + 8, none⟩ fun t =>
        t.trap c.g c.x { c.trapInfo p.iword code with lanes := some m } none

/-- Scalar results: the words of a destination. -/
def Ctx.sput (c : Ctx) (o : Opnd) (v : Nat) : List (RegCell × Word) :=
  (o.cells c.h.sup c.x []).zip (wordsOf 2 v)

/-- The three words of a mask destination. -/
def Ctx.kput (c : Ctx) (o : Opnd) (m : Lanes) : List (RegCell × Word) :=
  (o.cells c.h.sup c.x []).zip ((List.range 3).map fun i => laneWord m i)

/-- Vector results under R85: lanes of the active set take `f`, lanes of EXEC outside it 0 when Z is 1. -/
def Ctx.vput (c : Ctx) (o : Opnd) (km : BitVec 3) (z : BitVec 1) (f : Nat → Nat) : List (RegCell × Word) :=
  let act := c.active km
  (laneList c.exec).flatMap fun j =>
    if act.getLsbD j then (o.cells c.h.sup c.x [j]).zip (wordsOf 2 (f j))
    else if z = 1 then (o.cells c.h.sup c.x [j]).zip [0, 0]
    else []

end Sys2Proof.Machine
end

