-- ==== Sys2Proof/Machine/Scalar.lean ====
section
/-!
DEFINITION. The scalar and mask instructions (R203 to R207).
-/
namespace Sys2Proof.Machine

/-- What is checked of NOP: every field zero (R84). -/
def planNop (f : WordS) : Plan :=
  ⟨clauseWord 0x001 f.bits, f.ru = 0 && f.d = 0 && f.a = 0 && f.b = 0 && f.c = 0 && f.sub = 0 && f.ty = 0, false, [], [], 0⟩

/-- NOP (R103): no effect. -/
def execNop (f : WordS) (s : State) : Result :=
  s.issue fun c => s.regular c (planNop f) 0x001 f.stl 0 fun _ => {}

/-! The scalar ALU -/

/-- The form of a scalar ALU instruction (R203): the types and SUB values it takes, its sources, whether the
destination and B stay single for a 64-bit type, and its latencies at 32 and 64 bits (R207). -/
structure ScalarForm where
  types : Nat → Nat → Bool
  subs : Nat → Bool
  srcs : Nat
  dOne : Bool
  bOne : Bool
  lat32 : Nat
  lat64 : Nat

/-- The fields of format S that a form leaves unused are zero, and RU names only its sources (R84). -/
def ScalarForm.unusedOk (k : ScalarForm) (f : WordS) : Bool :=
  (k.srcs ≥ 2 || f.b = 0) && (k.srcs ≥ 3 || f.c = 0)
    && ruOk f.ru (if k.srcs = 1 then 0b100 else if k.srcs = 2 then 0b110 else 0b111)

/-- The operands of a form: D, A, B and C in order. -/
def ScalarForm.uses (k : ScalarForm) (f : WordS) : List Use :=
  let t := f.ty.toNat
  [Use.dst (Want.sreg (if k.dOne then 1 else tyRegs t)) f.d, Use.src (Want.ssrc t) f.a]
    ++ (if k.srcs ≥ 2 then [Use.src (Want.ssrc (if k.bOne then tB32 else t)) f.b] else [])
    ++ (if k.srcs ≥ 3 then [Use.src (Want.ssrc tB32) f.c] else [])

/-- What is checked of a scalar ALU instruction. -/
def ScalarForm.plan (k : ScalarForm) (op : BitVec 10) (f : WordS) : Plan :=
  { iword := clauseWord op f.bits
    legal := k.subs f.sub.toNat && k.types f.ty.toNat f.sub.toNat && k.unusedOk f
    priv := false
    uses := k.uses f
    reads := []
    lanes := 0 }

/-- A scalar ALU instruction: `e` gives the result from the width, the type's signedness, SUB and the sources. -/
def State.scalarOp (s : State) (k : ScalarForm) (op : BitVec 10) (f : WordS)
    (e : Nat → Bool → Nat → Nat → Nat → Nat → Nat) : Result :=
  s.issue fun c =>
    let t := f.ty.toNat
    s.regular c (k.plan op f) op f.stl (if tyWide t then k.lat64 else k.lat32) fun os =>
      let v (i : Nat) : Nat := ((os[i]?).map c.scalar).getD 0
      match os with
      | d :: _ => { writes := c.sput d (e (tyWidth t) (tySigned t) f.sub.toNat (v 1) (v 2) (v 3)) }
      | [] => {}

/-- Two sources, one source and three sources of any of the six types, at latencies 2 and 3. -/
def form2 : ScalarForm := ⟨fun t _ => tyScalar t, (· = 0), 2, false, false, 2, 3⟩
def form1 : ScalarForm := { form2 with srcs := 1 }
def form3 : ScalarForm := { form2 with srcs := 3 }
/-- Signed and unsigned types alone. -/
def formSN : ScalarForm := { form2 with types := fun t _ => tyInt32 t }
/-- Shifts: B is one register. -/
def formShift : ScalarForm := { form2 with bOne := true }
/-- Counts: one source, one register of result. -/
def formCount : ScalarForm := { form1 with dOne := true, lat32 := 3 }
/-- SADDC.c and SSUBB.c: one register of result, SUB 1. -/
def formCarry : ScalarForm := { form3 with dOne := true, subs := (· = 1) }

/-- SMOV (R203). -/
def execSmov (f : WordS) (s : State) : Result :=
  s.scalarOp form1 0x002 f fun _ _ _ a _ _ => a

/-- SADD (R203). -/
def execSadd (f : WordS) (s : State) : Result :=
  s.scalarOp form2 0x004 f fun w _ _ a b _ => (a + b) % 2 ^ w

/-- SADDC (R203). -/
def execSaddc (f : WordS) (s : State) : Result :=
  s.scalarOp form3 0x005 f fun w _ _ a b c => (a + b + c % 2) % 2 ^ w

/-- SADDC.c (R203). -/
def execSaddcC (f : WordS) (s : State) : Result :=
  s.scalarOp formCarry 0x005 f fun w _ _ a b c => (a + b + c % 2) / 2 ^ w

/-- SSUB (R203). -/
def execSsub (f : WordS) (s : State) : Result :=
  s.scalarOp form2 0x006 f fun w _ _ a b _ => (a + (2 ^ w - b)) % 2 ^ w

/-- SSUBB (R203). -/
def execSsubb (f : WordS) (s : State) : Result :=
  s.scalarOp form3 0x007 f fun w _ _ a b c => wrap ((a : Int) - b - (c % 2 : Nat)) w

/-- SSUBB.c (R203). -/
def execSsubbC (f : WordS) (s : State) : Result :=
  s.scalarOp formCarry 0x007 f fun _ _ _ a b c => if a < b + c % 2 then 1 else 0

/-- SMUL (R203). -/
def execSmul (f : WordS) (s : State) : Result :=
  s.scalarOp { form2 with lat32 := 4, lat64 := 6 } 0x008 f fun w _ _ a b _ => a * b % 2 ^ w

/-- SMULH (R203). -/
def execSmulh (f : WordS) (s : State) : Result :=
  s.scalarOp { formSN with lat32 := 4, lat64 := 6 } 0x009 f fun w sg _ a b _ => wrap (asInt sg w a * asInt sg w b / (2 ^ w : Nat)) w

/-- SAND (R203). -/
def execSand (f : WordS) (s : State) : Result :=
  s.scalarOp form2 0x00a f fun _ _ _ a b _ => a &&& b

/-- SOR (R203). -/
def execSor (f : WordS) (s : State) : Result :=
  s.scalarOp form2 0x00b f fun _ _ _ a b _ => a ||| b

/-- SXOR (R203). -/
def execSxor (f : WordS) (s : State) : Result :=
  s.scalarOp form2 0x00c f fun _ _ _ a b _ => a ^^^ b

/-- SANDN (R203). -/
def execSandn (f : WordS) (s : State) : Result :=
  s.scalarOp form2 0x00d f fun w _ _ a b _ => a &&& notBits w b

/-- SSHL (R203). -/
def execSshl (f : WordS) (s : State) : Result :=
  s.scalarOp formShift 0x00e f fun w _ _ a b _ => shiftL w a (zext b 32)

/-- SSHR (R203). -/
def execSshr (f : WordS) (s : State) : Result :=
  s.scalarOp formShift 0x00f f fun w _ _ a b _ => shiftR w a (zext b 32)

/-- SSRA (R203). -/
def execSsra (f : WordS) (s : State) : Result :=
  s.scalarOp formShift 0x010 f fun w _ _ a b _ => shiftRA w a (zext b 32)

/-- SMIN (R203). -/
def execSmin (f : WordS) (s : State) : Result :=
  s.scalarOp formSN 0x011 f fun w sg _ a b _ => if asInt sg w a ≤ asInt sg w b then a else b

/-- SMAX (R203). -/
def execSmax (f : WordS) (s : State) : Result :=
  s.scalarOp formSN 0x012 f fun w sg _ a b _ => if asInt sg w a ≤ asInt sg w b then b else a

/-- The conditions of SSET and VSET (R203, R277): 0 eq, 1 ne, 2 lt, 3 le, 4 gt, 5 ge. -/
def compareInt (signed : Bool) (w cc a b : Nat) : Bool :=
  let x := asInt signed w a
  let y := asInt signed w b
  match cc with
  | 0 => x = y
  | 1 => x ≠ y
  | 2 => x < y
  | 3 => x ≤ y
  | 4 => x > y
  | _ => x ≥ y

/-- SSET (R203): the conditions 2 to 5 need a signed or unsigned type. -/
def execSset (f : WordS) (s : State) : Result :=
  s.scalarOp { form2 with dOne := true, subs := (· ≤ 5), types := fun t sub => tyScalar t && (sub < 2 || tyInt32 t) } 0x013 f fun w sg sub a b _ => if compareInt sg w sub a b then 1 else 0

/-- SSEL (R203). -/
def execSsel (f : WordS) (s : State) : Result :=
  s.scalarOp form3 0x014 f fun _ _ _ a b c => if zext c 32 ≠ 0 then a else b

/-- SCLZ (R203). -/
def execSclz (f : WordS) (s : State) : Result :=
  s.scalarOp formCount 0x015 f fun w _ _ a _ _ => leadZeros w a

/-- SFFS (R203). -/
def execSffs (f : WordS) (s : State) : Result :=
  s.scalarOp formCount 0x016 f fun w _ _ a _ _ => firstSet w a

/-- SPOPC (R203). -/
def execSpopc (f : WordS) (s : State) : Result :=
  s.scalarOp formCount 0x017 f fun w _ _ a _ _ => popCount w a

/-- SADDP (R203): b64 alone. -/
def execSaddp (f : WordS) (s : State) : Result :=
  s.scalarOp { formShift with types := fun t _ => t = tB64, lat32 := 3 } 0x018 f fun w _ _ a b _ => wrap ((a : Int) + sext b 32) w

/-- SLEA (R203): b64 alone. -/
def execSlea (f : WordS) (s : State) : Result :=
  s.scalarOp { formShift with types := fun t _ => t = tB64, srcs := 3, lat32 := 3 } 0x019 f fun w _ _ a b c => wrap ((a : Int) + sext b 32 * (2 ^ (bitsOf c 5 0) : Nat)) w

/-! Immediate moves and index registers -/

/-- What is checked of SMOVI: no RU, its own SUB value (R84, R204). -/
def planMove (f : WordSI) (sub n : Nat) : Plan :=
  ⟨clauseWord 0x003 f.bits, f.ru = 0 && f.sub.toNat = sub, false, [Use.dst (Want.sreg n) f.d], [], 0⟩

/-- A format-SI move of `v` to a destination of `n` registers (R204). -/
def State.moveImm (s : State) (f : WordSI) (sub : Nat) (n v lat : Nat) : Result :=
  s.issue fun c =>
    s.regular c (planMove f sub n) 0x003 f.stl lat fun os =>
      match os with
      | d :: _ => { writes := c.sput d v }
      | [] => {}

/-- SMOVI (R204). A SUB value that no form of SMOVI defines traps with ILLOP. -/
def execSmovi (f : WordSI) (s : State) : Result := s.moveImm f 0 1 f.imm.toNat 2

/-- SMOVI.b64 (R204). -/
def execSmoviB64 (f : WordSI) (s : State) : Result := s.moveImm f 1 2 (wrap (sext f.imm.toNat 32) 64) 3

/-- What is checked of IXSET. -/
def planIx (f : WordS) : Plan :=
  ⟨clauseWord 0x01A f.bits, f.sub.toNat < 4 && f.d = 0 && f.b = 0 && f.c = 0 && f.ty = 0 && ruOk f.ru 0b100, false,
    [Use.src (Want.ssrc tB32) f.a], [], 0⟩

/-- IXSET (R205): SUB[1:0] selects the index register. -/
def execIxset (f : WordS) (s : State) : Result :=
  s.issue fun c =>
    let n := f.sub.toNat % 4
    s.regular c (planIx f) 0x01A f.stl 2 fun os =>
      match os with
      | a :: _ => { writes := [(.ix n, BitVec.ofNat 32 (c.scalar a % 256))] }
      | [] => {}

/-! Mask instructions (R206) -/

/-- What is checked of a mask instruction: TY, SUB and the fields it does not use are zero. -/
def planK (op : BitVec 10) (f : WordS) (two : Bool) (d : Want) : Plan :=
  ⟨clauseWord op f.bits, f.ty = 0 && f.sub = 0 && f.c = 0 && (two || f.b = 0) && ruOk f.ru (if two then 0b110 else 0b100),
    false, [Use.dst d f.d, Use.src Want.mask f.a] ++ (if two then [Use.src Want.mask f.b] else []), [], 0⟩

/-- A mask instruction on one or two masks; `e` gives the result. -/
def State.maskOp (s : State) (op : BitVec 10) (f : WordS) (two : Bool) (e : Lanes → Lanes → Lanes) : Result :=
  s.issue fun c =>
    s.regular c (planK op f two Want.mask) op f.stl 2 fun os =>
      match os with
      | d :: a :: r => { writes := c.kput d (e (c.kmask a) ((r.head?.map c.kmask).getD 0)) }
      | _ => {}

/-- A mask instruction that writes a scalar. -/
def State.maskCount (s : State) (op : BitVec 10) (f : WordS) (e : Lanes → Nat) : Result :=
  s.issue fun c =>
    s.regular c (planK op f false (Want.sreg 1)) op f.stl 3 fun os =>
      match os with
      | d :: a :: _ => { writes := c.sput d (e (c.kmask a)) }
      | _ => {}

/-- KMOV (R206). -/
def execKmov (f : WordS) (s : State) : Result := s.maskOp 0x01B f false fun a _ => a
/-- KAND (R206). -/
def execKand (f : WordS) (s : State) : Result := s.maskOp 0x01C f true fun a b => a &&& b
/-- KOR (R206). -/
def execKor (f : WordS) (s : State) : Result := s.maskOp 0x01D f true fun a b => a ||| b
/-- KXOR (R206). -/
def execKxor (f : WordS) (s : State) : Result := s.maskOp 0x01E f true fun a b => a ^^^ b
/-- KANDN (R206). -/
def execKandn (f : WordS) (s : State) : Result := s.maskOp 0x01F f true fun a b => a &&& ~~~b
/-- KNOT (R206). -/
def execKnot (f : WordS) (s : State) : Result := s.maskOp 0x020 f false fun a _ => ~~~a
/-- KPOPC (R206). -/
def execKpopc (f : WordS) (s : State) : Result := s.maskCount 0x021 f fun a => popCount 96 a.toNat
/-- KFFS (R206). -/
def execKffs (f : WordS) (s : State) : Result := s.maskCount 0x022 f lowLane

end Sys2Proof.Machine
end

