-- ==== Sys2Proof/Machine/Vector.lean ====
section
/-!
DEFINITION. The class-1 instructions of the vector engine: integer and bit operations, lane movement and reduction
(R266 to R285), with the forms that class 2 and class 3 share.
-/
namespace Sys2Proof.Machine

/-! Forms of format V -/

/-- Field use of a format-V instruction (R84, R86, R269): which sources it reads, whether C is its control value CF,
and whether it rounds. -/
structure VFields where
  a : Bool
  b : Bool
  c : Bool
  cf : Bool
  rm : Bool

def VFields.ok (k : VFields) (f : WordV) : Bool :=
  (k.a || f.a = 0) && (k.b || f.b = 0) && (k.c || k.cf || f.c = 0) && (k.rm || f.rm = 0)
    && ruOk f.ru ((if k.a then 0b100 else 0) ||| (if k.b then 0b010 else 0) ||| (if k.c then 0b001 else 0))

/-- One source, two and three sources, none; with CF where C is free. -/
def fields0 : VFields := ⟨false, false, false, false, false⟩
def fields1 : VFields := { fields0 with a := true }
def fields2 : VFields := { fields1 with b := true }
def fields3 : VFields := { fields2 with c := true }
def VFields.withCf (k : VFields) : VFields := { k with cf := true }
def VFields.rounds (k : VFields) : VFields := { k with rm := true }

/-- CF of R269. -/
def cfOf (f : WordV) : Nat := f.c.toNat

/-- The cells of every lane of an operand of which every lane is read (R272). -/
def Ctx.wideCells (c : Ctx) (u : Use) : List RegCell :=
  match resolve c.ix u.want u.field with
  | some o => if o.inBounds c.nS c.nV c.h.sup then o.cells c.h.sup c.x (laneList allLanes) else []
  | none => []

/-- What is checked of a format-V instruction. -/
def Ctx.planV (c : Ctx) (op : BitVec 10) (f : WordV) (legal : Bool) (uses wide : List Use) : Plan :=
  ⟨clauseWord op f.bits, legal, false, uses, c.maskCells f.km.toNat ++ wide.flatMap c.wideCells, c.active f.km⟩

/-- A vector instruction: checks, then its effect in the context and on its operands. `early` are operands whose data
settle its legality, `wide` those of which every lane is read (R272). -/
def State.vectorIf (s : State) (op : BitVec 10) (f : WordV) (legal : Ctx → Bool) (early uses : List Use)
    (wide : List Use) (lat : Nat) (e : Ctx → List Opnd → Eff) : Result :=
  s.issue fun c =>
    let p := c.planV op f (legal c) uses wide
    match c.earlyWait early p with
    | [] => s.regular c p op f.stl lat (e c)
    | cs => s.holdOn c (.cells cs)

/-- A vector instruction whose legality its word settles. -/
def State.vector (s : State) (op : BitVec 10) (f : WordV) (legal : Bool) (uses : List Use) (wide : List Use)
    (lat : Nat) (e : Ctx → List Opnd → Eff) : Result :=
  s.issue fun c => s.regular c (c.planV op f legal uses wide) op f.stl lat (e c)

/-- The uses of D and of the first `n` sources, all of type t. -/
def vUses (t n : Nat) (f : WordV) : List Use :=
  [Use.dst (Want.vreg (tyRegs t)) f.d, Use.src (Want.vsrc t) f.a]
    ++ (if n ≥ 2 then [Use.src (Want.vsrc t) f.b] else [])
    ++ (if n ≥ 3 then [Use.src (Want.vsrc t) f.c] else [])

/-- The i-th operand's value in lane j, and element e of it at type t. -/
def opLane (c : Ctx) (os : List Opnd) (i j : Nat) : Nat := ((os[i]?).map fun o => c.lane o j).getD 0
def opElem (c : Ctx) (os : List Opnd) (t i j e : Nat) : Nat := elemOf (opLane c os i j) (tyWidth t) e

/-- Elements `f 0`, `f 1`, ... of a lane of type t. -/
def laneOf (t : Nat) (f : Nat → Nat) : Nat := packElems (tyWidth t) ((List.range (tyElems t)).map f)

/-- The effect of writing D in the lanes of the active set. -/
def toLanes (c : Ctx) (f : WordV) (os : List Opnd) (v : Nat → Nat) : Eff :=
  match os with
  | d :: _ => { writes := c.vput d f.km f.z v }
  | [] => {}

/-- Latency `n`, or `m` for 64-bit types (R268). -/
def lat64 (t n m : Nat) : Nat := if tyWide t then m else n

/-- An elementwise instruction on `n` sources of one type (R273): `e` gives the element from the width, the
signedness and the sources' elements. -/
def State.elementwise (s : State) (op : BitVec 10) (f : WordV) (legal : Bool) (n lat : Nat)
    (e : Nat → Bool → Nat → Nat → Nat → Nat) : Result :=
  let t := f.ty.toNat
  s.vector op f legal (vUses t n f) [] lat fun c os =>
    toLanes c f os fun j => laneOf t fun i =>
      e (tyWidth t) (tySigned t) (opElem c os t 1 j i) (opElem c os t 2 j i) (opElem c os t 3 j i)

def latInt (f : WordV) : Nat := lat64 f.ty.toNat 4 6
def latMul (f : WordV) : Nat := lat64 f.ty.toNat 6 10

/-! Arithmetic and logic (R273) -/

/-- VADD (R273). -/
def execVadd (f : WordV) (s : State) : Result :=
  let ok := fields2.withCf.ok f && ((cfOf f = 0 && tyBits f.ty.toNat) || (cfOf f = 1 && tyInt f.ty.toNat))
  s.elementwise 0x083 f ok 2 (latInt f) fun w sg a b _ =>
    if cfOf f = 0 then (a + b) % 2 ^ w
    else wrap (satInt (asInt sg w a + asInt sg w b) (intMin sg w) (intMax sg w)) w

/-- VSUB (R273). -/
def execVsub (f : WordV) (s : State) : Result :=
  let ok := fields2.withCf.ok f && ((cfOf f = 0 && tyBits f.ty.toNat) || (cfOf f = 1 && tyInt f.ty.toNat))
  s.elementwise 0x084 f ok 2 (latInt f) fun w sg a b _ =>
    if cfOf f = 0 then (a + (2 ^ w - b)) % 2 ^ w
    else wrap (satInt (asInt sg w a - asInt sg w b) (intMin sg w) (intMax sg w)) w

/-- VMUL (R273). -/
def execVmul (f : WordV) (s : State) : Result :=
  s.elementwise 0x085 f (fields2.ok f && tyBits f.ty.toNat) 2 (latMul f) fun w _ a b _ => a * b % 2 ^ w

/-- VMULH (R273). -/
def execVmulh (f : WordV) (s : State) : Result :=
  s.elementwise 0x086 f (fields2.ok f && tyInt f.ty.toNat) 2 (latMul f) fun w sg a b _ =>
    wrap (asInt sg w a * asInt sg w b / (2 ^ w : Nat)) w

/-- VMAD (R273). -/
def execVmad (f : WordV) (s : State) : Result :=
  s.elementwise 0x087 f (fields3.ok f && tyBits f.ty.toNat) 3 (latMul f) fun w _ a b c => (a * b + c) % 2 ^ w

/-- VABSD (R273). -/
def execVabsd (f : WordV) (s : State) : Result :=
  s.elementwise 0x088 f (fields2.ok f && tyInt f.ty.toNat) 2 (latInt f) fun w sg a b _ =>
    (asInt sg w a - asInt sg w b).natAbs % 2 ^ w

/-- VMIN (R273). -/
def execVmin (f : WordV) (s : State) : Result :=
  s.elementwise 0x089 f (fields2.ok f && tyInt f.ty.toNat) 2 (latInt f) fun w sg a b _ =>
    if asInt sg w a ≤ asInt sg w b then a else b

/-- VMAX (R273). -/
def execVmax (f : WordV) (s : State) : Result :=
  s.elementwise 0x08A f (fields2.ok f && tyInt f.ty.toNat) 2 (latInt f) fun w sg a b _ =>
    if asInt sg w a ≤ asInt sg w b then b else a

/-- VAND (R273). -/
def execVand (f : WordV) (s : State) : Result :=
  s.elementwise 0x08B f (fields2.ok f && tyBits f.ty.toNat) 2 (latInt f) fun _ _ a b _ => a &&& b

/-- VOR (R273). -/
def execVor (f : WordV) (s : State) : Result :=
  s.elementwise 0x08C f (fields2.ok f && tyBits f.ty.toNat) 2 (latInt f) fun _ _ a b _ => a ||| b

/-- VXOR (R273). -/
def execVxor (f : WordV) (s : State) : Result :=
  s.elementwise 0x08D f (fields2.ok f && tyBits f.ty.toNat) 2 (latInt f) fun _ _ a b _ => a ^^^ b

/-- VANDN (R273). -/
def execVandn (f : WordV) (s : State) : Result :=
  s.elementwise 0x08E f (fields2.ok f && tyBits f.ty.toNat) 2 (latInt f) fun w _ a b _ => a &&& notBits w b

/-! Shifts and counts (R274, R275) -/

/-- The shift count of an element (R274). -/
def shiftCount (w b : Nat) : Nat := if w = 64 then zext b 32 else b

/-- VSHL (R274). -/
def execVshl (f : WordV) (s : State) : Result :=
  s.elementwise 0x08F f (fields2.ok f && tyBits f.ty.toNat) 2 (latInt f) fun w _ a b _ => shiftL w a (shiftCount w b)

/-- VSHR (R274). -/
def execVshr (f : WordV) (s : State) : Result :=
  s.elementwise 0x090 f (fields2.ok f && tyBits f.ty.toNat) 2 (latInt f) fun w _ a b _ => shiftR w a (shiftCount w b)

/-- VSRA (R274). -/
def execVsra (f : WordV) (s : State) : Result :=
  s.elementwise 0x091 f (fields2.ok f && tyBits f.ty.toNat) 2 (latInt f) fun w _ a b _ => shiftRA w a (shiftCount w b)

/-- VROT (R274). -/
def execVrot (f : WordV) (s : State) : Result :=
  s.elementwise 0x092 f (fields2.ok f && tyBits f.ty.toNat) 2 (latInt f) fun w _ a b _ => rotL w a (shiftCount w b)

/-- VCLZ (R275). -/
def execVclz (f : WordV) (s : State) : Result :=
  s.elementwise 0x093 f (fields1.ok f && tyBits f.ty.toNat) 1 (latInt f) fun w _ a _ _ => leadZeros w a

/-- VFFS (R275). -/
def execVffs (f : WordV) (s : State) : Result :=
  s.elementwise 0x094 f (fields1.ok f && tyBits f.ty.toNat) 1 (latInt f) fun w _ a _ _ => firstSet w a

/-- VPOPC (R275). -/
def execVpopc (f : WordV) (s : State) : Result :=
  s.elementwise 0x095 f (fields1.ok f && tyBits f.ty.toNat) 1 (latInt f) fun w _ a _ _ => popCount w a

/-- VBREV (R275). -/
def execVbrev (f : WordV) (s : State) : Result :=
  s.elementwise 0x096 f (fields1.ok f && tyBits f.ty.toNat) 1 (latInt f) fun w _ a _ _ => bitRev w a

/-! Bit fields (R276) -/

/-- vbfe of R276 at width w. -/
def bitExtract (w : Nat) (signed : Bool) (a o n : Nat) : Nat :=
  if n = 0 || o ≥ w then 0
  else
    let hi := min (o + n) w - 1
    let x := bitsOf a hi o
    if signed then wrap (sext x (hi - o + 1)) w else x

/-- vbfi of R276 at width w. -/
def bitInsert (w d a o n : Nat) : Nat :=
  if n = 0 || o ≥ w then d
  else
    let hi := min (o + n) w - 1
    let k := hi - o + 1
    d % 2 ^ o + a % 2 ^ k * 2 ^ o + d / 2 ^ (hi + 1) * 2 ^ (hi + 1)

/-- VBFE (R276): B and C are 32-bit operands. -/
def execVbfe (f : WordV) (s : State) : Result :=
  let t := f.ty.toNat
  let uses := vUses t 1 f ++ [Use.src (Want.vsrc tB32) f.b, Use.src (Want.vsrc tB32) f.c]
  s.vector 0x097 f (fields3.ok f && tyInt32 t) uses [] (latInt f) fun c os =>
    toLanes c f os fun j => bitExtract (tyWidth t) (tySigned t) (opLane c os 1 j) (opLane c os 2 j) (opLane c os 3 j)

/-- VBFI (R276): the destination is a fourth source. -/
def execVbfi (f : WordV) (s : State) : Result :=
  let t := f.ty.toNat
  let uses := [Use.both (Want.vreg (tyRegs t)) f.d, Use.src (Want.vsrc t) f.a, Use.src (Want.vsrc tB32) f.b,
    Use.src (Want.vsrc tB32) f.c]
  s.vector 0x098 f (fields3.ok f && (t = tB32 || t = tB64)) uses [] (latInt f) fun c os =>
    toLanes c f os fun j =>
      bitInsert (tyWidth t) (opLane c os 0 j) (opLane c os 1 j) (opLane c os 2 j) (opLane c os 3 j)

/-! Comparison, selection, ranges (R277, R278) -/

/-- The mask that the cells of an operand hold, results not yet visible under R99 included: the lanes of it that an
instruction keeps. -/
def Ctx.kheld (c : Ctx) (d : Opnd) : Lanes :=
  match d.cells c.h.sup c.x [] with
  | [a, b, e] => lanesOfWords (c.h.cell a) (c.h.cell b) (c.h.cell e)
  | _ => 0

/-- Lane results written to a k-mask (R271). -/
def toMask (c : Ctx) (f : WordV) (d : Opnd) (v : Nat → Bool) : Eff :=
  let act := c.active f.km
  let old := c.kheld d
  let new := lanesOf fun j =>
    if act.getLsbD j then v j
    else if c.exec.getLsbD j then (f.z = 0 && old.getLsbD j)
    else old.getLsbD j
  { writes := c.kput d new }

/-- A comparison's destination: a vector or a k-mask. -/
def compareDst (n : Nat) (f : WordV) : Use := Use.dst (Want.vork n) f.d

/-- A comparison written to a vector or to a k-mask (R271, R277, R288); `e` compares element i of lane j. -/
def compareTo (c : Ctx) (f : WordV) (os : List Opnd) (t : Nat) (e : Nat → Nat → Bool) : Eff :=
  match os with
  | .k m :: _ => toMask c f (.k m) fun j => e j 0
  | d :: _ => { writes := c.vput d f.km f.z fun j => laneOf t fun i => if e j i then 2 ^ tyWidth t - 1 else 0 }
  | [] => {}

/-- VSET (R277). -/
def execVset (f : WordV) (s : State) : Result :=
  let t := f.ty.toNat
  let cc := cfOf f
  let ok := fields2.withCf.ok f && cc ≤ 5 && tyBits t && (cc < 2 || tyInt t) && (opKind f.d ≠ 1 || tyElems t = 1)
  let uses := [compareDst (tyRegs t) f, Use.src (Want.vsrc t) f.a, Use.src (Want.vsrc t) f.b]
  s.vector 0x099 f ok uses [] (latInt f) fun c os =>
    compareTo c f os t fun j i => compareInt (tySigned t) (tyWidth t) cc (opElem c os t 1 j i) (opElem c os t 2 j i)

/-- VSEL (R277). -/
def execVsel (f : WordV) (s : State) : Result :=
  s.elementwise 0x09A f (fields3.ok f && tyBits f.ty.toNat) 3 (latInt f) fun _ _ a b c => if c ≠ 0 then a else b

/-- VSAT (R278): CF names the range's type. -/
def execVsat (f : WordV) (s : State) : Result :=
  let t := f.ty.toNat
  let r := cfOf f
  let ok := fields1.withCf.ok f && (t = tS32 || t = tN32) && 1 ≤ r && r ≤ 4
  s.elementwise 0x09B f ok 1 (latInt f) fun w sg a _ _ =>
    wrap (satInt (asInt sg w a) (intMin (tySigned r) (tyWidth r)) (intMax (tySigned r) (tyWidth r))) w

/-- VPACK (R278): the sources' elements, twice as wide, are read as signed. -/
def execVpack (f : WordV) (s : State) : Result :=
  let t := f.ty.toNat
  let w := tyWidth t
  let half := tyElems t / 2
  let ok := fields2.withCf.ok f && 1 ≤ t && t ≤ 4 && cfOf f ≤ 1
  let ct := if w = 8 then tS16 else tS32
  let uses := [Use.dst (Want.vreg 1) f.d, Use.src (Want.vsrc ct) f.a, Use.src (Want.vsrc ct) f.b]
  s.vector 0x09C f ok uses [] (latInt f) fun c os =>
    toLanes c f os fun j => laneOf t fun i =>
      let x := elemOf (opLane c os (if i < half then 1 else 2) j) (2 * w) (i % half)
      if cfOf f = 0 then x % 2 ^ w
      else wrap (satInt (sext x (2 * w)) (intMin (tySigned t) w) (intMax (tySigned t) w)) w

/-- VUNPK (R278): the half of the lane that CF names, each element widened. -/
def execVunpk (f : WordV) (s : State) : Result :=
  let t := f.ty.toNat
  let w := tyWidth t
  let half := tyElems t / 2
  let ok := fields1.withCf.ok f && 1 ≤ t && t ≤ 4 && cfOf f ≤ 1
  s.vector 0x09D f ok (vUses t 1 f) [] (latInt f) fun c os =>
    toLanes c f os fun j => packElems (2 * w) ((List.range half).map fun i =>
      wrap (asInt (tySigned t) w (elemOf (opLane c os 1 j) w (i + half * cfOf f))) (2 * w))

/-! Moves and lane movement (R279 to R284) -/

/-- VMOV (R279): the value in its type's layout, so that narrow types write zero above (R97). -/
def execVmov (f : WordV) (s : State) : Result :=
  let t := f.ty.toNat
  s.elementwise 0x081 f (fields1.ok f && t ≤ 17) 1 (latInt f) fun _ _ a _ _ => a

/-- What is checked of a format-VI instruction: bits [42:41] zero, no RU (R83, R84). -/
def Ctx.planVI (c : Ctx) (op : BitVec 10) (f : WordVI) (legal : Bool) (use : Use) (wide : Bool) : Plan :=
  ⟨clauseWord op f.bits, legal && f.zero = 0 && f.ru = 0, false, [use],
    c.maskCells f.km.toNat ++ (if wide then c.wideCells use else []), c.active f.km⟩

/-- A format-VI instruction: `v` gives lane j's value from the context and the destination. -/
def State.vectorImm (s : State) (op : BitVec 10) (f : WordVI) (legal : Bool) (lat : Nat) (use : Use)
    (wide : Bool) (v : Ctx → Opnd → Nat → Nat) : Result :=
  s.issue fun c =>
    s.regular c (c.planVI op f legal use wide) op f.stl lat fun os =>
      match os with
      | d :: _ => { writes := c.vput d f.km f.z (v c d) }
      | [] => {}

/-- VMOVI (R279). -/
def execVmovi (f : WordVI) (s : State) : Result :=
  s.vectorImm 0x082 f true 4 (Use.dst (Want.vreg 1) f.d) false fun _ _ _ => f.imm.toNat

/-- VLANE (R280). -/
def execVlane (f : WordV) (s : State) : Result :=
  s.vector 0x0A2 f (fields0.ok f && f.ty = 6) [Use.dst (Want.vreg 1) f.d] [] 4 fun c os => toLanes c f os id

/-- Lane i of an operand, 0 when there is none (R280 to R284). -/
def laneOr0 (c : Ctx) (os : List Opnd) (k i : Nat) : Nat := if i < 96 then opLane c os k i else 0

/-- VBCAST (R280). -/
def execVbcast (f : WordV) (s : State) : Result :=
  let t := f.ty.toNat
  let a := Use.src (Want.vsrc t) f.a
  let uses := [Use.dst (Want.vreg (tyRegs t)) f.d, a, Use.src (Want.vscal tB32) f.b]
  s.vector 0x0A0 f (fields2.ok f && (t = tB32 || t = tB64)) uses [a] 6 fun c os =>
    toLanes c f os fun _ => laneOr0 c os 1 (opLane c os 2 0)

/-- VSHFL (R281). -/
def execVshfl (f : WordV) (s : State) : Result :=
  let t := f.ty.toNat
  s.vector 0x09E f (fields2.ok f && (t = tB32 || t = tB64)) (vUses t 2 f) [Use.src (Want.vsrc t) f.a] 8 fun c os =>
    toLanes c f os fun j => laneOr0 c os 1 (zext (opLane c os 2 j) 32)

/-- The lane that lane j receives in a mode of VSHFI, 96 for none (R282). -/
def shiftedLane (mode n j : Nat) : Nat :=
  match mode with
  | 0 => (j + n) % 96
  | 1 => j ^^^ n
  | 2 => if j < n then 96 else j - n
  | _ => j + n

/-- VSHFI (R282). -/
def execVshfi (f : WordVI) (s : State) : Result :=
  let i := f.imm.toNat
  let mode := bitsOf i 31 28
  let n := bitsOf i 6 0
  let ok := mode ≤ 3 && bitsOf i 27 7 = 0 && (mode = 1 || n < 96)
  s.vectorImm 0x09F f ok 6 (Use.both (Want.vreg 1) f.d) true fun c d j => laneOr0 c [d] 0 (shiftedLane mode n j)

/-- VCMPRS (R283). -/
def execVcmprs (f : WordV) (s : State) : Result :=
  let t := f.ty.toNat
  s.vector 0x0A1 f (fields1.ok f && (t = tB32 || t = tB64)) (vUses t 1 f) [] 8 fun c os =>
    match os with
    | d :: _ =>
      let from_ := laneList (c.active f.km)
      let cells (e : Nat) := d.cells c.h.sup c.x [e]
      { writes := (laneList c.exec).zipIdx.flatMap fun p =>
          match from_[p.2]? with
          | some i => (cells p.1).zip (wordsOf 2 (opLane c os 1 i))
          | none => if f.z = 1 then (cells p.1).zip [0, 0] else [] }
    | [] => {}

/-- A scalar destination in the V column, written once (R271). -/
def toScalar (c : Ctx) (os : List Opnd) (v : Nat) : Eff :=
  match os with
  | d :: _ => { writes := c.sput d v }
  | [] => {}

/-- VRDLN (R284). -/
def execVrdln (f : WordV) (s : State) : Result :=
  let t := f.ty.toNat
  let a := Use.src (Want.vsrc t) f.a
  let uses := [Use.dst (Want.vsonly (tyRegs t)) f.d, a, Use.src (Want.vscal tB32) f.b]
  s.vector 0x0A3 f (fields2.ok f && (t = tB32 || t = tB64) && f.km = 7 && f.z = 0) uses [a] 6 fun c os =>
    toScalar c os (laneOr0 c os 1 (opLane c os 2 0))

/-- VWRLN (R284). -/
def execVwrln (f : WordV) (s : State) : Result :=
  let t := f.ty.toNat
  let uses := [Use.dst (Want.vreg (tyRegs t)) f.d, Use.src (Want.vscal t) f.a, Use.src (Want.vscal tB32) f.b]
  s.vector 0x0A4 f (fields2.ok f && (t = tB32 || t = tB64) && f.z = 0) uses [] 6 fun c os =>
    match os with
    | d :: _ =>
      let i := opLane c os 2 0
      { writes := if i < 96 && (c.active f.km).getLsbD i then
          (d.cells c.h.sup c.x [i]).zip (wordsOf 2 (opLane c os 1 0)) else [] }
    | [] => {}

/-- One step of a VRED operation, and its result for an empty active set (R285). -/
def redStep (op : Nat) (sg : Bool) (w a b : Nat) : Nat :=
  match op with
  | 0 => (a + b) % 2 ^ w
  | 1 => if asInt sg w a ≤ asInt sg w b then a else b
  | 2 => if asInt sg w a ≤ asInt sg w b then b else a
  | 3 => a &&& b
  | 4 => a ||| b
  | _ => a ^^^ b
def redEmpty (op : Nat) (sg : Bool) (w : Nat) : Nat :=
  match op with
  | 1 => wrap (intMax sg w) w
  | 2 => wrap (intMin sg w) w
  | 3 => 2 ^ w - 1
  | _ => 0

/-- A scalar destination leaves no lane to Z, which must then be zero (R84, R85). -/
def eitherOk (f : WordV) : Bool := opKind f.d ≠ 1 || f.z = 0

/-- The effect of a result that a scalar destination receives once and a vector one in every lane of the active set
(R271, R285, R296). -/
def toEither (c : Ctx) (f : WordV) (os : List Opnd) (v : Nat) : Eff :=
  match os with
  | .s r n :: _ => { writes := c.sput (.s r n) v }
  | d :: _ => { writes := c.vput d f.km f.z fun _ => v }
  | [] => {}

/-- VRED (R285). -/
def execVred (f : WordV) (s : State) : Result :=
  let t := f.ty.toNat
  let op := cfOf f
  let ok := fields1.withCf.ok f && (t = tB32 || t = tB64 || tyInt32 t) && op ≤ 5 &&
    (tyInt32 t || (op ≠ 1 && op ≠ 2)) && eitherOk f
  s.vector 0x0A5 f ok [Use.dst (Want.vors (tyRegs t)) f.d, Use.src (Want.vsrc t) f.a] [] 10 fun c os =>
    toEither c f os (((laneList (c.active f.km)).map fun j => opLane c os 1 j).foldl
      (redStep op (tySigned t) (tyWidth t)) (redEmpty op (tySigned t) (tyWidth t)))

end Sys2Proof.Machine
end

