-- ==== Sys2Proof/Machine/Float.lean ====
section
/-!
DEFINITION. The class-2 instructions: floating point (R286 to R292) and the exact accumulator (R293 to R296). Each
lane's conditions go to GSTAT and to the collection of FPEXC (R172, R297).
-/
namespace Sys2Proof.Machine

/-! Results with conditions -/

/-- A lane result and its conditions in every lane of the active set. -/
def toLanesCond (c : Ctx) (f : WordV) (os : List Opnd) (v : Nat → Delivered) : Eff :=
  let rs := (laneList (c.active f.km)).map fun j => (j, v j)
  match os with
  | d :: _ =>
    { writes := c.vput d f.km f.z fun j => ((assocFind rs j).map Delivered.enc).getD 0
      conds := rs.map fun p => (p.1, p.2.cond) }
  | [] => {}

/-- The union of conditions. -/
def condUnion (l : List Nat) : Nat := l.foldl (· ||| ·) 0

/-- A lane of type t from its elements' results. -/
def laneDelivered (t : Nat) (f : Nat → Delivered) : Delivered :=
  let rs := (List.range (tyElems t)).map f
  ⟨packElems (tyWidth t) (rs.map Delivered.enc), condUnion (rs.map Delivered.cond)⟩

/-- Subnormal flushing of vector floating point under the launch's contract (R171, R175). -/
def Ctx.flush (c : Ctx) : Bool := vecFlush c.l.contract

/-- An elementwise floating-point instruction on `n` sources (R286): `e` takes the format, the mode, the flush and the
sources' encodings. -/
def State.floatOp (s : State) (op : BitVec 10) (f : WordV) (legal : Bool) (n lat : Nat)
    (e : FF → Mode → Bool → Nat → Nat → Nat → Delivered) : Result :=
  let t := f.ty.toNat
  s.vector op f (legal && tyFloat t) (vUses t n f) [] lat fun c os =>
    let k := (ffOf t).getD .f32
    toLanesCond c f os fun j => laneDelivered t fun i =>
      e k (.ofRM f.rm) c.flush (opElem c os t 1 j i) (opElem c os t 2 j i) (opElem c os t 3 j i)

/-- Latency of the arithmetic forms (R268). -/
def latFp (f : WordV) : Nat := lat64 f.ty.toNat 6 10

/-- Invalid for 0 × ∞ (R172). -/
def mulInvalid (a b : Val) : Bool := (a.isInf && b.isZero) || (a.isZero && b.isInf)

/-- Invalid for infinities of both signs in a sum (R172). -/
def sumInvalid (l : List Val) : Bool := (l.any fun v => v.isInf && v.isNeg) && l.any fun v => v.isInf && !v.isNeg

/-- A rounded result with the conditions of its operands. -/
def FF.finish (k : FF) (m : Mode) (fl : Bool) (v : Val) (cond : Nat) : Delivered :=
  let r := k.ofVal m fl v
  ⟨r.enc, r.cond ||| cond⟩

/-- round(a + b) (R287). -/
def fpAdd (k : FF) (m : Mode) (fl : Bool) (a b : Val) : Delivered :=
  k.finish m fl (Val.sum [a, b]) (snanCond [a, b] ||| (if sumInvalid [a, b] then condNV else 0))

/-- round(a × b) (R287). -/
def fpMul (k : FF) (m : Mode) (fl : Bool) (a b : Val) : Delivered :=
  k.finish m fl (a.mul b) (snanCond [a, b] ||| (if mulInvalid a b then condNV else 0))

/-- round(a × b + c) with one rounding (R287). -/
def fpFma (k : FF) (m : Mode) (fl : Bool) (a b c : Val) : Delivered :=
  let p := a.mul b
  k.finish m fl (Val.sum [p, c])
    (snanCond [a, b, c] ||| (if mulInvalid a b || sumInvalid [p, c] then condNV else 0))

/-- FADD (R287). -/
def execFadd (f : WordV) (s : State) : Result :=
  s.floatOp 0x101 f (fields2.rounds.ok f) 2 (latFp f) fun k m fl a b _ => fpAdd k m fl (k.read fl a) (k.read fl b)

/-- FSUB (R287). -/
def execFsub (f : WordV) (s : State) : Result :=
  s.floatOp 0x102 f (fields2.rounds.ok f) 2 (latFp f) fun k m fl a b _ =>
    fpAdd k m fl (k.read fl a) (k.read fl b).neg

/-- FMUL (R287). -/
def execFmul (f : WordV) (s : State) : Result :=
  s.floatOp 0x103 f (fields2.rounds.ok f) 2 (latFp f) fun k m fl a b _ => fpMul k m fl (k.read fl a) (k.read fl b)

/-- FFMA (R287). -/
def execFfma (f : WordV) (s : State) : Result :=
  s.floatOp 0x104 f (fields3.rounds.ok f) 3 (latFp f) fun k m fl a b c =>
    fpFma k m fl (k.read fl a) (k.read fl b) (k.read fl c)

/-- FMIN and FMAX (R287): the lesser operand, or the greater, as read. -/
def fpMinMax (greatest : Bool) (k : FF) (fl : Bool) (x y : Nat) : Delivered :=
  let a := k.read fl x
  let b := k.read fl y
  let enc (v : Val) := k.enc .rne false v
  if a.isSnan || b.isSnan then ⟨k.nan, condNV⟩
  else if a.isNan && b.isNan then ⟨k.nan, 0⟩
  else if a.isNan then ⟨enc b, 0⟩
  else if b.isNan then ⟨enc a, 0⟩
  else if greatest then ⟨if a.below b then enc b else enc a, 0⟩
  else ⟨if b.below a then enc b else enc a, 0⟩

/-- FMIN (R287). -/
def execFmin (f : WordV) (s : State) : Result :=
  s.floatOp 0x105 f (fields2.ok f) 2 (latFp f) fun k _ fl a b _ => fpMinMax false k fl a b

/-- FMAX (R287). -/
def execFmax (f : WordV) (s : State) : Result :=
  s.floatOp 0x106 f (fields2.ok f) 2 (latFp f) fun k _ fl a b _ => fpMinMax true k fl a b

/-- FABS (R287). -/
def execFabs (f : WordV) (s : State) : Result :=
  s.floatOp 0x107 f (fields1.ok f) 1 (lat64 f.ty.toNat 4 6) fun k _ _ a _ _ => ⟨a % k.signBit, 0⟩

/-- FNEG (R287). -/
def execFneg (f : WordV) (s : State) : Result :=
  s.floatOp 0x108 f (fields1.ok f) 1 (lat64 f.ty.toNat 4 6) fun k _ _ a _ _ => ⟨a ^^^ k.signBit, 0⟩

/-- FCPSN (R287). -/
def execFcpsn (f : WordV) (s : State) : Result :=
  s.floatOp 0x109 f (fields2.ok f) 2 (lat64 f.ty.toNat 4 6) fun k _ _ a b _ =>
    ⟨a % k.signBit + (if k.sign b then k.signBit else 0), 0⟩

/-- FRND (R287): the integral value, with the sign of the exact value when it is zero (R170). -/
def fpRound (k : FF) (m : Mode) (v : Val) : Delivered :=
  match v with
  | .fin x => ⟨k.enc .rne false (Val.ofDy (Dy.ofInt (x.toInt m)) x.isNeg), 0⟩
  | v => ⟨k.enc .rne false v, snanCond [v]⟩

/-- FRND (R287). -/
def execFrnd (f : WordV) (s : State) : Result :=
  s.floatOp 0x10C f (fields1.rounds.ok f) 1 (latFp f) fun k m fl a _ _ => fpRound k m (k.read fl a)

/-! Comparison and class -/

/-- Equality of two values that are no NaN: -0 equals +0 (R288). -/
def Val.same (a b : Val) : Bool :=
  (a.isZero && b.isZero) || (!a.below b && !b.below a)

/-- The conditions of FSET (R288), with invalid. -/
def fpCompare (cc : Nat) (a b : Val) : Bool × Nat :=
  let un := a.isNan || b.isNan
  let lt := !un && a.below b && !a.same b
  let eq := !un && a.same b
  let holds :=
    match cc with
    | 0 => eq
    | 1 => !eq
    | 2 => lt
    | 3 => lt || eq
    | 4 => !un && !lt && !eq
    | 5 => !un && !lt
    | 6 => un
    | _ => !un
  (holds, if (2 ≤ cc && cc ≤ 5 && un) || a.isSnan || b.isSnan then condNV else 0)

/-- FSET (R288). -/
def execFset (f : WordV) (s : State) : Result :=
  let t := f.ty.toNat
  let cc := cfOf f
  let ok := fields2.withCf.ok f && cc ≤ 7 && tyFloat t && (opKind f.d ≠ 1 || tyElems t = 1)
  let uses := [compareDst (tyRegs t) f, Use.src (Want.vsrc t) f.a, Use.src (Want.vsrc t) f.b]
  s.vector 0x10A f ok uses [] (lat64 t 4 6) fun c os =>
    let k := (ffOf t).getD .f32
    let r (j i : Nat) := fpCompare cc (k.read c.flush (opElem c os t 1 j i)) (k.read c.flush (opElem c os t 2 j i))
    { compareTo c f os t fun j i => (r j i).1 with
      conds := (laneList (c.active f.km)).map fun j =>
        (j, condUnion ((List.range (tyElems t)).map fun i => (r j i).2)) }

/-- The class mask of an encoding (R289). -/
def fpClass (k : FF) (b : Nat) : Nat :=
  let sub := k.expField b = 0
  match k.value b with
  | .nan sig => if sig then 2 ^ 8 else 2 ^ 9
  | .inf n => if n then 2 ^ 0 else 2 ^ 7
  | .zero n => if n then 2 ^ 3 else 2 ^ 4
  | .fin x => if x.isNeg then (if sub then 2 ^ 2 else 2 ^ 1) else (if sub then 2 ^ 5 else 2 ^ 6)

/-- FCLASS (R289). -/
def execFclass (f : WordV) (s : State) : Result :=
  s.floatOp 0x10B f (fields1.ok f) 1 (lat64 f.ty.toNat 4 6) fun k _ _ a _ _ => ⟨fpClass k a, 0⟩

/-! Conversions (R290, R291) -/

/-- The six formats of FCVT. -/
def tySix (t : Nat) : Bool := 9 ≤ t && t ≤ 14

/-- The result is f64, or a source is (R268). -/
def latCvt (t u : Nat) : Nat := if t = tF64 || u = tF64 then 10 else 6

/-- Conversion of an encoding of format `src` to `dst` (R173). -/
def fpConvert (src dst : FF) (m : Mode) (fl : Bool) (a : Nat) : Delivered :=
  let v := src.read fl a
  dst.finish m fl v (snanCond [v])

/-- FCVT (R290): TY is the destination's type, CF the source's. -/
def execFcvt (f : WordV) (s : State) : Result :=
  let t := f.ty.toNat
  let u := cfOf f
  let plain := tySix t && tySix u && t ≠ u
  let pack := (t = tPF16 || t = tPBF16) && u = tF32
  let unpack := t = tF32 && (u = tPF16 || u = tPBF16)
  let fields := if plain then fields1.withCf.rounds else fields2.withCf.rounds
  let uses := [Use.dst (Want.vreg (tyRegs t)) f.d, Use.src (Want.vsrc u) f.a]
    ++ (if pack then [Use.src (Want.vsrc u) f.b] else if unpack then [Use.src (Want.vscal tB32) f.b] else [])
  s.vector 0x10D f (fields.ok f && (plain || pack || unpack)) uses [] (latCvt t u) fun c os =>
    let src := (ffOf u).getD .f32
    let dst := (ffOf t).getD .f32
    let m := Mode.ofRM f.rm
    toLanesCond c f os fun j => laneDelivered t fun i =>
      fpConvert src dst m c.flush
        (if plain then opElem c os u 1 j 0
         else if pack then opLane c os (1 + i) j
         else opElem c os u 1 j (opLane c os 2 0 % 2))

/-- f64, f32, f16 and bf16. -/
def tyFour (t : Nat) : Bool := 9 ≤ t && t ≤ 12

/-- FCVTI (R291): TY is the integer type, CF the source's. -/
def execFcvti (f : WordV) (s : State) : Result :=
  let t := f.ty.toNat
  let u := cfOf f
  let uses := [Use.dst (Want.vreg (tyRegs t)) f.d, Use.src (Want.vsrc u) f.a]
  s.vector 0x10E f (fields1.withCf.rounds.ok f && tyInt32 t && tyFour u) uses [] (latCvt t u) fun c os =>
    let src := (ffOf u).getD .f32
    toLanesCond c f os fun j =>
      let r := toInteger (.ofRM f.rm) (tySigned t) (tyWidth t) (src.read c.flush (opElem c os u 1 j 0))
      ⟨r.1, r.2⟩

/-- ICVTF (R291): TY is the floating-point type, CF the source's. -/
def execIcvtf (f : WordV) (s : State) : Result :=
  let t := f.ty.toNat
  let u := cfOf f
  let uses := [Use.dst (Want.vreg (tyRegs t)) f.d, Use.src (Want.vsrc u) f.a]
  s.vector 0x10F f (fields1.withCf.rounds.ok f && tyInt32 u && tyFour t) uses [] (latCvt t u) fun c os =>
    let dst := (ffOf t).getD .f32
    toLanesCond c f os fun j =>
      dst.ofVal (.ofRM f.rm) c.flush (Val.ofInt (asInt (tySigned u) (tyWidth u) (opElem c os u 1 j 0)))

/-- One lane of FDOT2 (R292): invalid and overflow alone are raised. -/
def fpDot2 (k : FF) (contract : Nat) (a b : List Nat) (c : Nat) : Delivered :=
  let fl := vecFlush contract
  let av := a.map (k.read fl)
  let bv := b.map (k.read fl)
  let cv := FF.f32.read fl c
  let ps := List.zipWith Val.mul av bv
  let r := mmaElement .f32 fl fl (alignBits contract) 2 c ps
  let nv := (av ++ bv ++ [cv]).any Val.isSnan || (List.zipWith mulInvalid av bv).any id || sumInvalid (cv :: ps)
  let of := (FF.f32.value r).isInf && !((cv :: ps).any Val.isInf)
  ⟨r, (if nv then condNV else 0) ||| (if of then condOF else 0)⟩

/-- FDOT2 (R292). -/
def execFdot2 (f : WordV) (s : State) : Result :=
  let t := f.ty.toNat
  let uses := [Use.dst (Want.vreg 1) f.d, Use.src (Want.vsrc t) f.a, Use.src (Want.vsrc t) f.b,
    Use.src (Want.vsrc tF32) f.c]
  s.vector 0x110 f (fields3.ok f && (t = tPF16 || t = tPBF16)) uses [] 6 fun c os =>
    let k := (ffOf t).getD .f16
    let two (i j : Nat) : List Nat := [opElem c os t i j 0, opElem c os t i j 1]
    toLanesCond c f os fun j => fpDot2 k c.l.contract (two 1 j) (two 2 j) (opLane c os 3 j)

/-! The exact accumulator (R293 to R296) -/

/-- KM = 7 and Z = 0, as the instructions that change xa require (R293). -/
def whole (f : WordV) : Bool := f.km = 7 && f.z = 0

/-- XCLR (R294). -/
def execXclr (f : WordV) (s : State) : Result :=
  s.vector 0x111 f (fields0.ok f && whole f && f.d = 0 && f.ty = 0) [] [] 0 fun _ _ => { xa := some (0, 0) }

/-- A word index of 21 or more traps with ILLOP (R294). -/
def xaIndexOk (u : Use) (c : Ctx) : Bool := !(c.peek u).any fun w => w ≥ 21

/-- XRD (R294); KM does not matter to it (R271; log 39). -/
def execXrd (f : WordV) (s : State) : Result :=
  let ok := ({ fields0 with b := true } : VFields).ok f && f.ty = 0 && f.z = 0
  let w := Use.src (Want.vscal tB32) f.b
  s.vectorIf 0x116 f (fun c => ok && xaIndexOk w c) [w] [Use.dst (Want.vsonly 1) f.d, w] [] 6 fun c os =>
    toScalar c os (xaWord c.h.xa c.h.xaStat (opLane c os 1 0)).toNat

/-- XWR (R294). -/
def execXwr (f : WordV) (s : State) : Result :=
  let ok := fields2.ok f && whole f && f.d = 0 && f.ty = 0
  let w := Use.src (Want.vscal tB32) f.b
  s.vectorIf 0x117 f (fun c => ok && xaIndexOk w c) [w] [Use.src (Want.vscal tB32) f.a, w] [] 0 fun c os =>
    { xa := some (xaSetWord c.h.xa c.h.xaStat (opLane c os 1 0) (BitVec.ofNat 32 (opLane c os 0 0))) }

/-- XSTAT (R294). -/
def execXstat (f : WordV) (s : State) : Result :=
  let ok := fields0.ok f && f.ty = 0 && f.z = 0
  s.vector 0x118 f ok [Use.dst (Want.vsonly 1) f.d] [] 6 fun c os =>
    toScalar c os (c.h.xaStat.toNat + (if c.h.xa = 0 then 2 ^ 8 else 0) + (if xaInt c.h.xa < 0 then 2 ^ 9 else 0))

/-- The addends that lane j brings to XADD: each element of `a` at type t. -/
def xaAddends (c : Ctx) (os : List Opnd) (t i j : Nat) : List Val :=
  let k := (ffOf t).getD .f32
  (List.range (tyElems t)).map fun e => k.read c.flush (opElem c os t i j e)

/-- XADD (R295). -/
def execXadd (f : WordV) (s : State) : Result :=
  let t := f.ty.toNat
  s.vector 0x112 f (fields1.ok f && whole f && f.d = 0 && tyFloat t) [Use.src (Want.vsrc t) f.a] [] 0 fun c os =>
    { xa := some (xaAdd c.h.xa c.h.xaStat ((laneList (c.active f.km)).flatMap fun j => xaAddends c os t 0 j)) }

/-- XMADD (R295). -/
def execXmadd (f : WordV) (s : State) : Result :=
  let t := f.ty.toNat
  let uses := [Use.src (Want.vsrc t) f.a, Use.src (Want.vsrc t) f.b]
  s.vector 0x113 f (fields2.ok f && whole f && f.d = 0 && tyFloat t) uses [] 0 fun c os =>
    { xa := some (xaAdd c.h.xa c.h.xaStat ((laneList (c.active f.km)).flatMap fun j =>
        List.zipWith Val.mul (xaAddends c os t 0 j) (xaAddends c os t 1 j))) }

/-- f32, bf16 or f64. -/
def tyXa (t : Nat) : Bool := t = tF32 || t = tBF16 || t = tF64

/-- XRND (R296). -/
def execXrnd (f : WordV) (s : State) : Result :=
  let t := f.ty.toNat
  s.vector 0x114 f (fields0.ok f && tyXa t && eitherOk f) [Use.dst (Want.vors (tyRegs t)) f.d] [] 12 fun c os =>
    toEither c f os (xaRound ((ffOf t).getD .f32) c.flush c.h.xa c.h.xaStat)

/-- xscan of R296: the rounded prefix of each lane and the final xa, over the lanes' addends in ascending order. -/
def xaScan (k : FF) (fl : Bool) (x0 : BitVec 640 × BitVec 5) (lanes : List (Nat × Val)) : List (Nat × Nat) :=
  (List.range lanes.length).map fun i =>
    let x := xaAdd x0.1 x0.2 ((lanes.take (i + 1)).map Prod.snd)
    (((lanes[i]?).map Prod.fst).getD 0, xaRound k fl x.1 x.2)

/-- XSCAN (R296). -/
def execXscan (f : WordV) (s : State) : Result :=
  let t := f.ty.toNat
  s.vector 0x115 f (fields1.ok f && whole f && tyXa t) (vUses t 1 f) [] 12 fun c os =>
    let k := (ffOf t).getD .f32
    let lanes := (laneList (c.active f.km)).map fun j => (j, k.read c.flush (opElem c os t 1 j 0))
    let rs := xaScan k c.flush (c.h.xa, c.h.xaStat) lanes
    { toLanes c f os fun j => (assocFind rs j).getD 0 with
      xa := some (xaAdd c.h.xa c.h.xaStat (lanes.map Prod.snd)) }

end Sys2Proof.Machine
end

