-- ==== Sys2Proof/Machine/Fetch.lean ====
section
/-!
DEFINITION. Instruction fetch (R73, R78, R254, R347): the next word of a slot and of a matrix sequencer, and what
happens when it cannot be read.
-/
namespace Sys2Proof.Machine

/-- The word that a party has fetched, or the state to which the attempt leads: unchanged when it may not issue. -/
inductive Fetched
  | word (w : DWord) (s : State)
  | header (w : DWord) (s : State)
  | done (s : State)
  deriving DecidableEq, Repr

/-- A fetch fault of a slot (R254): a page not present parks, a first-touch placeholder counts as not present; other
faults trap with TRAPLANES = EXEC. -/
def State.fetchFault (s : State) (c : Ctx) (f : SpanFault) : State :=
  match f.fault with
  | .absent => s.park c.g c.x .fetch f.va 2
  | .firstTouch => s.park c.g c.x .fetch f.va 2
  | .ecc => s.killGroup c.g trapECCUNC
  | k => s.trap c.g c.x ⟨k.code, 0x1E, c.sl.pc, 0, some c.sl.exec, f.va, 0, false, false⟩ none

/-- ILLCLS at a word (R77, R78): the frame PC and FVA are its address. -/
def State.illcls (s : State) (c : Ctx) (w : DWord) : State :=
  s.trap c.g c.x ⟨trapILLCLS, 0x1E, c.sl.pc, w, none, c.sl.pc.toNat, 0, false, false⟩ none

/-- The clause in the middle of which the slot resumes (R82, R223): the nearest header before it must reach it. -/
def State.resumeClause (s : State) (c : Ctx) (w : DWord) : Fetched :=
  let who := s.whoGroup c.g
  let pc := c.sl.pc.toNat
  match s.headerBefore who pc 16 1 with
  | .inl f => .done (s.fetchFault c f)
  | .inr none => .done (s.illcls c w)
  | .inr (some (k, h)) =>
    if k ≤ headerLen h then
      match s.readCode who (pc - 8 * k + 8) (headerLen h) with
      | .inl f => .done (s.fetchFault c f)
      | .inr (ws, t) =>
        let cl : Clause := ⟨c.sl.pc - 8 * BitVec.ofNat 64 k, (h.extractLsb' 51 3).toNat, ws, k - 1, false, 0, false⟩
        .word w (t.modSlot c.g c.x fun sl => { sl with clause := some cl, resumed := false })
    else .done (s.illcls c w)

/-- The group may issue (R48 to R50, R79, R230, R227): its block runs on a core, the group is in the active set, no
clause of another group is under way on its engines, a single step allows the slot, and no refill is due (R46). -/
def State.mayIssue (s : State) (c : Ctx) : Bool :=
  c.b.place = .resident && c.l.st = .running && !c.h.exited
    && (s.cores[c.b.core]?).any (fun k => k.active.contains c.g) && !s.engineTaken c
    && (match c.h.step with | .armed y => c.x = y | .off => true) && !c.h.refillDue

/-- The next word of a slot. A slot that waits issues its instruction again once its event has occurred; a refill that a
return from a handler has left comes first (R46, R223). -/
def State.slotWord (s : State) (c : Ctx) : Fetched :=
  let sl := c.sl
  if c.h.refillDue && c.b.place = .resident && c.l.st = .running then .done (s.refillReturn c.g)
  else
  let ready :=
    match sl.st with
    | .running => sl.canIssue
    | .atEvent w => s.waitOver c.g c.x w
    | _ => false
  if !s.mayIssue c || !ready then .done s
  else
    match sl.clause.bind fun k => k.words[k.pos]? with
    | some w => .word w s
    | none =>
      if !c.h.acquiresMet then .done s
      else
        match s.readCode (s.whoGroup c.g) sl.pc.toNat 1 with
        | .inl f => .done (s.fetchFault c f)
        | .inr ([], _) => .done s
        | .inr (w :: _, t) =>
          if isHeader w then .header w t
          else if sl.resumed then s.resumeClause c w
          else .done (s.illcls c w)

/-! The sequencer -/

/-- The block's non-exited group of lowest GID. -/
def Block.lowGroup (b : Block) : Option Nat := lowest b.groups.length fun g => (b.groups[g]?).any fun h => !h.exited

/-- A trap of the matrix stream (R107, R216, R347): taken by the block's non-exited group of lowest GID, in slot A, or
in slot B when slot A is empty; it is not lane-specific (log 24). -/
def State.matrixTrap (s : State) (bid code : Nat) (word : DWord) (fva : Nat) : State :=
  match s.block? bid with
  | none => s
  | some b =>
    match b.lowGroup with
    | none => s
    | some gid =>
      let g : GRef := ⟨bid, gid⟩
      match s.group? g with
      | none => s
      | some h =>
        let x : SlotId := if h.slotA.isEmpty then .b else .a
        s.trap g x ⟨code, 0x1F, (h.slot x).pc, word, none, fva, 0, true, false⟩ none

/-- The context stops at a trap that it raises, until the word is retried (R347). -/
def State.seqrTrap (s : State) (bid code : Nat) (word : DWord) (fva : Nat) : State :=
  let s := s.modBlock bid fun b => { b with seqr := b.seqr.map fun q => { q with st := .trapped } }
  s.matrixTrap bid code word fva

/-- The context parks (R347). -/
def State.seqrPark (s : State) (bid va kind : Nat) : State :=
  let s := s.modBlock bid fun b => { b with seqr := b.seqr.map fun q => { q with st := .parked va s.time } }
  let w := s.whoBlock bid
  s.report (faultRec va w.asid kind w.core (((s.launchOf bid).map Launch.lpb).getD 0))

/-- A fault that the context meets (R347). `kind` is FKIND of R448. -/
def State.seqrFault (s : State) (bid : Nat) (word : DWord) (f : SpanFault) (kind : Nat) : State :=
  match f.fault with
  | .absent => s.seqrPark bid f.va kind
  | .firstTouch => s.seqrPark bid f.va kind
  | .ecc => s.kill (s.lidOf bid) trapECCUNC
  | k => s.seqrTrap bid k.code word f.va

/-- The sequencer of a resident block may begin a word: none is in progress, and a word that trapped is retried after
the handlers of its block have returned (R345, R347). -/
def State.seqrReady (s : State) (b : Block) (q : Sequencer) : Bool :=
  b.place = .resident && (s.launches[b.lid]?).any (fun l => l.st = .running) && q.work.isNone
    && (match q.st with
        | .running => true
        | .trapped => b.groups.all fun h => !h.sup
        | _ => false) && !q.ended

/-- The next word of a block's sequencer. -/
def State.seqrWord (s : State) (bid : Nat) : Fetched :=
  match s.block? bid with
  | none => .done s
  | some b =>
    match b.seqr with
    | none => .done s
    | some q =>
      if !s.seqrReady b q then .done s
      else
        let t := s.modBlock bid fun b => { b with seqr := some { q with st := .running } }
        match t.readCode (t.whoBlock bid) q.pc.toNat 1 with
        | .inl f => .done (t.seqrFault bid 0 f 2)
        | .inr ([], _) => .done s
        | .inr (w :: _, u) => .word w u

end Sys2Proof.Machine
end

