-- ==== Sys2Proof/Machine/Control.lean ====
section
/-!
DEFINITION. Branches, calls, divergence, barriers of groups, traps and special registers (R64, R66, R198 to R202,
R208 to R215, R224 to R226), the clause header (R74 to R82) and illegal opcodes (R104).
-/
namespace Sys2Proof.Machine

/-! Branches and calls (R208, R209) -/

/-- Plan of a format-B instruction: KM must be 7, which makes it a reader of EXEC (R194), and what `ok` says of the other
fields. -/
def planB (c : Ctx) (op : BitVec 10) (f : WordB) (ok : Bool) (uses : List Use) (ru : BitVec 3) : Plan :=
  ⟨clauseWord op f.bits, f.km = 7 && ok && ruOk f.ru ru, false, uses, c.maskCells 7, 0⟩

/-- Format B with neither A, CC nor DISP. -/
def bareB (f : WordB) : Bool := f.a = 0 && f.cc = 0 && f.disp = 0

/-- BRA (R208). -/
def execBra (f : WordB) (s : State) : Result :=
  s.issue fun c =>
    s.checked c (planB c 0x023 f (f.a = 0 && f.cc = 0) [] 0) fun _ =>
      s.finish c (clauseWord 0x023 f.bits) ⟨0x023, f.stl, false, branchTarget c.sl.pc f.disp, none⟩

/-- The conditions of R91 on a scalar. -/
def scalarCond (cc a : Nat) : Bool :=
  match cc with
  | 1 => a = 0
  | 2 => a ≠ 0
  | 3 => sext a 32 < 0
  | _ => sext a 32 ≥ 0

/-- The conditions of R91 on a mask. -/
def maskCond (cc : Nat) (a exec : Lanes) : Bool :=
  match cc with
  | 5 => a &&& exec ≠ 0
  | 6 => a &&& exec = 0
  | _ => a &&& exec = exec

/-- BRC (R208). -/
def execBrc (f : WordB) (s : State) : Result :=
  s.issue fun c =>
    let cc := f.cc.toNat
    let want := if cc ≤ 4 then Want.ssrc tB32 else Want.mask
    s.checked c (planB c 0x024 f (cc ≠ 0) [Use.src want f.a] 0b100) fun os =>
      let taken :=
        match os with
        | a :: _ => if cc ≤ 4 then scalarCond cc (c.scalar a) else maskCond cc (c.kmask a) c.exec
        | [] => false
      let next := if taken then branchTarget c.sl.pc f.disp else c.sl.pc + 8
      s.finish c (clauseWord 0x024 f.bits) ⟨0x024, f.stl, false, next, none⟩

/-- A target pair (R209): MISAL, then PROT, with TRAPLANES = EXEC and FVA the value; else the branch. -/
def State.jumpPair (s : State) (c : Ctx) (iword : DWord) (v : Nat) (k : State → State) : State :=
  if v % 8 ≠ 0 then s.trapLanes c iword trapMISAL c.sl.exec v
  else if 2 ^ 48 ≤ v then s.trapLanes c iword trapPROT c.sl.exec v
  else k s

/-- CALL (R209). -/
def execCall (f : WordB) (s : State) : Result :=
  s.issue fun c =>
    let w := clauseWord 0x027 f.bits
    s.checked c (planB c 0x027 f (f.cc = 0) [Use.dst (Want.sreg 2) f.a] 0) fun os =>
      match os with
      | l :: _ =>
        let s := s.modGroup c.g fun h => h.setCells (c.sput l (c.sl.pc + 8).toNat)
        s.finish c w ⟨0x027, f.stl, false, branchTarget c.sl.pc f.disp, none⟩
      | [] => s

/-- CALLI (R209): the target pair is read before the link pair is written. -/
def execCalli (f : WordB) (s : State) : Result :=
  s.issue fun c =>
    let w := clauseWord 0x028 f.bits
    let ok := f.cc = 0 && f.disp.extractLsb' 9 23 = 0
    s.checked c (planB c 0x028 f ok [Use.dst (Want.sreg 2) f.a, Use.src (Want.sreg 2) (f.disp.setWidth 9)] 0)
      fun os =>
        match os with
        | l :: t :: _ =>
          let v := c.scalar t
          s.jumpPair c w v fun s =>
            let s := s.modGroup c.g fun h => h.setCells (c.sput l (c.sl.pc + 8).toNat)
            s.finish c w ⟨0x028, f.stl, false, BitVec.ofNat 64 v, none⟩
        | _ => s

/-- The entry read of CALLT as an access, to order it after earlier accesses to the same bytes, and for the first-touch
handler to park (R210). -/
def Ctx.entryRead (c : Ctx) (iword : DWord) (e : Nat) : Pend :=
  { ser := c.h.ser, slot := c.x, pc := c.sl.pc, iword := iword, clidx := c.sl.clidx, q := none, pm := 0, x := false
    path := .p0, scope := .device, sem := .acquire, mask := c.sl.exec
    accs := [⟨96, e, 8, [], [], 0, 0, false, false⟩], body := .load, got := [], st := .waiting, behind := [] }

/-- A fault of the entry read (R210, R54). -/
def State.entryFault (s : State) (c : Ctx) (iword : DWord) (e : Nat) (f : AFault) : State :=
  match f with
  | .absent => s.park c.g c.x .entry e 0
  | .firstTouch =>
    s.trap c.g c.x { c.trapInfo iword trapPGFLT with lanes := some c.sl.exec, fva := e } (some (c.entryRead iword e))
  | .ecc => s.killGroup c.g trapECCUNC
  | k => s.trapLanes c iword k.code c.sl.exec e

/-- CALLT (R210). -/
def execCallt (f : WordB) (s : State) : Result :=
  s.issue fun c =>
    let w := clauseWord 0x029 f.bits
    let ok := f.cc = 0 && f.disp.extractLsb' 9 7 = 0
    let uses := [Use.dst (Want.sreg 2) f.a, { Use.dst (Want.sreg 2) f.a with above := 2 },
      Use.src (Want.sreg 2) (f.disp.setWidth 9)]
    s.checked c (planB c 0x029 f ok uses 0) fun os =>
      match os with
      | l :: l2 :: base :: _ =>
        let e := (c.scalar base + 8 * (f.disp.extractLsb' 16 16).toNat) % 2 ^ 64
        let who := s.whoGroup c.g
        if e % 8 ≠ 0 then s.trapLanes c w trapMISAL c.sl.exec e
        else
          match s.translateSpan who Need.load none false e 8 with
          | .inl x => s.entryFault c w e x.fault
          | .inr sp =>
            let acc : LaneAcc := ⟨96, e, 8, sp.pas, [], 0, 0, false, false⟩
            if c.h.outstanding.any fun p => p.path = .p0 && p.accs.any (s.touches who acc) then s.holdOn c .order
            else if s.poisoned sp.pas then s.killGroup c.g trapECCUNC
            else
              let v := leNat (s.seenBytes c.g.bid sp.pas)
              let s := s.useTrans who false sp.uses
              s.jumpPair c w v fun s =>
                let s := s.modGroup c.g fun h =>
                  h.setCells (c.sput l (c.sl.pc + 8).toNat ++ c.sput l2 e)
                s.finish c w ⟨0x029, f.stl, false, BitVec.ofNat 64 v, none⟩
      | _ => s

/-- RET (R209). -/
def execRet (f : WordB) (s : State) : Result :=
  s.issue fun c =>
    let w := clauseWord 0x02A f.bits
    s.checked c (planB c 0x02A f (f.cc = 0 && f.disp = 0) [Use.src (Want.sreg 2) f.a] 0b100) fun os =>
      match os with
      | l :: _ =>
        let v := c.scalar l
        s.jumpPair c w v fun s => s.finish c w ⟨0x02A, f.stl, false, BitVec.ofNat 64 v, none⟩
      | [] => s

/-! Divergence -/

/-- bsplit of R213 once both sides hold a lane, for a slot that has already passed the BSPLIT. -/
def State.split (s : State) (c : Ctx) (t f : Lanes) (target next join : DWord) : State :=
  let rest := c.sl.own &&& ~~~c.exec
  let y := SlotId.other c.x
  if (c.h.slot y).isEmpty then
    let s := s.modSlot c.g y fun sl => sl.path target t t join
    s.modSlot c.g c.x fun sl => sl.path next (f ||| rest) f join
  else
    let s := (s.putTail c.g c.h.depth ⟨next, f, join⟩).setDepth c.g (c.h.depth + 1)
    s.modSlot c.g c.x fun sl => sl.path target (t ||| rest) t join

/-- BSPLIT (R213); ILLOP in supervisor mode (R222). -/
def execBsplit (f : WordB) (s : State) : Result :=
  s.issue fun c =>
    let w := clauseWord 0x025 f.bits
    s.checked c (planB c 0x025 f (f.cc = 0 && !c.h.sup) [Use.src Want.mask f.a] 0b100) fun os =>
      match os with
      | a :: _ =>
        let k := c.kmask a
        let t := c.exec &&& k
        let e := c.exec &&& ~~~k
        let target := branchTarget c.sl.pc ((f.disp.extractLsb' 16 16).signExtend 32)
        let join := branchTarget c.sl.pc ((f.disp.extractLsb' 0 16).signExtend 32)
        let next := c.sl.pc + 8
        if t = 0 then s.finish c w ⟨0x025, f.stl, false, next, none⟩
        else if e = 0 then s.finish c w ⟨0x025, f.stl, false, target, none⟩
        else if !(c.h.slot (SlotId.other c.x)).isEmpty && c.h.depth ≥ c.l.taild then s.trapPlain c w trapTAILOVF
        else if c.h.tailBusy then s.holdOn c .order
        else s.finishWith c w ⟨0x025, f.stl, false, next, none⟩ fun s => s.split c t e target next join
      | [] => s

/-- bjoin of R214 for a path that has reached its rejoin point, with the refill that follows (R215). An uncorrectable error in
the top entry, where it is read, is fatal (R452). -/
def State.join (s : State) (c : Ctx) (outer : DWord) : State :=
  let here := c.sl.pc
  let s := s.modGroup c.g fun h => { h with outers := assocPut h.outers here.toNat outer }
  let y := c.h.slot (SlotId.other c.x)
  let d := c.h.depth - 1
  let top := s.tailEntry c.g d
  let hasTop := c.h.depth ≠ 0 && top.rj = here
  let s :=
    if y.isJoin && y.rj = here then s.modGroup c.g fun h => h.merge outer (here + 8)
    else if s.tailBad c.g d c.h.depth then s.killGroup c.g trapECCUNC
    else if hasTop && top.waiting then
      (s.setDepth c.g d).modSlot c.g c.x fun sl =>
        sl.path (here + 8) (c.sl.own ||| top.mask) (c.sl.own ||| top.mask) outer
    else if hasTop then
      (s.putTail c.g d ⟨here, c.sl.own, here⟩).modSlot c.g c.x fun sl => sl.path top.pc top.mask top.mask here
    else s.modSlot c.g c.x fun sl => { sl with st := .atJoin outer, pc := here }
  s.refill c.g

/-- BJOIN (R214); ILLOP in supervisor mode (R222). -/
def execBjoin (f : WordB) (s : State) : Result :=
  s.issue fun c =>
    let w := clauseWord 0x026 f.bits
    s.checked c (planB c 0x026 f (f.a = 0 && f.cc = 0 && !c.h.sup) [] 0) fun _ =>
      let outer : DWord := if f.disp = 0 then 0 else branchTarget c.sl.pc f.disp
      if c.sl.rj ≠ c.sl.pc then s.finish c w ⟨0x026, f.stl, false, c.sl.pc + 8, none⟩
      else if c.h.tailBusy then s.holdOn c .order
      else s.finishWith c w ⟨0x026, f.stl, true, c.sl.pc + 8, none⟩ fun s => s.join c outer

/-- EXIT (R211); ILLOP in supervisor mode (R222). -/
def execExit (f : WordB) (s : State) : Result :=
  s.issue fun c =>
    let w := clauseWord 0x02B f.bits
    s.checked c (planB c 0x02B f (bareB f && !c.h.sup) [] 0) fun _ =>
      if c.h.tailBusy then s.holdOn c .order
      else
        s.finishWith c w ⟨0x02B, f.stl, false, c.sl.pc + 8, none⟩ fun s =>
          (s.modSlot c.g c.x Slot.emptied).refill c.g

/-- YIELD (R211): nothing but the end of its clause. -/
def execYield (f : WordB) (s : State) : Result :=
  s.issue fun c =>
    s.checked c (planB c 0x02C f (bareB f) [] 0) fun _ => s.finishNext c 0x02C f.stl (clauseWord 0x02C f.bits)

/-! The block and grid barriers -/

/-- Continues once the wait `w` is over, else waits (R193, R212). -/
def State.waitOrGo (s : State) (c : Ctx) (op : BitVec 10) (stl : BitVec 4) (iword : DWord) (w : Wait) : State :=
  if s.waitOver c.g c.x w then s.finishNext c op stl iword else s.wait c iword w

/-- BBAR (R64, R212, R220): the arrival, once every earlier release point is performed (R139), and the wait. -/
def execBbar (f : WordB) (s : State) : Result :=
  s.issue fun c =>
    let w := clauseWord 0x02D f.bits
    s.checked c (planB c 0x02D f (bareB f && !c.h.sup) [] 0) fun _ =>
      match c.sl.st with
      | .atEvent e => if s.waitOver c.g c.x e then s.finishNext c 0x02D f.stl w else s
      | _ =>
        match c.sl.arrived with
        | some (.block gen) => s.waitOrGo c 0x02D f.stl w (.block gen)
        | some .latest => s.waitOrGo c 0x02D f.stl w (.block c.h.bbArr)
        | _ =>
          if !c.b.releasesMet c.g.gid c.h c.h.ser then s.holdOn c .order
          else
            let gen := c.h.bbArr + 1
            let s := s.modGroup c.g fun h =>
              { h with bbArr := gen }.modSlot c.x fun sl => { sl with arrived := some (.block gen) }
            s.waitOrGo c 0x02D f.stl w (.block gen)

/-- GBAR (R66, R212, R220); ILLOP in a launch without GRIDBAR. A second GBAR, from the group's other slot, counts as the
group's arrival at the next generation, as R64 says of BBAR (DESIGN CHOICE, log 74). -/
def execGbar (f : WordB) (s : State) : Result :=
  s.issue fun c =>
    let w := clauseWord 0x02E f.bits
    s.checked c (planB c 0x02E f (bareB f && !c.h.sup && c.l.gridbarOf c.b) [] 0) fun _ =>
      match c.sl.st with
      | .atEvent e => if s.waitOver c.g c.x e then s.finishNext c 0x02E f.stl w else s
      | _ =>
        match c.sl.arrived with
        | some (.grid gen) => s.waitOrGo c 0x02E f.stl w (.grid gen)
        | some .latest => s.waitOrGo c 0x02E f.stl w (.grid c.h.gbArr)
        | _ =>
          if !c.b.releasesMet c.g.gid c.h c.h.ser then s.holdOn c .order
          else
            let gen := c.h.gbArr + 1
            let s := s.modGroup c.g fun h =>
              { h with gbArr := gen }.modSlot c.x fun sl => { sl with arrived := some (.grid gen) }
            (s.settleGrid c.b.lid).waitOrGo c 0x02E f.stl w (.grid gen)

/-! Traps by instruction, signatures -/

/-- What is checked of a format-SI instruction with IMM32 alone. -/
def planImm (op : BitVec 10) (f : WordSI) (ok : Bool) : Plan :=
  ⟨clauseWord op f.bits, f.d = 0 && f.sub = 0 && f.ru = 0 && ok, false, [], [], 0⟩

/-- TRAP and BRK (R224): the trap with IMM32 in ARG, the PC past the instruction. -/
def State.trapImm (s : State) (op : BitVec 10) (f : WordSI) (code : Nat) : Result :=
  s.issue fun c =>
    let w := clauseWord op f.bits
    s.checked c (planImm op f true) fun _ =>
      s.finishWith c w ⟨op, f.stl, false, c.sl.pc + 8, none⟩ fun s =>
        s.trap c.g c.x { c.trapInfo w code with arg := f.imm.toNat } none

/-- TRAP (R224). -/
def execTrap (f : WordSI) (s : State) : Result := s.trapImm 0x02F f trapSWTRAP

/-- BRK (R224). -/
def execBrk (f : WordSI) (s : State) : Result := s.trapImm 0x034 f trapBRKPT

/-- SIGSET (R225). -/
def execSigset (f : WordSI) (s : State) : Result :=
  s.issue fun c =>
    let w := clauseWord 0x031 f.bits
    s.checked c (planImm 0x031 f (f.imm.extractLsb' 16 16 = 0)) fun _ =>
      s.finish c w ⟨0x031, f.stl, false, c.sl.pc + 8, some (f.imm.setWidth 16)⟩

/-! Special registers (R198 to R202, R226) -/

/-- P of R41 for a pipe with the good lanes `m`. -/
def passesOf (m : Word) : Nat :=
  let g := popCount 32 m.toNat
  if g = 0 then 0 else (96 + g - 1) / g

/-- The pipe of the group (R34). -/
def Ctx.pipe (c : Ctx) : Nat := c.b.pipe c.g.gid

/-- The good-lane maps of the group's core (R21). -/
def State.lmapsOf (s : State) (c : Ctx) : Word × Word := (s.part.lmaps[c.b.core]?).getD (0, 0)

/-- The value of a special register, or none when the index is not listed (R198). TIMELO and TIMEHI have meanings of
their own. -/
def State.special (s : State) (c : Ctx) (ix : Nat) : Option Word :=
  let n (v : Nat) : Option Word := some (BitVec.ofNat 32 v)
  let h := c.h
  match ix with
  | 0x000 => n c.g.gid
  | 0x001 => n (c.l.ngrpOf c.b)
  | 0x002 => n c.b.bseq
  | 0x003 => n c.b.bx
  | 0x004 => n c.b.by_
  | 0x005 => n c.b.bz
  | 0x010 => n c.b.core
  | 0x011 => some (s.lmapsOf c).1
  | 0x012 => some (s.lmapsOf c).2
  | 0x013 => n (passesOf (if c.pipe = 0 then (s.lmapsOf c).1 else (s.lmapsOf c).2))
  | 0x014 => n c.pipe
  | 0x020 => n c.l.contract
  | 0x021 => some h.cmixRead
  | 0x022 => some h.fpctlRead
  | 0x023 => some h.gstat
  | 0x030 => n s.time
  | 0x031 => n (s.time / 2 ^ 32)
  | 0x040 => some (h.strm 0)
  | 0x041 => some (h.strm 1)
  | 0x050 => some h.tframe
  | 0x051 => some h.tvec
  | 0x052 => some h.tcode
  | 0x060 => some (c.sl.sig.zeroExtend 32)
  | 0x061 => some h.sbchk
  | 0x070 => some h.dbgsel
  | _ => none

/-- The registers that software writes: any mode, or supervisor mode alone. -/
def swrUser (ix : Nat) : Bool := ix = 0x021 || ix = 0x022 || ix = 0x023 || ix = 0x061
def swrSup (ix : Nat) : Bool := ix = 0x050 || ix = 0x051 || ix = 0x070

/-- What is checked of SRD of a register that is listed or not (R226). -/
def planSrd (f : WordSI) (listed : Bool) : Plan :=
  ⟨clauseWord 0x032 f.bits, f.sub = 0 && f.ru = 0 && f.imm.extractLsb' 12 20 = 0 && listed,
    f.imm.extractLsb' 0 12 = 0x051, [Use.dst (Want.sreg 1) f.d], [], 0⟩

/-- SRD's read of a register, with what it does besides (R226). -/
def State.readSpecial (s : State) (f : WordSI) (value : Ctx → Option Word) (also : Group → Group) : Result :=
  s.issue fun c =>
    let p := planSrd f (value c).isSome
    s.checked c p fun os =>
      match os with
      | d :: _ =>
        let e : Eff := { writes := c.sput d ((value c).getD 0).toNat }
        let s := s.modGroup c.g fun h => also (h.applyEff c.x p.iword 4 e)
        s.finishNext c 0x032 f.stl p.iword
      | [] => s

/-- SRD (R226): TVEC outside supervisor mode traps with PRIV. -/
def execSrd (f : WordSI) (s : State) : Result :=
  s.readSpecial f (fun c => s.special c (f.imm.extractLsb' 0 12).toNat) id

/-- SRD of TIMELO (R13): the high word goes to the holding word. -/
def execSrdTimelo (f : WordSI) (s : State) : Result :=
  s.readSpecial f (fun c => s.special c 0x030) fun h => { h with timeHold := some (BitVec.ofNat 32 (s.time / 2 ^ 32)) }

/-- SRD of TIMEHI (R13): the holding word, or the current high word. -/
def execSrdTimehi (f : WordSI) (s : State) : Result :=
  s.readSpecial f (fun c => some (c.h.timeHold.getD (BitVec.ofNat 32 (s.time / 2 ^ 32)))) fun h =>
    { h with timeHold := none }

/-- A special register written, reserved bits ignored (R202, R226). -/
def Group.setSpecial (h : Group) (ix : Nat) (v : Word) : Group :=
  match ix with
  | 0x021 => { h with cmixctl := v &&& 1 }
  | 0x022 => { h with fpctl := v &&& 0x71F }
  | 0x023 => { h with gstat := h.gstat &&& ~~~v }
  | 0x050 => { h with tframe := v &&& 0xFFFFFE00 }
  | 0x051 => { h with tvec := v }
  | 0x061 => { h with sbchk := v &&& 1 }
  | 0x070 => { h with dbgsel := v &&& 7 }
  | _ => h

/-- What is checked of SWR but for PRIV: the register is listed (R226). -/
def planSwr (f : WordSI) (ok : Bool) : Plan :=
  ⟨clauseWord 0x033 f.bits, ok, false, [Use.src (Want.ssrc tB32) f.d], [], 0⟩

/-- The fields of SWR name a listed register; the value 3 of DBGSEL.SLOT is reserved (R201). -/
def State.swrOk (s : State) (c : Ctx) (f : WordSI) : Bool :=
  let ix := (f.imm.extractLsb' 0 12).toNat
  f.sub = 0 && f.ru = 0 && f.imm.extractLsb' 12 20 = 0 && (s.special c ix).isSome
    && !(ix = 0x070 && (c.peek (Use.src (Want.ssrc tB32) f.d)).any fun v => bitsOf v 2 1 = 3)

/-- The mode does not let the group write the register (R226). -/
def swrPriv (ix : Nat) (sup : Bool) : Bool := if swrUser ix then false else !swrSup ix || !sup

/-- SWR of a register (R226). The value 3 of DBGSEL.SLOT is reserved and traps with ILLOP (R201), before PRIV: a source that
still awaits its result is waited for (R108). -/
def State.writeSpecial (s : State) (f : WordSI) : Result :=
  s.issue fun c =>
    let ix := (f.imm.extractLsb' 0 12).toNat
    let use := Use.src (Want.ssrc tB32) f.d
    let ok := s.swrOk c f
    let w := clauseWord 0x033 f.bits
    let early := if ix = 0x070 then [use] else []
    if ok && swrPriv ix c.h.sup && (resolve c.ix use.want use.field).isSome && c.earlyWait early (planSwr f ok) = [] then
      s.trapPlain c w trapPRIV
    else
      s.checkedOn c early (planSwr f ok) fun os =>
        match os with
        | a :: _ =>
          let v : Word := BitVec.ofNat 32 (c.scalar a)
          (s.modGroup c.g fun h => h.setSpecial ix v).finishNext c 0x033 f.stl w
        | [] => s

/-- SWR (R226). -/
def execSwr (f : WordSI) (s : State) : Result := s.writeSpecial f

/-- SWR to GSTAT clears the bits written as 1 (R202). -/
def execSwrGstat (f : WordSI) (s : State) : Result := s.writeSpecial f

/-! Clause headers and illegal opcodes -/

/-- The clause-ending instructions of R76. -/
def clauseEnding (op : Nat) : Bool := (0x023 ≤ op && op ≤ 0x030) || op = 0x034

/-- The free instructions of R75. -/
def freeOp (op : Nat) : Bool := 0x001 ≤ op && op ≤ 0x021

/-- A word may stand at position `i` of a clause of `n` words and class `cls` (R75 to R77). -/
def clauseWordOk (cls n i : Nat) (w : DWord) : Bool :=
  let op := opField w
  op / 16 ≠ 0x3F && (op / 128 = cls || freeOp op) && (!clauseEnding op || i + 1 = n)

/-- A clause is well formed (R77). -/
def clauseOk (f : WordH) (ws : List DWord) : Bool :=
  f.mark = 0x3F && f.rsv = 0 && (f.sck = 1 || f.sig = 0) &&
    ws.zipIdx.all fun p => clauseWordOk f.cls.toNat ws.length p.2 p.1

/-- The clause begins: its words stand ready, and the signature register is 0xFFFF (R82). -/
def Slot.enter (sl : Slot) (f : WordH) (ws : List DWord) : Slot :=
  { sl.settle with
    st := .running
    pc := sl.pc + 8
    sig := 0xFFFF
    resumed := false
    hold := none
    arrived := none
    clause := some ⟨sl.pc, f.cls.toNat, ws, 0, f.sck = 1, f.sig, true⟩ }

/-- A clause header (R77, R80): the clause is decoded as a whole, then the slot waits on WB, taking a generation; a single step
ends as the wait begins (R227). Y is a hint (R81). -/
def execClauseHeader (f : WordH) (s : State) : Result :=
  s.issue fun c =>
    let n := f.nm1.toNat + 1
    match s.readCode (s.whoGroup c.g) (c.sl.pc.toNat + 8) n with
    | .inl x => s.fetchFault c x
    | .inr (ws, s) =>
      if !clauseOk f ws then s.illcls c f.bits
      else if f.wb = 0 then s.modSlot c.g c.x fun sl => sl.enter f ws
      else
        let b := f.wb.toNat
        if s.waitOver c.g c.x (.header b) then
          (s.modBlock c.g.bid fun k => k.take b (.grp c.g.gid)).modSlot c.g c.x fun sl => sl.enter f ws
        else (s.modSlot c.g c.x fun sl => { sl with st := .atEvent (.header b), since := s.fresh }).endStepAt c f.bits 0x1E

/-- A word with an opcode that no table lists (R104): ILLOP when it issues. -/
def execIllegalOpcode (w : DWord) (s : State) : Result := s.issue fun c => s.trapPlain c w trapILLOP

end Sys2Proof.Machine
end

