-- ==== Sys2Proof/Machine/Memory.lean ====
section
/-!
DEFINITION. The class-4 instructions of the memory engine (R228 to R240, R252, R256, R260 to R264): issue, the walk of
their lanes, and their performance.
-/
namespace Sys2Proof.Machine

/-! Issue -/

/-- The operation has lanes to check and translate before the slot goes on (R230). -/
def Pend.walks (p : Pend) : Bool :=
  match p.body with
  | .bridle _ ls => !ls.isEmpty
  | .sample _ ls => !ls.isEmpty
  | .emit _ _ _ => true
  | _ => !p.accs.isEmpty

/-- An operation that the issuing slot starts, with the ordering fields of its format (R123). -/
structure Order where
  q : BitVec 3
  pm : BitVec 8
  x : Bool
  path : Path
  scope : Scope
  sem : Sem
  deriving DecidableEq, Repr

/-- Scope and SEM of R87. -/
def scopeOf (sc : BitVec 2) : Scope :=
  match sc with
  | 0 => .block
  | 1 => .sharing
  | 2 => .device
  | _ => .system
def semOf (m : BitVec 2) : Sem :=
  match m with
  | 0 => .plain
  | 1 => .acquire
  | 2 => .release
  | _ => .acqRel

/-- The operation that an instruction becomes. -/
def Ctx.pend (c : Ctx) (iword : DWord) (o : Order) (mask : Lanes) (accs : List LaneAcc) (body : Body) : Pend :=
  { ser := c.h.ser, slot := c.x, pc := c.sl.pc, iword := iword, clidx := c.sl.clidx, q := some o.q.toNat, pm := o.pm
    x := o.x, path := o.path, scope := o.scope, sem := o.sem, mask := mask, accs := accs, body := body, got := []
    st := .waiting, behind := [] }

/-- An instruction with a stream issues (R127, R128, R230): an operation without lanes to translate is outstanding at
once, any other one when its walk ends. It does not issue while its stream's counter reads 63. -/
def State.startOp (s : State) (c : Ctx) (p : Pend) : State :=
  if p.q.any fun n => c.h.streamCount n ≥ 63 then s.holdOn c (.stream (p.q.getD 0))
  else
    let s := s.modGroup c.g fun h => { h with ser := h.ser + 1 }
    if p.walks then s.modSlot c.g c.x fun sl => { sl with walk := some p }
    else
      (s.modGroup c.g fun h => { h with pend := insertPend p h.pend }).finishNext c p.op p.stl p.iword

/-- An operation whose mask is empty is an ordering point only (R126). -/
def Body.orOrder (b : Body) (mask : Lanes) : Body := if mask = 0 then .order else b

/-! Loads and stores -/

/-- Bytes of W (R87). -/
def wBytes (w : BitVec 3) : Nat := 2 ^ w.toNat
/-- Registers of a datum of `n` bytes. -/
def regsOf (n : Nat) : Nat := if n ≤ 4 then 1 else n / 4

/-- SEM, AS and W of a load or store (R87, R147, R233). -/
def accessOk (f : WordM) (store : Bool) : Bool :=
  f.w.toNat ≤ 4 && f.sem ≠ (if store then 1 else 2)
    && (f.as = 0 || (f.as = 1 && f.w.toNat ≥ 3) || (f.as = 2 && f.w.toNat = 4))

def orderM (f : WordM) : Order := ⟨f.q, f.pm, f.x = 1, .p0, scopeOf f.sc, semOf f.sem⟩

/-- Bytes to which AS requires alignment (R147). -/
def asBytes (a : BitVec 2) : Nat := if a = 0 then 1 else if a = 1 then 8 else 16

/-- A per-lane or uniform vector address (R229). -/
def laneAddr (c : Ctx) (f : WordM) (a : Opnd) (j : Nat) : Nat :=
  let wb := wBytes f.w
  let base : Int := c.lane a j + sext f.off.toNat 5 * (wb : Nat)
  match a with
  | .s _ _ => wrap (base + j * wb) 64
  | _ => wrap base 64

/-- A scalar address with OFF in units of `unit` bytes (R229, R236). -/
def scalarAddr (c : Ctx) (f : WordM) (a : Opnd) (unit : Nat) : Nat :=
  wrap ((c.scalar a : Int) + sext f.off.toNat 5 * (unit : Nat)) 64

/-- Store data: an inline constant is a b32 word repeated in every register of the datum (R234). -/
def storeData (c : Ctx) (o : Opnd) (n j : Nat) : Nat :=
  match o with
  | .c v => packElems 32 (List.replicate (regsOf n) v) % 2 ^ (8 * n)
  | o => c.lane o j % 2 ^ (8 * n)

/-- The cells of an operand for a datum in lane `j`. -/
def destCells (c : Ctx) (o : Opnd) (j : Nat) : List RegCell := o.cells c.h.sup c.x [j]

/-- What is checked of a format-M instruction; `reads` are its sources' masks. -/
def planM (c : Ctx) (op : BitVec 10) (f : WordM) (ok priv : Bool) (uses : List Use) : Plan :=
  ⟨clauseWord op f.bits, ok && ruOk f.ru 0b100, priv, uses, c.maskCells f.km.toNat, c.active f.km⟩

/-- Data of a store to memory: a vector, a scalar broadcast or an inline constant. -/
def Want.vdata (n : Nat) : Want := ⟨.v, true, true, false, true, n, tB32⟩
/-- Data of a scalar store: a scalar or an inline constant. -/
def Want.sdata (n : Nat) : Want := ⟨.s, false, true, false, true, n, tB32⟩

/-- LD and ST (R233, R234). -/
def State.vectorAccess (s : State) (op : BitVec 10) (f : WordM) (store : Bool) : Result :=
  s.issue fun c =>
    let n := wBytes f.w
    let regs := regsOf n
    let d := if store then Use.src (Want.vdata regs) f.d else Use.dst (Want.vreg regs) f.d
    let p := planM c op f (accessOk f store) false [d, Use.src (Want.vors 2) f.a]
    s.checked c p fun os =>
      match os with
      | d :: a :: _ =>
        let act := c.active f.km
        let accs := (laneList act).map fun j =>
          let va := laneAddr c f a j
          { lane := j, va := va, len := n, pas := [], dst := if store then [] else destCells c d j
            data := if store then storeData c d n j else 0, cmp := 0, staged := false
            misal := va % asBytes f.as ≠ 0 : LaneAcc }
        s.startOp c (c.pend p.iword (orderM f) act accs ((if store then Body.store else Body.load).orOrder act))
      | _ => s

/-- LD (R233). -/
def execLd (f : WordM) (s : State) : Result := s.vectorAccess 0x201 f false
/-- ST (R233). -/
def execSt (f : WordM) (s : State) : Result := s.vectorAccess 0x204 f true

/-- LDS and STS (R233, R235): one access when a lane is active. -/
def State.scalarAccess (s : State) (op : BitVec 10) (f : WordM) (store : Bool) : Result :=
  s.issue fun c =>
    let n := wBytes f.w
    let regs := regsOf n
    let d := if store then Use.src (Want.sdata regs) f.d else Use.dst (Want.sreg regs) f.d
    let p := planM c op f (accessOk f store) false [d, Use.src (Want.sreg 2) f.a]
    s.checked c p fun os =>
      match os with
      | d :: a :: _ =>
        let act := c.active f.km
        let va := scalarAddr c f a n
        let acc : LaneAcc :=
          { lane := 96, va := va, len := n, pas := [], dst := if store then [] else destCells c d 0
            data := if store then storeData c d n 0 else 0, cmp := 0, staged := false
            misal := va % asBytes f.as ≠ 0 }
        let accs := if act = 0 then [] else [acc]
        s.startOp c (c.pend p.iword (orderM f) act accs ((if store then Body.store else Body.load).orOrder act))
      | _ => s

/-- LDS (R233, R235). -/
def execLds (f : WordM) (s : State) : Result := s.scalarAccess 0x202 f false
/-- STS (R233, R235). -/
def execSts (f : WordM) (s : State) : Result := s.scalarAccess 0x205 f true

/-- LDB and STB (R236): one access for each register of the quad and each lane; OFF counts blocks of 1,536 bytes. D, a
"Vector quad" in R233, may be indexed as LD's is (DEDUCED, log 86). -/
def State.blockAccess (s : State) (op : BitVec 10) (f : WordM) (store : Bool) : Result :=
  s.issue fun c =>
    let ok := f.w = 2 && f.as = 0 && f.sem ≠ (if store then 1 else 2)
    let d := if store then Use.src (Want.vreg 4) f.d else Use.dst (Want.vreg 4) f.d
    let p := planM c op f ok false [d, Use.src (Want.vsonly 2) f.a]
    s.checked c p fun os =>
      match os with
      | d :: a :: _ =>
        let act := c.active f.km
        let base := scalarAddr c f a 1536
        let accs := (laneList act).flatMap fun j => (List.range 4).map fun i =>
          { lane := j, va := (base + 384 * i + 4 * j) % 2 ^ 64, len := 4, pas := []
            dst := if store then [] else ((destCells c d j)[i]?).toList
            data := if store then c.lane d j / 2 ^ (32 * i) % 2 ^ 32 else 0, cmp := 0, staged := false
            misal := base % 128 ≠ 0 : LaneAcc }
        s.startOp c (c.pend p.iword (orderM f) act accs ((if store then Body.store else Body.load).orOrder act))
      | _ => s

/-- LDB (R236). -/
def execLdb (f : WordM) (s : State) : Result := s.blockAccess 0x203 f false
/-- STB (R236). -/
def execStb (f : WordM) (s : State) : Result := s.blockAccess 0x206 f true

/-! Atomics -/

def orderMA (f : WordMA) : Order := ⟨f.q, f.pm, false, .p0, scopeOf f.sc, semOf f.sem⟩

/-- The type to which an atomic's constant is converted (R95, R237). -/
def atomType (f : WordMA) (cas : Bool) : Nat :=
  if !cas && f.aop = 9 then (if f.w64 = 1 then tF64 else tF32) else if f.w64 = 1 then tB64 else tB32

/-- An atomic (R88, R237): lanes of EXEC, `scalar` for the forms that act once. -/
def State.atomicAccess (s : State) (op : BitVec 10) (f : WordMA) (cas scalar : Bool) : Result :=
  s.issue fun c =>
    let n := if f.w64 = 1 then 8 else 4
    let regs := regsOf n
    let t := atomType f cas
    let ok := (if cas then f.aop = 0 else f.aop.toNat ≤ 9) && ruOk f.ru 0b110
    let d := if scalar then Want.sreg regs else Want.vreg regs
    let uses := [if cas then Use.both d f.d else Use.dst d f.d,
      Use.src (if scalar then Want.sreg 2 else Want.vors 2) f.a,
      Use.src (if scalar then Want.ssrc t else Want.vsrc t) f.b]
    let p : Plan := ⟨clauseWord op f.bits, ok, false, uses, c.maskCells 7, c.exec⟩
    s.checked c p fun os =>
      match os with
      | d :: a :: b :: _ =>
        let acc (lane j : Nat) : LaneAcc :=
          { lane := lane, va := c.lane a j, len := n, pas := [], dst := destCells c d j, data := c.lane b j
            cmp := if cas then c.lane d j else 0, staged := false, misal := c.lane a j % n ≠ 0 }
        let accs := if scalar then (if c.exec = 0 then [] else [acc 96 0]) else (laneList c.exec).map fun j => acc j j
        let body := (Body.atomic f.aop.toNat cas (f.w64 = 1)).orOrder c.exec
        s.startOp c (c.pend p.iword (orderMA f) c.exec accs body)
      | _ => s

/-- ATOM (R237, R238). -/
def execAtom (f : WordMA) (s : State) : Result := s.atomicAccess 0x207 f false false
/-- ACAS (R237, R238). -/
def execAcas (f : WordMA) (s : State) : Result := s.atomicAccess 0x208 f true false
/-- ATOMS (R237, R238). -/
def execAtoms (f : WordMA) (s : State) : Result := s.atomicAccess 0x209 f false true
/-- ACASS (R237, R238). -/
def execAcass (f : WordMA) (s : State) : Result := s.atomicAccess 0x20A f true true

/-! Instructions without accesses of their own -/

/-- SC = 2 and SEM = 0, as R228 requires where neither is used. -/
def plainScope (f : WordM) : Bool := f.sc = 2 && f.sem = 0

/-- W, OFF, AS and X zero, with SC and SEM as R228 requires. -/
def bareM (f : WordM) : Bool := f.w = 0 && f.off = 0 && f.as = 0 && f.x = 0 && plainScope f

/-- PRFM (R240): the lines it may bring change nothing. -/
def execPrfm (f : WordM) (s : State) : Result :=
  s.issue fun c =>
    let ok := f.d = 0 && f.as = 0 && plainScope f && f.w.toNat ≤ 4
    let p := planM c 0x20B f ok false [Use.src (Want.vors 2) f.a]
    s.checked c p fun _ =>
      let act := c.active f.km
      s.startOp c (c.pend p.iword (orderM f) act [] (Body.prefetch.orOrder act))

/-- SGJOIN (R261): reserved bits of A trap with ILLOP. -/
def execSgjoin (f : WordM) (s : State) : Result :=
  s.issue fun c =>
    let a := Use.src (Want.sreg 1) f.a
    let ok := bareM f && !(c.peek a).any fun v => bitsOf v 31 16 ≠ 0
    let p := planM c 0x20C f ok false [Use.dst (Want.sreg 1) f.d, a]
    s.checkedOn c [a] p fun os =>
      match os with
      | d :: a :: _ =>
        let act := c.active f.km
        let body := (destCells c d 0).head?.map fun r => Body.sgJoin r (BitVec.ofNat 32 (c.scalar a))
        s.startOp c (c.pend p.iword (orderM f) act [] ((body.getD .order).orOrder act))
      | _ => s

/-- A sharing-group instruction with a destination alone. -/
def State.sharingOp (s : State) (op : BitVec 10) (f : WordM) (body : RegCell → Body) : Result :=
  s.issue fun c =>
    let p : Plan := ⟨clauseWord op f.bits, bareM f && f.a = 0 && f.ru = 0, false, [Use.dst (Want.sreg 1) f.d],
      c.maskCells f.km.toNat, 0⟩
    s.checked c p fun os =>
      match os with
      | d :: _ =>
        let act := c.active f.km
        s.startOp c (c.pend p.iword (orderM f) act [] (((destCells c d 0).head?.map body |>.getD .order).orOrder act))
      | _ => s

/-- SGLEAVE (R262). -/
def execSgleave (f : WordM) (s : State) : Result := s.sharingOp 0x20D f .sgLeave
/-- SGQRY (R264). -/
def execSgqry (f : WordM) (s : State) : Result := s.sharingOp 0x20E f .sgQuery

/-- PFMAP (R256). -/
def execPfmap (f : WordM) (s : State) : Result :=
  s.issue fun c =>
    let p := planM c 0x20F f (bareM f && f.km = 7) true [Use.dst (Want.sreg 2) f.d, Use.src (Want.sreg 2) f.a]
    s.checked c p fun os =>
      match os with
      | d :: a :: _ =>
        let act := c.active f.km
        let body :=
          match destCells c d 0 with
          | d0 :: d1 :: _ => Body.pfmap d0 d1 (c.scalar a)
          | _ => .order
        s.startOp c (c.pend p.iword (orderM f) act [] (body.orOrder act))
      | _ => s

/-- TLBI (R252): D names the ASID for the kinds page and asid, A the address for page and glob. -/
def execTlbi (f : WordM) (s : State) : Result :=
  s.issue fun c =>
    let k := f.w.toNat
    let usesD := k = 0 || k = 1
    let usesA := k = 0 || k = 3
    let ok := k ≤ 3 && (f.sc = 0 || f.sc = 2) && f.km = 7 && f.off = 0 && f.sem = 0 && f.as = 0 && f.x = 0
      && (usesD || f.d = 0) && (usesA || f.a = 0) && (usesA || f.ru = 0)
    let uses := (if usesD then [Use.src (Want.sreg 1) f.d] else []) ++ (if usesA then [Use.src (Want.sreg 2) f.a] else [])
    let p := planM c 0x211 f ok true uses
    s.checked c p fun os =>
      let v (i : Nat) : Nat := ((os[i]?).map c.scalar).getD 0
      let asid := if usesD then v 0 % 256 else 0
      let va := if usesA then v (if usesD then 1 else 0) else 0
      s.startOp c (c.pend p.iword (orderM f) c.exec [] (.tlbi k asid va (f.sc = 2)))

/-! The walk -/

/-- The issuing slot takes a fault of its instruction (R232, R255): a handler leaves the instruction without effect;
a parking fault makes it a faulted access, with the PC past it; when a single step then traps, ERET's replay parks. -/
def State.takeAccessFault (s : State) (c : Ctx) (p : Pend) (k : AFault) (lanes : Lanes) (va : Nat) : State :=
  let gone := s.modSlot c.g c.x fun sl => { sl with walk := none }
  match k with
  | .ecc => gone.killGroup c.g trapECCUNC
  | .absent =>
    let t := gone.modGroup c.g fun h => { h with pend := insertPend { p with st := .faulted } h.pend }
    let t := t.finishNext c p.op p.stl p.iword
    if (t.group? c.g).any fun h => !h.exited && h.sup = c.h.sup then t.park c.g c.x (.access p.ser) va p.body.kind
    else t
  | _ => gone.trap c.g c.x ⟨k.code, p.clidx, p.pc, p.iword, some lanes, va, 0, false, false⟩
      (if k = .firstTouch then some p else none)

/-- The walk of an operation ends well: it is outstanding, and the slot goes on. -/
def State.walkDone (s : State) (c : Ctx) (p : Pend) (mism : Bool) : State :=
  let s := s.modSlot c.g c.x fun sl => { sl with walk := none }
  let s := s.modGroup c.g fun h =>
    { h.raise (if mism then gsCMIXS else 0) with pend := insertPend p h.pend }
  s.finishNext c p.op p.stl p.iword

/-- The walk of a load, store or atomic. -/
def State.walkMemory (s : State) (c : Ctx) (p : Pend) : State :=
  if c.h.tlbiAhead p then s
  else
    match s.walkLanes c p with
    | .fault k lanes va => if c.b.edgesMet c.g.gid c.h p then s.takeAccessFault c p k lanes va else s
    | .ok t accs mism => t.walkDone c { p with accs := accs } mism

end Sys2Proof.Machine
end

