-- ==== Sys2Proof/Machine/Copies.lean ====
section
/-!
DEFINITION. Copies (R324 to R342): the class-5 instructions and the events of a copy in flight.
-/
namespace Sys2Proof.Machine

/-! The descriptor (R327 to R329) -/

/-- An element's bytes under R334; none for a type that no copy takes. -/
def copyWidth (t : Nat) : Option Nat := if (kiteOf t).isSome || t > 20 then none else some (tyWidth t / 8 * tyElemsIn t)
where
  /-- pf16 and pbf16 move as one element of 4 bytes. -/
  tyElemsIn (t : Nat) : Nat := if t = 16 || t = 17 then 2 else 1

/-- The eight registers as they were read. -/
structure CopyDesc where
  src : Nat
  dst : Nat
  len : Nat
  ctl : Nat
  r6 : Nat
  r7 : Nat
  deriving DecidableEq, Repr

def CopyDesc.ofScalars (v : Nat) : CopyDesc :=
  ⟨bitsOf v 63 0, bitsOf v 127 64, bitsOf v 159 128, bitsOf v 191 160, bitsOf v 223 192, bitsOf v 255 224⟩

def CopyDesc.timed (d : CopyDesc) : Bool := bitOf d.ctl 2
def CopyDesc.sfmt (d : CopyDesc) : Nat := bitsOf d.ctl 8 4
def CopyDesc.rows (d : CopyDesc) : Nat := bitsOf d.ctl 31 16
def CopyDesc.sstr (d : CopyDesc) : Int := sext d.r6 32
def CopyDesc.dstr (d : CopyDesc) : Int := sext d.r7 32

/-- The six formats that XF = 3 converts between. -/
def copyFormats (src dst : Nat) : Bool := tySix src && tySix dst && src ≠ dst

/-- Bytes of one destination row, and destination rows (R329, R334). -/
def CopyDesc.rowBytes (d : CopyDesc) (tile : Bool) (xf w : Nat) : Nat :=
  if !tile && xf = 0 then d.len else if xf = 2 then d.rows * w else d.len * w
def CopyDesc.destRows (d : CopyDesc) (tile : Bool) (xf : Nat) : Nat :=
  if !tile then 1 else if xf = 2 then d.len else d.rows

/-- The limits of the transforms (R334), for TY `t` of width `w`. -/
def CopyDesc.limits (d : CopyDesc) (xf t w : Nat) : Bool :=
  match xf with
  | 0 => d.sfmt = 0
  | 1 => d.sfmt = 0 && w ≤ 4 && d.len % 8 = 0
  | 2 => d.sfmt = 0 && d.rows ≤ 256 && d.len ≤ 256 && d.rows * d.len * w ≤ 65536
  | _ => copyFormats d.sfmt t

/-- What XF asks of TY whatever the descriptor holds (R334). -/
def xfOk (xf t w : Nat) : Bool :=
  match xf with
  | 1 => w ≤ 4
  | 3 => tySix t
  | _ => true

/-- The checks of R329 that trap with ILLOP. -/
def CopyDesc.legal (d : CopyDesc) (tile : Bool) (xf t w : Nat) : Bool :=
  let row := d.rowBytes tile xf w
  let strided :=
    if tile then !d.timed && d.rows ≠ 0 && 1 ≤ d.len && d.len ≤ 65535 && d.dstr ≥ row
    else d.rows = 0 && (d.timed || (d.r6 = 0 && d.r7 = 0))
  bitsOf d.ctl 3 3 = 0 && bitsOf d.ctl 15 9 = 0 && strided && d.limits xf t w
    && ((d.destRows tile xf : Int) - 1) * (if tile then d.dstr else 0) + row ≤ 0xFFFFFF00

/-- The first address or stride that lacks its alignment, as FVA (R329, R334). -/
def CopyDesc.misaligned (d : CopyDesc) (tile : Bool) (xf w : Nat) : Option Nat :=
  let ws := if xf = 3 then (copyWidth d.sfmt).getD 1 else w
  let checks : List (Bool × Nat) :=
    if !tile && xf = 0 then []
    else
      [(d.src % ws ≠ 0, d.src), (tile && d.sstr % ws ≠ 0, wrap (d.src + d.sstr) 64), (d.dst % w ≠ 0, d.dst),
       (tile && d.dstr % w ≠ 0, wrap (d.dst + d.dstr) 64)]
  (checks.find? Prod.fst).map Prod.snd

/-! Starting a copy -/

/-- Copies that hold a slot of a core (R324). -/
def Copy.inFlight (c : Copy) : Bool := c.st = .armed || c.st = .running || c.st = .paused
def State.copySlots (s : State) (core : Nat) : Nat :=
  (s.copies.filter fun c => c.inFlight && c.core = core && (s.block? c.owner.bid).any Block.onCore).length

def orderC (f : WordC) (sc : Nat) : Order := ⟨f.q, f.pm, f.x = 1, .p1, scopeOf (BitVec.ofNat 2 sc), .plain⟩

/-- The copy that a descriptor starts. -/
def CopyDesc.start (d : CopyDesc) (c : Ctx) (tile : Bool) (xf t : Nat) (engine : Option Nat) : Copy :=
  { owner := c.g, ser := c.h.ser, core := c.b.core, handle := c.h.copySeq, src := d.src, dst := d.dst, len := d.len
    rows := if tile then d.rows else 1, sstr := if tile then d.sstr else 0, dstr := if tile then d.dstr else 0
    xf := xf, ty := t, sfmt := d.sfmt, timed := if d.timed then some (d.r6 + 2 ^ 32 * d.r7) else none
    engine := engine, miss := c.h.miss, st := .armed, cause := 0, wp := 0, set := false, late := false, cmixs := false
    cancel := false, tile := none, work := none }

/-- CPYS, CPYT and CPYE (R326 to R330). `formOk` is what the form requires of XF and CH. DESC counts as source A for
RU[49] (DESIGN CHOICE, log 69). -/
def State.issueCopy (s : State) (op : BitVec 10) (f : WordC) (tile formOk : Bool) (engine : Ctx → Option Nat) : Result :=
  s.issue fun c =>
    let xf := f.xf.toNat
    let t := f.ty.toNat
    let src := Use.src (Want.sreg 8) f.desc
    let dest := Use.dst (Want.sreg 1) f.d
    let w := (copyWidth t).getD 1
    let desc := (c.peek src).map CopyDesc.ofScalars
    let ok := formOk && ruOk f.ru 0b100 && (copyWidth t).isSome && (tile || xf ≠ 0 || t = tB32)
      && xfOk xf t w && c.belowAllotment src && desc.all fun d => d.legal tile xf t w
    let p : Plan := ⟨clauseWord op f.bits, ok, false, [src, dest], [], 0⟩
    s.checkedOn c [src] p fun os =>
      match os with
      | a :: d :: _ =>
        let desc := CopyDesc.ofScalars (c.scalar a)
        match desc.misaligned tile xf w with
        | some va => s.trapLanes c p.iword trapMISAL c.exec va
        | none =>
          if s.copySlots c.b.core ≥ 128 then s.holdOn c .copySlot
          else if c.h.streamCount f.q.toNat ≥ 63 then s.holdOn c (.stream f.q.toNat)
          else
            let pend := c.pend p.iword (orderC f (bitsOf desc.ctl 1 0)) allLanes [] (.copy s.copies.length)
            let s : State := { s with copies := s.copies ++ [desc.start c tile xf t (engine c)] }
            let s := s.modGroup c.g fun h => { h with copySeq := (h.copySeq + 1) % 4096 }
            let s := s.land c.g c.x ((d.cells c.h.sup c.x []).zip [BitVec.ofNat 32 c.h.copySeq])
            s.startOp c pend
      | _ => s

/-- CPYS (R330). -/
def execCpys (f : WordC) (s : State) : Result :=
  s.issueCopy 0x281 f false ((f.xf = 0 || f.xf = 3) && f.ch = 0) fun _ => none

/-- CPYT (R330). -/
def execCpyt (f : WordC) (s : State) : Result := s.issueCopy 0x282 f true (f.xf.toNat ≤ 3 && f.ch = 0) fun _ => none

/-- The engine that CPYE names, or one of the core's die (R325, R330; log 20). -/
def engineOf (s : State) (ch core : Nat) : Nat := if ch = 31 then s.part.dieOf core * 3 + Config.choose s.fresh % 3 else ch

/-- CPYE (R330). -/
def execCpye (f : WordC) (s : State) : Result :=
  let ch := f.ch.toNat
  s.issueCopy 0x283 f false ((f.xf = 0 || f.xf = 3) && (ch ≤ 23 || ch = 31)) fun c => some (engineOf s ch c.b.core)

/-! The handle instructions (R340 to R342) -/

/-- A copy that a handle names. -/
def State.handled (s : State) (c : Ctx) (handle : Nat) : Option Copy := (s.copyOf c.g c.h handle).bind fun k => s.copies[k]?

/-- The status word of R342. -/
def copyStatus (c : Option Copy) : Nat :=
  match c with
  | none => 0
  | some c =>
    let st := match c.st with | .armed => 1 | .running => 2 | .paused => 3 | .done => 4 | .stopped => 5
    let cause := if c.st = .paused || c.st = .stopped then c.cause else 0
    st + 256 * cause + 4096 * boolNat c.late + 8192 * boolNat c.cmixs

/-- What a handle instruction requires of its other fields, and of the handle when it can be read. -/
def handleOk (c : Ctx) (f : WordC) (h : Use) : Bool :=
  f.desc = 0 && f.q = 0 && f.pm = 0 && f.x = 0 && f.xf = 0 && f.ch = 0 && f.ty = 0 && f.ru = 0
    && !(c.peek h).any fun v => bitsOf v 31 12 ≠ 0

/-- The even pair, its handle register, and the register above it. -/
def handleUses (f : WordC) (reads writes : Bool) : List Use :=
  [⟨Want.sreg 2, f.d, false, false, 0⟩, Use.src (Want.sreg 1) f.d, ⟨Want.sreg 1, f.d, reads, writes, 1⟩]

/-- CPWP and CPQRY: s(D + 1) takes a value of the copy. -/
def State.queryCopy (s : State) (op : BitVec 10) (f : WordC) (v : Option Copy → Nat) : Result :=
  s.issue fun c =>
    let uses := handleUses f false true
    let p : Plan := ⟨clauseWord op f.bits, handleOk c f (Use.src (Want.sreg 1) f.d), false, uses, [], 0⟩
    s.checkedOn c [Use.src (Want.sreg 1) f.d] p fun os =>
      match os with
      | _ :: h :: d :: _ =>
        let r := BitVec.ofNat 32 (v (s.handled c (c.scalar h)))
        (s.land c.g c.x ((d.cells c.h.sup c.x []).zip [r])).finishNext c op f.stl p.iword
      | _ => s

/-- CPWP (R340). -/
def execCpwp (f : WordC) (s : State) : Result := s.queryCopy 0x284 f fun c => (c.map Copy.wp).getD 0xFFFFFFFF

/-- CPQRY (R340, R342). -/
def execCpqry (f : WordC) (s : State) : Result := s.queryCopy 0x287 f copyStatus

/-- CPWAIT (R340). -/
def execCpwait (f : WordC) (s : State) : Result :=
  s.issue fun c =>
    let p : Plan :=
      ⟨clauseWord 0x285 f.bits, handleOk c f (Use.src (Want.sreg 1) f.d), false, handleUses f true false, [], 0⟩
    match c.sl.st with
    | .atEvent e => if s.waitOver c.g c.x e then s.finishNext c 0x285 f.stl p.iword else s
    | _ =>
      s.checkedOn c [Use.src (Want.sreg 1) f.d] p fun os =>
        match os with
        | _ :: h :: t :: _ => s.waitOrGo c 0x285 f.stl p.iword (.copy (c.scalar h) (c.scalar t))
        | _ => s

/-- The operation with a place in program order has ended, by events of its own. -/
def State.endSer (s : State) (g : GRef) (ser : Nat) : State :=
  match (s.group? g).bind fun h => h.op? ser with
  | none => s
  | some p => s.endOp g p

/-- The copy has ended: its instruction is performed, its slot free. -/
def State.endCopy (s : State) (cid : Nat) (st : CopySt) (cause : Nat) : State :=
  match s.copies[cid]? with
  | none => s
  | some c =>
    (s.modCopy cid fun c => { c with st := st, cause := cause, tile := none, work := none }).endSer c.owner c.ser

/-- CPCAN of a copy (R341): a running one stops at its next chunk. -/
def State.cancelCopy (s : State) (cid : Nat) : State :=
  match (s.copies[cid]?).map Copy.st with
  | some .armed => s.endCopy cid .stopped 4
  | some .paused => s.endCopy cid .stopped 4
  | some .running => s.modCopy cid fun c => { c with cancel := true }
  | _ => s

/-- CPCAN (R341). -/
def execCpcan (f : WordC) (s : State) : Result :=
  s.issue fun c =>
    let h := Use.src (Want.sreg 1) f.d
    let p : Plan := ⟨clauseWord 0x286 f.bits, handleOk c f h, false, [h], [], 0⟩
    s.checkedOn c [h] p fun os =>
      match os with
      | h :: _ =>
        (match s.copyOf c.g c.h (c.scalar h) with
          | some k => s.cancelCopy k
          | none => s).finishNext c 0x286 f.stl p.iword
      | _ => s

/-! What a copy moves -/

/-- Widths of a source and of a destination element; a linear copy without transform moves bytes. -/
def Copy.srcWidth (c : Copy) : Nat := if c.xf = 3 then (copyWidth c.sfmt).getD 1 else (copyWidth c.ty).getD 1
def Copy.dstWidth (c : Copy) : Nat := (copyWidth c.ty).getD 1

/-- A tile has a destination stride; a linear copy has none. -/
def Copy.linear (c : Copy) : Bool := c.dstr = 0

/-- Destination rows, bytes of one, and the destination span (R329). -/
def Copy.destRows (c : Copy) : Nat := if c.xf = 2 then c.len else c.rows
def Copy.rowBytes (c : Copy) : Nat :=
  if c.linear && c.xf = 0 then c.len else if c.xf = 2 then c.rows * c.dstWidth else c.len * c.dstWidth
def Copy.dstStep (c : Copy) : Nat := if c.linear then c.rowBytes + 1 else c.dstr.toNat
def Copy.span (c : Copy) : Nat := if c.linear then c.rowBytes else (c.destRows - 1) * c.dstStep + c.rowBytes

/-- The address of byte `i` of source row r. -/
def Copy.srcAt (c : Copy) (r i : Nat) : Nat := wrap (c.src + r * c.sstr + i) 64
/-- Source rows and bytes of one (R334). -/
def Copy.srcRowBytes (c : Copy) : Nat :=
  match c.xf with
  | 0 => c.rowBytes
  | 1 => c.len / 2 * c.srcWidth + c.len / 8
  | _ => c.len * c.srcWidth

/-- The first destination offset at or above `o` (R331): rows of `rowBytes` bytes, `dstStep` apart. -/
def Copy.nextOffset (c : Copy) (o : Nat) : Nat := if o % c.dstStep < c.rowBytes then o else (o / c.dstStep + 1) * c.dstStep

/-- The offset at which the 128-byte block of destination offset `o` ends. -/
def Copy.blockEnd (c : Copy) (o : Nat) : Nat := o + 128 - (c.dst + o) % 128

/-- The destination offsets of the chunk that starts at `o`. -/
def Copy.chunk (c : Copy) (o : Nat) : List Nat :=
  ((Machine.span o (min (c.blockEnd o) c.span - o))).filter fun q => q % c.dstStep < c.rowBytes

/-- The source bytes that a destination offset needs (R331, R335, R336); under XF = 2 the tile is read whole. -/
def Copy.sources (c : Copy) (o : Nat) : List Nat :=
  let r := o / c.dstStep
  let i := o % c.dstStep
  match c.xf with
  | 0 => [c.srcAt r i]
  | 1 =>
    let w := c.dstWidth
    let q := i / w / 4
    c.srcAt r (c.len / 2 * w + q / 2) :: (List.range (2 * w)).map fun k => c.srcAt r (2 * q * w + k)
  | 2 => []
  | _ => (List.range c.srcWidth).map fun k => c.srcAt r (i / c.dstWidth * c.srcWidth + k)

/-- Every byte of the source tile (R336). -/
def Copy.tileSources (c : Copy) : List Nat :=
  (List.range c.rows).flatMap fun r => (List.range c.srcRowBytes).map fun i => c.srcAt r i

/-- The byte of destination offset `o`, from the bytes at source addresses (R335, R336). -/
def Copy.byteAt (c : Copy) (flush : Bool) (get : Nat → Byte) (o : Nat) : Byte :=
  let r := o / c.dstStep
  let i := o % c.dstStep
  let num (a n : Nat) : Nat := leNat ((List.range n).map fun k => get (c.srcAt r (a + k)))
  match c.xf with
  | 0 => get (c.srcAt r i)
  | 1 =>
    let w := c.dstWidth
    let e := i / w
    let q := e / 4
    let nib := (num (c.len / 2 * w + q / 2) 1) / (if q % 2 = 0 then 1 else 16) % 16
    if e % 4 = nib / 4 then get (c.srcAt r ((2 * q + 1) * w + i % w))
    else if e % 4 = nib % 4 then get (c.srcAt r (2 * q * w + i % w))
    else 0
  | 2 =>
    let w := c.dstWidth
    ((c.tile.getD [])[(i / w * c.len + r) * w + i % w]?).getD 0
  | _ =>
    let w := c.dstWidth
    let v := num (i / w * c.srcWidth) c.srcWidth
    let out := fpConvert ((ffOf c.sfmt).getD .f32) ((ffOf c.ty).getD .f32) .rne flush v
    BitVec.ofNat 8 (out.enc / 256 ^ (i % w))

/-! Running a copy -/

/-- Runs of consecutive addresses, each with its length. -/
def runs : List Nat → List (Nat × Nat)
  | [] => []
  | a :: r =>
    match runs r with
    | [] => [(a, 1)]
    | (b, n) :: rest => if a + 1 = b then (a, n + 1) :: rest else (a, 1) :: (b, n) :: rest

/-- Addresses translated: the physical address of each, or a fault. -/
def State.translateRuns (s : State) (who : Who) (need : Need) (contract : Nat) (miss : Bool) :
    List (Nat × Nat) → SpanFault ⊕ Span
  | [] => .inr ⟨[], [], false⟩
  | (a, n) :: r =>
    match s.translateSpan who need (some contract) miss a n with
    | .inl f => .inl f
    | .inr sp =>
      match s.translateRuns who need contract miss r with
      | .inl f => .inl f
      | .inr t => .inr ⟨sp.pas ++ t.pas, sp.uses ++ t.uses, sp.mism || t.mism⟩

/-- A fault's cause (R338): 6 and 7 pause, the others stop. -/
def copyCause (f : SpanFault) : Nat :=
  match f.fault with
  | .cmix => 2
  | .revoke => 3
  | .ecc => 5
  | .firstTouch => 6
  | .absent => if unstagedWindow f.va then 7 else 6
  | _ => 1

/-- The block whose group issued the copy, when it lets the copy run: a swap or a pre-emption pauses it (R338). -/
def State.copyHome (s : State) (c : Copy) : Option (Block × Group × Launch) :=
  match s.block? c.owner.bid with
  | none => none
  | some b =>
    match b.groups[c.owner.gid]?, s.launches[b.lid]? with
    | some h, some l => if (b.place = .resident || b.place = .exited) && l.live then some (b, h, l) else none
    | _, _ => none

/-- The ranges that a copy has yet to read, and to write, as starts and lengths. -/
def Copy.readsLeft (c : Copy) : List (Nat × Nat) :=
  if c.tile.isSome then []
  else (List.range c.rows).filterMap fun r =>
    if c.xf = 2 || c.wp < r * c.dstStep + c.rowBytes then some (c.srcAt r 0, c.srcRowBytes) else none
def Copy.writesLeft (c : Copy) : List (Nat × Nat) :=
  (List.range c.destRows).filterMap fun r =>
    let lo := max c.wp (r * c.dstStep)
    let hi := r * c.dstStep + c.rowBytes
    if lo < hi then some ((c.dst + lo) % 2 ^ 64, hi - lo) else none

/-- An earlier copy of the group has yet to act on one of these bytes (R120, R136, R333). -/
def State.copyBehind (s : State) (c : Copy) (srcs dsts : List Nat) : Bool :=
  let phys := s.physRanges (s.whoGroup c.owner)
  s.copies.any fun e =>
    e.owner = c.owner && e.inFlight && e.ser < c.ser &&
      (rangesMeet (phys (runs (srcs ++ dsts))) (phys e.writesLeft) || rangesMeet (phys (runs dsts)) (phys e.readsLeft))

/-- The copy pauses or stops at a fault (R338). -/
def State.copyFault (s : State) (cid : Nat) (c : Copy) (f : SpanFault) : State :=
  let cause := copyCause f
  if cause = 6 then
    let w := s.whoGroup c.owner
    let lpb := ((s.launchOf c.owner.bid).map Launch.lpb).getD 0
    (s.modCopy cid fun c => { c with st := .paused, cause := 6 }).report (faultRec f.va w.asid 3 w.core lpb)
  else if cause = 7 then s.modCopy cid fun c => { c with st := .paused, cause := 7 }
  else
    let t := s.endCopy cid .stopped cause
    if cause = 5 then t.killGroup c.owner trapECCUNC else t

/-- GSTAT.CMIXS and the status bit after a mismatch that proceeds (R187, R338). -/
def State.copyMixed (s : State) (cid : Nat) (c : Copy) (mism : Bool) : State :=
  if mism then
    (s.modCopy cid fun c => { c with cmixs := true }).modGroup c.owner fun h => h.raise gsCMIXS
  else s

/-- What a copy does next: the source addresses that it reads, of its tile at first under XF = 2, and the destination offsets
of its chunk (R331, R336). -/
def Copy.next (c : Copy) : List Nat × List Nat :=
  if c.xf = 2 && c.tile.isNone then (c.tileSources.eraseDups, [])
  else
    let offs := c.chunk (c.nextOffset c.wp)
    ((offs.flatMap c.sources).eraseDups, offs)

/-- Translates and checks every byte of the copy's next chunk, or of its tile, once (R331, R339). It waits for earlier copies
of its group, and for staged stores of its block to its destination, which come first in the coherence order (R141). -/
def State.startChunk (s : State) (cid : Nat) (c : Copy) (b : Block) (l : Launch) : State :=
  let who := s.whoGroup c.owner
  let (srcs, offs) := c.next
  let dsts := offs.map fun q => (c.dst + q) % 2 ^ 64
  if s.copyBehind c srcs dsts then s
  else
    match s.translateRuns who .load l.contract c.miss (runs srcs) with
    | .inl f => s.copyFault cid c f
    | .inr sp =>
      match s.translateRuns who .store l.contract c.miss (runs dsts) with
      | .inl f => s.copyFault cid c f
      | .inr dp =>
        if b.reserveTouches (fun _ => true) dp.pas then s
        else
          let s := ((s.useTrans who false sp.uses).useTrans who true dp.uses).copyMixed cid c (sp.mism || dp.mism)
          s.modCopy cid fun k => { k with work := some ⟨srcs.zip sp.pas, offs.zip dp.pas, [], []⟩ }

/-- The source bytes of the chunk have been read: its destination bytes are written in ascending order, all that are left or
the next piece of them, and the write pointer follows the last (R131, R331, R332). A poisoned word that the chunk covers
whole is one piece (R452). -/
def State.copyWrite (s : State) (cid : Nat) (c : Copy) (w : ChunkWork) (l : Launch) (all : Bool) : State :=
  let left := w.dst.filter fun q => !w.put.contains q.1
  let next (h q : Nat × Nat) : Bool :=
    q.2 / 4 = h.2 / 4 || (s.eccWord q.2 = s.eccWord h.2 && s.mends (w.dst.map Prod.snd) h.2)
  let now := if all then left else left.filter fun q => left.head?.any fun h => next h q
  let put := w.put ++ now.map Prod.fst
  let s := s.writeFor [s.lidOf c.owner.bid] (now.map fun q =>
    (q.2, c.byteAt (vecFlush l.contract) (fun a => (assocFind w.got a).getD 0) q.1))
  if w.dst.all fun q => put.contains q.1 then
    let wp := min (c.blockEnd (c.nextOffset c.wp)) c.span
    let s := s.modCopy cid fun k => { k with wp := wp, work := none }
    if c.nextOffset wp ≥ c.span then s.endCopy cid .done 0 else s
  else s.modCopy cid fun k => { k with work := some { w with put := put } }

/-- The chunk in progress goes on to its end, or by one piece (R146, R332): the source bytes in the aligned unit of 4 bytes
that holds `piece`, or, when all are read, the next destination bytes. -/
def State.copyWork (s : State) (cid : Nat) (c : Copy) (w : ChunkWork) (l : Launch) (piece : Option Nat) : State :=
  let unread := w.src.filter fun q => (assocFind w.got q.1).isNone
  let now := unread.filter fun q => piece.all fun k => q.2 / 4 = k / 4
  if s.poisoned (now.map Prod.snd) then s.copyFault cid c ⟨.ecc, c.src⟩
  else
    let got := w.got ++ (now.zip (s.seenBytes c.owner.bid (now.map Prod.snd))).map fun q => (q.1.1, q.2)
    let w' := { w with got := got }
    if piece.isSome && !unread.isEmpty && now.length < unread.length then
      s.modCopy cid fun k => { k with work := some w' }
    else if w.dst.isEmpty then
      s.modCopy cid fun k => { k with tile := some (c.tileSources.map fun a => (assocFind got a).getD 0), work := none }
    else if piece.isSome && !unread.isEmpty then s.modCopy cid fun k => { k with work := some w' }
    else s.copyWrite cid c w' l piece.isNone

/-- The copy begins its next chunk, or goes on with the one in progress (R331). -/
def State.copyNext (s : State) (cid : Nat) (c : Copy) (b : Block) (l : Launch) (piece : Option Nat) : State :=
  match c.work with
  | some w => s.copyWork cid c w l piece
  | none =>
    if (c.xf ≠ 2 || c.tile.isSome) && c.nextOffset c.wp ≥ c.span then s.endCopy cid .done 0
    else
      let t := s.startChunk cid c b l
      match piece, t.copies[cid]? with
      | none, some k =>
        match k.work with
        | some w => t.copyWork cid k w l none
        | none => t
      | _, _ => t

/-- The edge-predecessors of a copy or a step are performed (R130). -/
def Block.copyEdgesMet (b : Block) (gid : Nat) (h : Group) (ser : Nat) : Bool := (h.op? ser).any (b.edgesMet gid h)

/-- COPY_START (R331, R337): arming, with LATE, and the start at the first tick at or after T. -/
def execCopyStart (s : State) : Result :=
  match s.issuer with
  | .copy cid =>
    match s.copies[cid]? with
    | none => .next s
    | some c =>
      match s.copyHome c with
      | none => .next s
      | some (b, h, _) =>
        if c.st ≠ .armed || !(c.set || b.copyEdgesMet c.owner.gid h c.ser) then .next s
        else
          let due := c.timed.all fun t => t ≤ s.time
          let late := if c.set then c.late else c.timed.any fun t => t < s.time
          .next (s.modCopy cid fun c => { c with set := true, late := late, st := if due then .running else .armed })
  | _ => .next s

/-- The copy has begun to write its chunk (R341). -/
def Copy.writing (c : Copy) : Bool := c.work.any fun w => !w.put.isEmpty

/-- A block's copies pause between chunks (R56, R155): a chunk that is being written is finished, another one is translated
and read afresh (R339). -/
def State.finishChunks (s : State) (bid : Nat) (b : Block) (l : Launch) : State :=
  (List.range s.copies.length).foldl (fun s k =>
    match s.copies[k]? with
    | none => s
    | some c =>
      if c.owner.bid ≠ bid || c.st ≠ .running then s
      else if c.writing then s.copyNext k c b l none
      else s.modCopy k fun c => { c with work := none }) s

/-- A running copy goes on; one that CPCAN stops finishes the chunk that it has begun to write (R341). -/
def State.copyChunk (s : State) (cid : Nat) (piece : Option Nat) : State :=
  match s.copies[cid]? with
  | none => s
  | some c =>
    match s.copyHome c with
    | none => s
    | some (b, _, l) =>
      if c.st ≠ .running then s
      else if c.cancel && !c.writing then s.endCopy cid .stopped 4
      else s.copyNext cid c b l piece

/-- COPY_CHUNK (R331): the next chunk or a piece of it, the read of a tile, or the stop that CPCAN asked for. -/
def execCopyChunk (s : State) : Result :=
  match s.issuer with
  | .copy cid => .next (s.copyChunk cid none)
  | .part (.copy cid) k => .next (s.copyChunk cid (some k))
  | _ => .next s

/-- The next translations of a paused copy meet no fault that pauses it. -/
def State.copyClear (s : State) (c : Copy) (l : Launch) : Bool :=
  let who := s.whoGroup c.owner
  let (srcs, offs) := c.next
  let dsts := offs.map fun q => (c.dst + q) % 2 ^ 64
  let pauses (r : SpanFault ⊕ Span) : Bool :=
    match r with
    | .inl f => copyCause f ≥ 6
    | .inr _ => false
  !pauses (s.translateRuns who .load l.contract c.miss (runs srcs))
    && !pauses (s.translateRuns who .store l.contract c.miss (runs dsts))

/-- A paused copy goes on at its WP once its cause has cleared (R338, R339). -/
def State.resumeCopy (s : State) (cid : Nat) : State :=
  match s.copies[cid]? with
  | none => s
  | some c =>
    match s.copyHome c with
    | none => s
    | some (_, _, l) =>
      if c.st = .paused && s.copyClear c l then s.modCopy cid fun c => { c with st := .running, cause := 0 } else s

/-- COPY_RESUME (R338). -/
def execCopyResume (s : State) : Result :=
  match s.issuer with
  | .copy cid => .next (s.resumeCopy cid)
  | _ => .next s

end Sys2Proof.Machine
end

