-- ==== Sys2Proof/Machine/Function.lean ====
section
/-!
DEFINITION. The class-3 instructions of the function engine: function pairs (R304 to R308), quantisation (R309 to
R314), Kite blocks (R315 to R318) and random numbers (R319 to R323).
-/
namespace Sys2Proof.Machine

/-! Function pairs -/

/-- The latency of a function pair (R301). -/
def fnLatency (fn : Fn) (fast : Bool) : Nat :=
  if fast then (if fn = .div then 14 else 12) else if fn = .div || fn = .sqt then 24 else 20

/-- f32, f16, bf16, pf16, pbf16. -/
def tyFn (t : Nat) : Bool := tyFloat t && t ≠ tF64

/-- A function pair (R304). -/
def State.functionPair (s : State) (op : BitVec 10) (f : WordV) (fn : Fn) (fast : Bool) : Result :=
  let t := f.ty.toNat
  let n := if fn = .div then 2 else 1
  let fields := if fn = .div then fields2.rounds else fields1.rounds
  s.vector op f (fields.ok f && tyFn t) (vUses t n f) [] (fnLatency fn fast) fun c os =>
    let k := (ffOf t).getD .f32
    toLanesCond c f os fun j => laneDelivered t fun i =>
      fnElement fn fast k (.ofRM f.rm) c.l.contract (opElem c os t 1 j i) (opElem c os t 2 j i)

/-- EX2F (R304). -/
def execEx2f (f : WordV) (s : State) : Result := s.functionPair 0x181 f .ex2 true
/-- EX2R (R304). -/
def execEx2r (f : WordV) (s : State) : Result := s.functionPair 0x182 f .ex2 false
/-- LG2F (R304). -/
def execLg2f (f : WordV) (s : State) : Result := s.functionPair 0x183 f .lg2 true
/-- LG2R (R304). -/
def execLg2r (f : WordV) (s : State) : Result := s.functionPair 0x184 f .lg2 false
/-- RCPF (R304). -/
def execRcpf (f : WordV) (s : State) : Result := s.functionPair 0x185 f .rcp true
/-- RCPR (R304). -/
def execRcpr (f : WordV) (s : State) : Result := s.functionPair 0x186 f .rcp false
/-- RSQF (R304). -/
def execRsqf (f : WordV) (s : State) : Result := s.functionPair 0x187 f .rsq true
/-- RSQR (R304). -/
def execRsqr (f : WordV) (s : State) : Result := s.functionPair 0x188 f .rsq false
/-- SQTF (R304). -/
def execSqtf (f : WordV) (s : State) : Result := s.functionPair 0x189 f .sqt true
/-- SQTR (R304). -/
def execSqtr (f : WordV) (s : State) : Result := s.functionPair 0x18A f .sqt false
/-- DIVF (R304). -/
def execDivf (f : WordV) (s : State) : Result := s.functionPair 0x18B f .div true
/-- DIVR (R304). -/
def execDivr (f : WordV) (s : State) : Result := s.functionPair 0x18C f .div false
/-- SINF (R304). -/
def execSinf (f : WordV) (s : State) : Result := s.functionPair 0x18D f .sin true
/-- SINR (R304). -/
def execSinr (f : WordV) (s : State) : Result := s.functionPair 0x18E f .sin false
/-- COSF (R304). -/
def execCosf (f : WordV) (s : State) : Result := s.functionPair 0x18F f .cos true
/-- COSR (R304). -/
def execCosr (f : WordV) (s : State) : Result := s.functionPair 0x190 f .cos false
/-- TNHF (R304). -/
def execTnhf (f : WordV) (s : State) : Result := s.functionPair 0x191 f .tnh true
/-- TNHR (R304). -/
def execTnhr (f : WordV) (s : State) : Result := s.functionPair 0x192 f .tnh false
/-- SIGF (R304). -/
def execSigf (f : WordV) (s : State) : Result := s.functionPair 0x193 f .sig true
/-- SIGR (R304). -/
def execSigr (f : WordV) (s : State) : Result := s.functionPair 0x194 f .sig false

/-! Quantisation -/

/-- The control value of R309. -/
structure QCtl where
  ph : Nat
  di : Bool
  sel : Nat
  qf : Nat
  deriving DecidableEq, Repr

def QCtl.of (v : Nat) : QCtl := ⟨bitsOf v 3 0, bitOf v 4, bitsOf v 6 5, bitsOf v 11 8⟩

/-- n8 and n4 carry a zero point. -/
def QCtl.unsigned (q : QCtl) : Bool := q.qf = 8 || q.qf = 10

/-- A defined control value without reserved bits (R302, R309). -/
def qctlOk (v : Nat) : Bool :=
  let q := QCtl.of v
  bitOf v 7 = false && v / 2 ^ 12 = 0 && (q.qf = 2 || q.qf = 3 || (7 ≤ q.qf && q.qf ≤ 10))
    && (!q.unsigned || q.sel ≤ 2)

/-- The floating-point format of a target. -/
def QCtl.ff (q : QCtl) : Option FF := if q.qf = 2 then some .e4m3 else if q.qf = 3 then some .e5m2 else none

/-- qmin and qmax of an integer target, and qmax of any (R310, R313). -/
def QCtl.qmin (q : QCtl) : Int := if q.qf = 7 then -128 else if q.qf = 9 then -8 else 0
def QCtl.qmax (q : QCtl) : Nat :=
  match q.qf with
  | 2 => 448 | 3 => 57344 | 7 => 127 | 8 => 255 | 9 => 7 | _ => 15

/-- qh of R310. -/
def QCtl.qh (q : QCtl) : Nat :=
  match q.qf with
  | 7 => 127 | 8 => 127 | 9 => 7 | 10 => 7 | _ => q.qmax

/-- The least s with x ≤ q · 2^s, for x > 0 (R310). -/
def leastScale (x : Dy) (q : Nat) : Int :=
  let s0 := x.log2 - (Nat.log2 q : Int) - 1
  if Dy.le x ⟨q, s0⟩ then s0 else if Dy.le x ⟨q, s0 + 1⟩ then s0 + 1 else s0 + 2

/-- What R310 takes of a block: least and greatest finite value. -/
structure BlockRange where
  mn : Dy
  mx : Dy
  deriving DecidableEq, Repr

def BlockRange.of (l : List Dy) : BlockRange :=
  match l with
  | [] => ⟨Dy.zero, Dy.zero⟩
  | x :: r => r.foldl (fun b y => ⟨if Dy.lt y b.mn then y else b.mn, if Dy.lt b.mx y then y else b.mx⟩) ⟨x, x⟩

def BlockRange.flat (b : BlockRange) : Bool := (b.mx.sub b.mn).isZero
def BlockRange.lo (b : BlockRange) : Dy := if b.mn.isNeg then b.mn else Dy.zero
def BlockRange.hi (b : BlockRange) : Dy := if b.mx.isNeg then Dy.zero else b.mx

/-- The exponent s of a block (R310). -/
def BlockRange.scale (b : BlockRange) (q : QCtl) : Int :=
  let s : Int :=
    if b.flat then (if b.mn.isZero then 0 else leastScale b.mn.abs q.qh)
    else if q.unsigned then leastScale (b.hi.sub b.lo) q.qmax
    else leastScale (if Dy.lt b.mn.abs b.mx.abs then b.mx.abs else b.mn.abs) q.qmax
  satInt s (-127) 127

/-- The zero point of R312 for a block and an exponent. -/
def BlockRange.zeroPoint (b : BlockRange) (q : QCtl) (s : Int) : Nat :=
  if b.flat then (if b.mn.isZero then 0 else (q.qmax + 1) / 2)
  else (satInt ((b.lo.neg.scale (-s)).toInt .rne) 0 q.qmax).toNat

/-- Byte i of a lane, and a lane with byte i replaced. -/
def byteOf (x i : Nat) : Nat := bitsOf x (8 * i + 7) (8 * i)
def setByte (x i v : Nat) : Nat := x - byteOf x i * 256 ^ i + v % 256 * 256 ^ i

/-- The lanes of the active set in a lane's 16-lane block. -/
def blockLanes (m : Lanes) (k : Nat) : List Nat := (laneList m).filter fun j => j / 16 = k

/-- The values of operand 1 in the active lanes of block k, as read. -/
def blockValues (c : Ctx) (f : WordV) (os : List Opnd) (k : Nat) : List Val :=
  (blockLanes (c.active f.km) k).map fun j => FF.f32.read c.flush (opLane c os 1 j)
def blockRange (c : Ctx) (f : WordV) (os : List Opnd) (k : Nat) : BlockRange :=
  BlockRange.of (((blockValues c f os k).filter fun v => !v.isNan && !v.isInf).map Val.dy)

/-- The ranges of the six blocks. -/
def blockRanges (c : Ctx) (f : WordV) (os : List Opnd) : List (Nat × BlockRange) :=
  (List.range 6).map fun k => (k, blockRange c f os k)

/-- A quantisation instruction on `uses`, its control value last (R309); `ok` is what it asks of the value further. -/
def State.quantise (s : State) (op : BitVec 10) (f : WordV) (fields : VFields) (uses : List Use) (lat : Nat)
    (ok : QCtl → Bool) (e : Ctx → List Opnd → QCtl → Eff) : Result :=
  let ctl := Use.src (Want.vscal tB32) f.c
  let good (c : Ctx) : Bool := !(c.peek ctl).any fun v => !(qctlOk v && ok (QCtl.of v))
  s.vectorIf op f (fun c => fields.ok f && f.ty.toNat = tF32 && good c) [ctl] (uses ++ [ctl]) [] lat fun c os =>
    e c os (QCtl.of (opLane c os uses.length 0))

/-- A, and C as an operand. -/
def fieldsAC : VFields := { fields1 with c := true }

/-- Invalid in the active lanes that hold a NaN or an infinity (R310). -/
def nonFinite (c : Ctx) (f : WordV) (os : List Opnd) : List (Nat × Nat) :=
  (laneList (c.active f.km)).map fun j =>
    let v := FF.f32.read c.flush (opLane c os 1 j)
    (j, if v.isNan || v.isInf then condNV else 0)

/-- GSTAT.ZRANGE when an active block has a zero range (R310). -/
def zeroRange (c : Ctx) (f : WordV) (rs : List (Nat × BlockRange)) : Nat :=
  if rs.any fun p => p.2.flat && !(blockLanes (c.active f.km) p.1).isEmpty then gsZRANGE else 0

/-- QSCL (R311). -/
def execQscl (f : WordV) (s : State) : Result :=
  s.quantise 0x195 f fieldsAC [Use.both (Want.vreg 1) f.d, Use.src (Want.vsrc tF32) f.a] 10 (fun _ => true)
    fun c os q =>
      let rs := blockRanges c f os
      let e := toLanes c f os fun j =>
        let s := ((assocFind rs (j / 16)).map fun r => r.scale q).getD 0
        setByte (opLane c os 0 j) q.sel (s + 127).toNat
      { e with gstat := zeroRange c f rs, conds := nonFinite c f os }

/-- QZP (R312). -/
def execQzp (f : WordV) (s : State) : Result :=
  s.quantise 0x196 f fieldsAC [Use.both (Want.vreg 1) f.d, Use.src (Want.vsrc tF32) f.a] 10 QCtl.unsigned
    fun c os q =>
      let rs := blockRanges c f os
      let e := toLanes c f os fun j =>
        let d := opLane c os 0 j
        let z := ((assocFind rs (j / 16)).map fun r => r.zeroPoint q ((byteOf d q.sel : Int) - 127)).getD 0
        setByte d (q.sel + 1) z
      { e with gstat := zeroRange c f rs, conds := nonFinite c f os }

/-- The offset of dithering added to |y| (R313, R316): (bitrev4(i + p) + 0.5) / 16. -/
def ditherOffset (i p : Nat) : Dy := ⟨2 * (bitRev 4 ((i + p) % 16) : Nat) + 1, -5⟩

/-- qcvt of R313; n4 codes are four bits whatever z holds (R309). -/
def qcvt (fl : Bool) (q : QCtl) (x : Val) (s : Int) (z i : Nat) : Delivered :=
  let mask (v : Int) : Nat := wrap v (if q.qf ≥ 9 then 4 else 8)
  match q.ff with
  | some k =>
    match x with
    | .nan _ => ⟨k.nan, condNV⟩
    | .inf n => ⟨k.maxFin + (if n then k.signBit else 0), condNV⟩
    | v =>
      let y : Val := match v with | .fin d => .fin (d.scale (-s)) | w => w
      let r := if q.di then k.dither fl y i q.ph else k.enc .rne fl y
      ⟨if (k.value r).isInf then k.maxFin + (if k.sign r then k.signBit else 0) else r, 0⟩
  | none =>
    match x with
    | .nan _ => ⟨mask z, condNV⟩
    | .inf n => ⟨mask (if n then q.qmin else q.qmax), condNV⟩
    | v =>
      let y := v.dy.scale (-s)
      let m : Int :=
        if q.di then
          let n : Int := (y.abs.add (ditherOffset i q.ph)).quo 0
          if y.isNeg then -n else n
        else y.toInt .rne
      ⟨mask (satInt (m + z) q.qmin q.qmax), 0⟩

/-- A, B and C. -/
def fieldsABC : VFields := { fields2 with c := true }

/-- The exponent and the zero point that lane j of operand k holds (R309, R313). -/
def laneScale (c : Ctx) (os : List Opnd) (q : QCtl) (k j : Nat) : Int := (byteOf (opLane c os k j) q.sel : Int) - 127
def laneZero (c : Ctx) (os : List Opnd) (q : QCtl) (k j : Nat) : Nat :=
  if q.unsigned then byteOf (opLane c os k j) (q.sel + 1) else 0

/-- QCVT (R313). -/
def execQcvt (f : WordV) (s : State) : Result :=
  let uses := [Use.dst (Want.vreg 1) f.d, Use.src (Want.vsrc tF32) f.a, Use.src (Want.vsrc tF32) f.b]
  s.quantise 0x197 f fieldsABC uses 8 (fun _ => true) fun c os q =>
    toLanesCond c f os fun j =>
      qcvt c.flush q (FF.f32.read c.flush (opLane c os 1 j)) (laneScale c os q 2 j) (laneZero c os q 2 j) (j % 16)

/-- The value of a code, less the zero point of an integer target (R314). A subnormal e4m3 or e5m2 code keeps its value
under every contract (DESIGN CHOICE, log 67). -/
def codeValue (q : QCtl) (code z : Nat) : Val :=
  match q.ff with
  | some k => k.value (code % 256)
  | none => Val.ofInt (asInt (!q.unsigned) (if q.qf ≥ 9 then 4 else 8) code - z)

/-- DQCVT (R314). -/
def execDqcvt (f : WordV) (s : State) : Result :=
  let uses := [Use.dst (Want.vreg 1) f.d, Use.src (Want.vsrc tF32) f.a, Use.src (Want.vsrc tF32) f.b]
  s.quantise 0x198 f fieldsABC uses 8 (fun _ => true) fun c os q =>
    toLanes c f os fun j =>
      let v : Val := match codeValue q (opLane c os 1 j) (laneZero c os q 2 j) with
        | .fin x => .fin (x.scale (laneScale c os q 2 j))
        | w => w
      FF.f32.enc .rne c.flush v

/-! Kite blocks -/

/-- A packed block: exponent, micro-exponents, the code of each element, and the escapes (R316). -/
structure Packed where
  e : Nat
  mu : List Nat
  codes : List (Nat × Nat)
  esc : List Nat
  deriving DecidableEq, Repr

/-- The block as a number (R165). -/
def Packed.bits (p : Packed) (M : Nat) : Nat :=
  p.e + 2 ^ 8 * packElems 1 p.mu + 2 ^ 16 * packElems (M + 1) (p.codes.map fun c => c.1 * 2 ^ M + c.2)

/-- The index of greatest magnitude among `r`, the lower one first among equals. -/
def largestOf (x : Nat → Dy) (r : List Nat) : Option Nat :=
  match r with
  | [] => none
  | i :: is => some (is.foldl (fun b j => if Dy.lt (x b).abs (x j).abs then j else b) i)

/-- The outliers that kbpack escapes: `fuel` rounds at most (R316). -/
def escapeOutliers (x : Nat → Dy) (emax : Nat) : Nat → List Nat → List Nat
  | 0, esc => esc
  | fuel + 1, esc =>
    if esc.length ≥ emax then esc
    else
      let r := (List.range 16).filter fun i => !esc.contains i
      match largestOf x r with
      | none => esc
      | some i0 =>
        match largestOf x (r.filter (· ≠ i0)) with
        | none => esc
        | some i1 =>
          if (x i1).isZero || Dy.le (x i0).abs ((x i1).abs.scale 3) then esc
          else escapeOutliers x emax fuel (esc ++ [i0])

/-- The greatest magnitude among some elements outside `esc`, 0 when there is none. -/
def maxMag (x : Nat → Dy) (esc l : List Nat) : Dy :=
  ((largestOf x (l.filter fun i => !esc.contains i)).map fun i => (x i).abs).getD Dy.zero

/-- kbpack of R316. -/
def kbpack (v : Nat → Val) (M emax : Nat) (di : Bool) (ph : Nat) : Packed :=
  let bad := (List.range 16).filter fun i => (v i).isNan || (v i).isInf
  if bad.length > emax then ⟨0xFF, List.replicate 8 0, List.replicate 16 (0, 0), []⟩
  else
    let x (i : Nat) : Dy := (v i).dy
    let esc := escapeOutliers x emax 17 bad
    let mx := maxMag x esc (List.range 16)
    let e0 := mx.log2 + 127
    let e1 := if (mx.scale (-(e0 - 127 - (M - 1)))).roundAt 0 .rne = 2 ^ M then e0 + 1 else e0
    let e : Nat := if mx.isZero then 0 else (satInt e1 0 254).toNat
    let mu (j : Nat) : Nat :=
      let pm := maxMag x esc [2 * j, 2 * j + 1]
      if !pm.isZero && (pm.scale (-((e : Int) - 128 - (M - 1)))).roundAt 0 .rne ≤ 2 ^ M - 1 then 1 else 0
    let code (i : Nat) : Nat × Nat :=
      if esc.contains i then (1, 0)
      else
        let y := (x i).abs.scale (-((e : Int) - 127 - mu (i / 2) - (M - 1)))
        let q := if di then (y.add (ditherOffset i ph)).quo 0 else y.roundAt 0 .rne
        let m := min q (2 ^ M - 1)
        (if m ≠ 0 && (v i).isNeg then 1 else 0, m)
    ⟨e, (List.range 8).map mu, (List.range 16).map code, esc⟩

/-- The words of a block in a register (R315). -/
def Kite.words : Kite → Nat
  | .kb2 => 2 | .kb4 => 3 | .kb7 => 5

/-- KBPACK's control value: PH and DI, all other bits zero (R316). -/
def kbctlOk (v : Nat) : Bool := v < 32

/-- KBPACK (R316). Its types accept no inline constant, in any field (R95). -/
def execKbpack (f : WordV) (s : State) : Result :=
  let t := f.ty.toNat
  let ctl := Use.src (Want.vsonly 1) f.c
  let uses := [compareDst 1 f, Use.src (Want.vsrc t) f.a, Use.src (Want.vsonly 1) f.b, ctl]
  let good (c : Ctx) : Bool := !(c.peek ctl).any fun v => !kbctlOk v
  s.vectorIf 0x199 f (fun c => fieldsABC.ok f && (kiteOf t).isSome && good c) [ctl] uses [] 10 fun c os =>
    let k := (kiteOf t).getD .kb7
    let emax := min (opLane c os 2 0) 16
    let ctlv := opLane c os 3 0
    let act := c.active f.km
    let blocks := (List.range 6).map fun b => (b, kbpack (fun i =>
      if act.getLsbD (16 * b + i) then FF.f32.read c.flush (opLane c os 1 (16 * b + i)) else .zero false)
        k.mag emax (bitOf ctlv 4) (bitsOf ctlv 3 0))
    match os with
    | .k m :: _ => toMask c f (.k m) fun j => ((assocFind blocks (j / 16)).map fun p => p.esc.contains (j % 16)).getD false
    | _ => toLanes c f os fun j =>
        if j % 16 < k.words then ((assocFind blocks (j / 16)).map fun p => p.bits k.mag / 2 ^ (32 * (j % 16))).getD 0 % 2 ^ 32
        else 0

/-- The Kite block that a register's 16-lane block holds (R315). -/
def kiteBlock (c : Ctx) (os : List Opnd) (k : Kite) (i b : Nat) : Nat :=
  packElems 32 ((List.range k.words).map fun w => opLane c os i (16 * b + w)) % 2 ^ (8 * k.size)

/-- KBUNPK (R318). An escape is an f32 value, so a NaN among them gives the canonical NaN (R164). -/
def execKbunpk (f : WordV) (s : State) : Result :=
  let t := f.ty.toNat
  let a := Use.src (Want.vsrc t) f.a
  let b := Use.src (Want.vreg 1) f.b
  s.vector 0x19A f (fields2.ok f && (kiteOf t).isSome) [Use.dst (Want.vreg 1) f.d, a, b] [a, b] 8 fun c os =>
    let k := (kiteOf t).getD .kb7
    let act := laneList (c.active f.km)
    let elems := act.map fun j => (j, k.elem (kiteBlock c os k 1 (j / 16)) (j % 16))
    let escs := (elems.filter fun p => p.2 = .escape).map Prod.fst
    toLanes c f os fun j =>
      match assocFind elems j with
      | some .escape => FF.f32.enc .rne c.flush (FF.f32.value (opLane c os 2 ((indexWhere (· = j) escs).getD 0)))
      | some (.value x) => FF.f32.enc .rne c.flush (Val.ofDy x false)
      | _ => FF.f32.nan

/-! Random numbers -/

/-- RNGK's fields beside A and C: KM 7, all else zero (R320). -/
def rngkOk (f : WordV) (ty c : Nat) : Bool :=
  f.km = 7 && f.d = 0 && f.b = 0 && f.z = 0 && f.rm = 0 && f.ty.toNat = ty && f.c.toNat = c && ruOk f.ru 0b101

/-- RNGK with C = 0 (R320). -/
def execRngk (f : WordV) (s : State) : Result :=
  s.vector 0x19B f (rngkOk f tB32 0x180) [Use.src (Want.vscal tB32) f.a] [] 0 fun c os =>
    { rkey := some (BitVec.ofNat 64 (c.l.seed.toNat + zext (opLane c os 0 0) 32 * 0x9E3779B97F4A7C15)) }

/-- RNGK with C = 1 (R320). -/
def execRngkB64 (f : WordV) (s : State) : Result :=
  s.vector 0x19B f (rngkOk f tB64 0x181) [Use.src (Want.vsonly 2) f.a] [] 0 fun c os =>
    { rkey := some (BitVec.ofNat 64 (opLane c os 0 0)) }

/-- The global lane number (R322). -/
def Ctx.globalLane (c : Ctx) (j : Nat) : Nat := ((c.b.bseq * c.l.ngrpOf c.b + c.g.gid) * 96 + j) % 2 ^ 32

/-- A draw (R322, R323): `stream` gives n, `value` what the lane of d receives. -/
def Ctx.draw (c : Ctx) (f : WordV) (os : List Opnd) (stream : Nat → Nat) (value : Nat → Nat) : Eff :=
  match os with
  | d :: a :: _ =>
    let act := laneList (c.active f.km)
    let us := act.map fun j => (j, value (rngMix c.h.rkey.toNat (stream j) (opLane c os 1 j)))
    let wraps := lanesFrom (act.filter fun j => opLane c os 1 j = 2 ^ 32 - 1)
    { writes := c.vput d f.km f.z (fun j => (assocFind us j).getD 0)
        ++ c.vput a f.km f.z (fun j => (opLane c os 1 j + 1) % 2 ^ 32)
      gstat := if wraps = 0 then 0 else gsRNGWRAP
      after := if wraps ≠ 0 && bitOf c.h.enables 10 then some (trapRNGWRAP, wraps) else none }
  | _ => {}

/-- D and A name different registers after indexing (R322). -/
def apart (f : WordV) (c : Ctx) : Bool :=
  resolve c.ix (Want.vreg 1) f.d ≠ resolve c.ix (Want.vreg 1) f.a

/-- RNG (R322). -/
def execRng (f : WordV) (s : State) : Result :=
  let lane := f.c.toNat = 0x180
  let own := f.c.toNat = 0x181
  let ok := f.rm = 0 && f.ty.toNat = tN32 && ((lane && f.b = 0) || own) && ruOk f.ru (if own then 0b111 else 0b101)
  let uses := [Use.dst (Want.vreg 1) f.d, Use.both (Want.vreg 1) f.a]
    ++ (if own then [Use.src (Want.vsrc tN32) f.b] else [])
  s.vectorIf 0x19C f (fun c => ok && apart f c) [] uses [] 8 fun c os =>
    c.draw f os (fun j => if own then opLane c os 2 j else c.globalLane j) id

/-- RNGF (R322). -/
def execRngf (f : WordV) (s : State) : Result :=
  let ok := f.rm = 0 && f.ty.toNat = tF32 && f.b = 0 && (f.c.toNat = 0x180 || f.c.toNat = 0x181) && ruOk f.ru 0b101
  let uses := [Use.dst (Want.vreg 1) f.d, Use.both (Want.vreg 1) f.a]
  s.vectorIf 0x19D f (fun c => ok && apart f c) [] uses [] 8 fun c os =>
    c.draw f os c.globalLane fun u =>
      FF.f32.enc .rne false (Val.ofDy ⟨bitsOf u 31 8 + (if f.c.toNat = 0x181 then 1 else 0), -24⟩ false)

end Sys2Proof.Machine
end

