-- ==== Sys2Proof/Machine/TokenMask.lean ====
section
/-!
DEFINITION. The Bridle's instructions (R386 to R393), SAMPLE and SARGMX (R394 to R398): issue, and the whole effect that
their walk has (R230).
-/
namespace Sys2Proof.Machine

/-- Format Y orders on every path (R123); the scope is device (R134). -/
def orderY (f : WordY) (path : Path) : Order := ⟨f.q, f.pm, true, path, .device, .plain⟩

/-! Issue of the five operations on records -/

/-- C as the inline constant #0 or #1, and nothing else. -/
def constFlag (c : BitVec 9) : Option Bool := if c = 0x180 then some false else if c = 0x181 then some true else none

/-- TMLOAD's control value (R388). -/
def loadCtlOk (v : Nat) : Bool :=
  bitsOf v 15 1 = 0 && bitsOf v 31 29 = 0 &&
    (if bitOf v 0 then 1 ≤ bitsOf v 28 16 && bitsOf v 28 16 ≤ 4096 else bitsOf v 28 16 = 0)

/-- An operation on records: D the status, A the record, further operands, and what it becomes of their values in each
lane. -/
def State.recordOp (s : State) (op : BitVec 10) (f : WordY) (legal : Ctx → Bool) (more : List Use)
    (body : Ctx → List Opnd → BridleOp × (Nat → Nat)) : Result :=
  s.issue fun c =>
    let p : Plan := ⟨clauseWord op f.bits, legal c, false, Use.dst (Want.vreg 1) f.d :: Use.src (Want.vreg 2) f.a :: more,
      c.maskCells 7, c.exec⟩
    s.checked c p fun os =>
      match os with
      | d :: a :: rest =>
        let (o, arg) := body c rest
        let lanes := (laneList c.exec).map fun j =>
          ⟨j, c.lane a j, arg j, ((destCells c d j).head?).getD (.v 0 j)⟩
        s.startOp c (c.pend p.iword (orderY f .p4) c.exec [] ((Body.bridle o lanes).orOrder c.exec))
      | _ => s

/-- TMLOAD (R386, R388): B is a scalar pair with INIT and zero without. -/
def execTmload (f : WordY) (s : State) : Result :=
  let ctl := Use.src (Want.ssrc tB32) f.c
  let init (c : Ctx) : Bool := (c.peek ctl).any fun v => bitOf v 0
  s.issue fun c =>
    let more := if init c then [ctl, Use.src (Want.sreg 2) f.b] else [ctl]
    let ok := (c.peek ctl).all fun v => loadCtlOk v && (bitOf v 0 || f.b = 0) && ruOk f.ru (if bitOf v 0 then 0b111 else 0b101)
    let p : Plan := ⟨clauseWord 0x381 f.bits, ok, false,
      Use.dst (Want.vreg 1) f.d :: Use.src (Want.vreg 2) f.a :: more, c.maskCells 7, c.exec⟩
    s.checkedOn c [ctl] p fun os =>
      match os with
      | d :: a :: k :: rest =>
        let v := c.scalar k
        let o : BridleOp := if bitOf v 0 then .init (((rest.head?).map c.scalar).getD 0) (bitsOf v 28 16) else .bind
        let lanes := (laneList c.exec).map fun j => ⟨j, c.lane a j, 0, ((destCells c d j).head?).getD (.v 0 j)⟩
        s.startOp c (c.pend p.iword (orderY f .p4) c.exec [] ((Body.bridle o lanes).orOrder c.exec))
      | _ => s

/-- TMSTEP (R386, R390). -/
def execTmstep (f : WordY) (s : State) : Result :=
  s.recordOp 0x382 f (fun _ => f.c = 0 && ruOk f.ru 0b110) [Use.src (Want.vsrc tB32) f.b] fun c os =>
    (.step, fun j => zext (((os.head?).map fun b => c.lane b j).getD 0) 32)

/-- TMMASK (R386, R389). -/
def execTmmask (f : WordY) (s : State) : Result :=
  s.recordOp 0x383 f (fun _ => (constFlag f.c).isSome && ruOk f.ru 0b110) [Use.src (Want.vreg 2) f.b] fun c os =>
    (.mask ((constFlag f.c).getD false), fun j => ((os.head?).map fun b => c.lane b j).getD 0)

/-- TMQRY (R386, R391). -/
def execTmqry (f : WordY) (s : State) : Result :=
  s.recordOp 0x384 f (fun _ => f.b = 0 && f.c = 0 && ruOk f.ru 0b100) [] fun _ _ => (.query, fun _ => 0)

/-- TMSAVE (R386, R391). -/
def execTmsave (f : WordY) (s : State) : Result :=
  s.recordOp 0x385 f (fun _ => f.b = 0 && (constFlag f.c).isSome && ruOk f.ru 0b100) [] fun _ _ =>
    (.save ((constFlag f.c).getD false), fun _ => 0)

/-! Issue of SAMPLE and SARGMX -/

/-- The descriptor of R395 from its eight registers as one number. -/
def SampleDesc.ofScalars (v topk key : Nat) (draws : Bool) : SampleDesc :=
  { log := bitsOf v 63 0, msk := bitsOf v 127 64, lstr := bitsOf v 159 128, sbase := bitsOf v 191 160
    vocab := bitsOf v 212 192, bf := bitOf v 216, temp := bitsOf v 255 224, topk := topk, draws := draws, key := key }

/-- VF within its limits and LSTR a multiple of the element width (R395). -/
def sampleOk (v : Nat) : Bool :=
  let d := SampleDesc.ofScalars v 0 0 false
  1 ≤ d.vocab && d.vocab ≤ 2 ^ 20 && bitsOf v 215 213 = 0 && bitsOf v 223 217 = 0 && d.lstr % d.width = 0

/-- SAMPLE and SARGMX (R394, R395): D, the counter of SAMPLE, the descriptor and top-k. -/
def State.sampling (s : State) (op : BitVec 10) (f : WordY) (draws : Bool) : Result :=
  s.issue fun c =>
    let desc := Use.src (Want.sreg 8) f.b
    let d := Use.dst (Want.vreg 1) f.d
    let a := Use.both (Want.vreg 1) f.a
    let apart := resolve c.ix d.want d.field ≠ resolve c.ix a.want a.field
    let form := if draws then apart && ruOk f.ru 0b111 else f.a = 0 && f.c = 0 && ruOk f.ru 0b010
    let uses := if draws then [d, desc, a, Use.src (Want.ssrc tB32) f.c] else [d, desc]
    let p : Plan := ⟨clauseWord op f.bits, form && (c.peek desc).all sampleOk, false, uses, c.maskCells 7, c.exec⟩
    s.checkedOn c [desc] p fun os =>
      match os with
      | d :: b :: rest =>
        let topk := ((rest[1]?).map c.scalar).getD 0
        let desc := SampleDesc.ofScalars (c.scalar b) topk c.h.rkey.toNat draws
        let cell (o : Opnd) (j : Nat) : RegCell := ((destCells c o j).head?).getD (.v 0 j)
        let ctr := (rest.head?).getD d
        let lanes := (laneList c.exec).map fun j =>
          ⟨j, if draws then c.lane ctr j else 0, cell d j, cell ctr j⟩
        s.startOp c (c.pend p.iword (orderY f .p4) c.exec [] ((Body.sample desc lanes).orOrder c.exec))
      | _ => s

/-- SAMPLE (R394 to R396). -/
def execSample (f : WordY) (s : State) : Result := s.sampling 0x386 f true
/-- SARGMX (R394, R395, R397). -/
def execSargmx (f : WordY) (s : State) : Result := s.sampling 0x387 f false

end Sys2Proof.Machine
end

