-- ==== Sys2Proof/Machine/Tickets.lean ====
section
/-!
DEFINITION. The ticket unit's instructions (R410 to R413), the release of staged accesses (R402), CONTQ (R423) and
TWAIT (R424).
-/
namespace Sys2Proof.Machine

/-! Ticket instructions -/

/-- A ticket instruction (R410): D the status, A the key. `holds` says when the slot waits in state 3 for it (R411); its
wait is over once the operation is performed. -/
def State.ticketOp (s : State) (op : BitVec 10) (f : WordY) (t : TicketOp) (holds : Ctx → Word → Bool) : Result :=
  s.issue fun c =>
    let w := clauseWord op f.bits
    match c.sl.st with
    | .atEvent e => if s.waitOver c.g c.x e then s.finishNext c op f.stl w else s
    | _ =>
      let p : Plan := ⟨w, f.b = 0 && f.c = 0 && ruOk f.ru 0b100, false,
        [Use.dst (Want.sreg 1) f.d, Use.src (Want.ssrc tB32) f.a], [], 0⟩
      s.checked c p fun os =>
        match os with
        | d :: a :: _ =>
          let key : Word := BitVec.ofNat 32 (c.scalar a)
          let pend := c.pend w (orderY f .p0) allLanes [] (.ticket t key (((destCells c d 0).head?).getD (.s 0)))
          if !holds c key then s.startOp c pend
          else if c.h.streamCount f.q.toNat ≥ 63 then s.holdOn c (.stream f.q.toNat)
          else
            (s.modGroup c.g fun h => { h with ser := h.ser + 1, pend := insertPend pend h.pend }).wait c w
              (.ticket pend.ser)
        | _ => s

/-- TKBEG (R410); the slot waits when it finds no free record (R411). -/
def execTkbeg (f : WordY) (s : State) : Result :=
  s.ticketOp 0x388 f .beg fun c key => (s.ticketStatus c.b .beg key).isNone
/-- TKEND (R410). -/
def execTkend (f : WordY) (s : State) : Result := s.ticketOp 0x389 f .fin fun _ _ => false
/-- TKWAIT (R410, R411). -/
def execTkwait (f : WordY) (s : State) : Result := s.ticketOp 0x38A f .wait fun _ _ => true
/-- TKPASS (R410). -/
def execTkpass (f : WordY) (s : State) : Result := s.ticketOp 0x38B f .pass fun _ _ => false

/-- TICKET_RELEASE (R402): the head block's earliest staged access is performed; its block may be absent. -/
def execTicketRelease (s : State) : Result :=
  match s.issuer with
  | .launch lid =>
    match s.headOf lid with
    | none => .next s
    | some q =>
      match indexWhere (fun b : Block => b.lid = lid && b.place ≠ .gone && b.node.isNone && b.bseq = q) s.blocks with
      | none => .next s
      | some bid =>
        match (s.block? bid).bind fun b => b.staged.head? with
        | none => .next s
        | some e => .next (s.releaseStaged bid e)
  | _ => .next s

/-! Queries and time -/

/-- CONTQ (R423). D lies below the allotment: registers that exist above it trap with ILLOP. -/
def execContq (f : WordY) (s : State) : Result :=
  s.issue fun c =>
    let d := Use.dst (Want.sreg 8) f.d
    let ok := c.belowAllotment d && f.c = 0 && f.q = 0 && f.pm = 0 && ruOk f.ru 0b110
    let p : Plan := ⟨clauseWord 0x38E f.bits, ok, false,
      [d, Use.src (Want.ssrc tB32) f.a, Use.src (Want.ssrc tB32) f.b], [], 0⟩
    s.checked c p fun os =>
      match os with
      | d :: a :: b :: _ =>
        let k := c.scalar a
        let m := c.scalar b
        let v := if contractOk k && m ≤ 12 then leNat (recordBytes k m) else 0
        (s.land c.g c.x ((d.cells c.h.sup c.x []).zip (wordsOf 8 v))).finishNext c 0x38E f.stl p.iword
      | _ => s

/-- TWAIT (R424). -/
def execTwait (f : WordY) (s : State) : Result :=
  s.issue fun c =>
    let w := clauseWord 0x38F f.bits
    match c.sl.st with
    | .atEvent e => if s.waitOver c.g c.x e then s.finishNext c 0x38F f.stl w else s
    | _ =>
      let ok := f.d = 0 && f.b = 0 && f.c = 0 && f.q = 0 && f.pm = 0 && ruOk f.ru 0b100
      s.checked c ⟨w, ok, false, [Use.src (Want.sreg 2) f.a], [], 0⟩ fun os =>
        match os with
        | a :: _ => s.waitOrGo c 0x38F f.stl w (.time (c.scalar a))
        | [] => s

/-- TWAIT_EXPIRY (R424): the slot goes on at the first tick at or after T. -/
def execTwaitExpiry (s : State) : Result :=
  match s.issuer with
  | .slot g x =>
    match s.ctxOf g x with
    | none => .next s
    | some c =>
      match c.sl.st, c.sl.clause.bind fun k => k.words[k.pos]? with
      | .atEvent (.time t), some w =>
        if t ≤ s.time && c.b.place = .resident && c.l.st = .running then
          .next (s.finishNext c (w.extractLsb' 54 10) (w.extractLsb' 50 4) w)
        else .next s
      | _, _ => .next s
  | _ => .next s

end Sys2Proof.Machine
end

