-- ==== Sys2Proof/Machine/Collectives.lean ====
section
/-!
DEFINITION. Reduction steps (R416 to R422): CLLRED, the run of a step, its failures, and CLLQRY.
-/
namespace Sys2Proof.Machine

/-! The descriptor (R417) -/

structure RedDesc where
  src : Nat
  dst : Nat
  count : Nat
  ctl : Nat
  time : Nat
  deriving DecidableEq, Repr

def RedDesc.ofScalars (v : Nat) : RedDesc := ⟨bitsOf v 63 0, bitsOf v 127 64, bitsOf v 159 128, bitsOf v 191 160, bitsOf v 255 192⟩

def RedDesc.op (d : RedDesc) : Nat := bitsOf d.ctl 3 0
def RedDesc.timed (d : RedDesc) : Bool := bitOf d.ctl 4
def RedDesc.kind (d : RedDesc) : Nat := bitsOf d.ctl 5 5
def RedDesc.ty (d : RedDesc) : Nat := bitsOf d.ctl 12 8
def RedDesc.comm (d : RedDesc) : Nat := bitsOf d.ctl 31 16

/-- f64, f32, f16, bf16, s32, n32, s64, n64. -/
def redType (t : Nat) : Bool := (9 ≤ t && t ≤ 12) || tyInt32 t

/-- Bytes of an element. -/
def redWidth (t : Nat) : Nat := tyWidth t / 8

/-- The live communicator of an interface that a handle names, as its index (R416). -/
def State.commOf (s : State) (vif handle : Nat) : Option Nat :=
  indexWhere (fun c : Comm => c.live && c.vif = vif && c.handle = handle) s.comms

/-- Elements that a rank's destination receives. -/
def redPart (kind count nrank : Nat) : Nat := if kind = 1 then count / nrank else count

/-- The checks of R417 that trap with ILLOP; those that need NRANK are made when the handle names a communicator. -/
def RedDesc.legal (d : RedDesc) (nrank : Option Nat) : Bool :=
  let w := redWidth d.ty
  let n := nrank.getD 1
  let dl := redPart d.kind d.count n * w
  let sl := d.count * w
  let overlap := d.src < d.dst + dl && d.dst < d.src + sl && !(d.src = d.dst && sl = dl)
  d.op ≤ 2 && bitsOf d.ctl 7 6 = 0 && bitsOf d.ctl 15 13 = 0 && redType d.ty && 1 ≤ d.count && d.count ≤ 2 ^ 28
    && (d.timed || d.time = 0) && (d.kind = 0 || d.count % n = 0) && !((d.kind = 0 || nrank.isSome) && overlap)

/-- The step that a descriptor starts. -/
def RedDesc.start (d : RedDesc) (c : Ctx) (k : Nat) : RedStep :=
  { k := k, owner := c.g, lid := c.b.lid, ser := c.h.ser, src := d.src, dst := d.dst, count := d.count, op := d.op
    ty := d.ty, kind := d.kind, timed := if d.timed then some d.time else none, miss := c.h.miss, st := .armed
    cause := 0, set := false, late := false, cmixs := false, out := [], dest := [], put := [], told := none }

/-- The steps that stay recorded: those in flight and the last 16 (R422). -/
def keptSteps (l : List RedStep) : List RedStep := (l.take (l.length - 16)).filter RedStep.inFlight ++ l.drop (l.length - 16)

/-- Sixteen steps are in flight, and no further one begins (R418). -/
def Comm.full (m : Comm) : Bool := (m.steps.filter RedStep.inFlight).length ≥ 16

/-- CLLRED (R417, R418): an accepted step takes the next number; a refused handle gives 0xFFFFFFFF and nothing else. -/
def execCllred (f : WordY) (s : State) : Result :=
  s.issue fun c =>
    let src := Use.src (Want.sreg 8) f.b
    let rankOf (d : RedDesc) : Option Nat := ((s.commOf c.l.vif d.comm).bind fun k => s.comms[k]?).map Comm.nrank
    let ok := f.a = 0 && f.c = 0 && ruOk f.ru 0b010 &&
      ((c.peek src).map RedDesc.ofScalars).all fun d => d.legal (rankOf d)
    let p : Plan := ⟨clauseWord 0x38C f.bits, ok, false, [Use.dst (Want.sreg 1) f.d, src], [], 0⟩
    s.checkedOn c [src] p fun os =>
      match os with
      | d :: b :: _ =>
        let r := RedDesc.ofScalars (c.scalar b)
        let w := redWidth r.ty
        let cells := d.cells c.h.sup c.x []
        if r.src % w ≠ 0 then s.trapLanes c p.iword trapMISAL c.exec r.src
        else if r.dst % w ≠ 0 then s.trapLanes c p.iword trapMISAL c.exec r.dst
        else
          match (s.commOf c.l.vif r.comm).bind fun k => (s.comms[k]?).map fun m => (k, m) with
          | none => (s.land c.g c.x (cells.zip [0xFFFFFFFF])).finishNext c 0x38C f.stl p.iword
          | some (k, m) =>
            if m.full then s.holdOn c (.step k)
            else if c.h.streamCount f.q.toNat ≥ 63 then s.holdOn c (.stream f.q.toNat)
            else
              let n := m.nextStep
              let s : State := { s with comms := s.comms.modify k fun m =>
                { m with nextStep := (n + 1) % 2 ^ 31, steps := keptSteps (m.steps ++ [r.start c n]) } }
              let s := s.modLaunch c.b.lid fun l => { l with steps := l.steps ++ [(m.handle, n)] }
              let s := s.land c.g c.x (cells.zip [BitVec.ofNat 32 n])
              s.startOp c (c.pend p.iword (orderY f .p3) allLanes [] (.step m.handle n))
      | _ => s

/-! CLLQRY -/

/-- Words of R422: AGREED and the named step, and DONEK. -/
def Comm.queryWords (m : Comm) (k : Nat) : List Word :=
  let st (t : RedStep) : Nat := match t.st with | .armed => 1 | .running => 2 | .done => 3 | .failed => 4
  let w := match m.steps.reverse.find? fun t => t.k = k with
    | none => m.agreed
    | some t => m.agreed + 256 * st t + 4096 * t.cause + 65536 * boolNat t.late + 131072 * boolNat t.cmixs
  let done := (((m.steps.filter RedStep.inFlight).head?).map RedStep.k).getD m.nextStep
  [BitVec.ofNat 32 w, BitVec.ofNat 32 done]

/-- CLLQRY (R422): bits 31 to 16 of the handle's operand must be zero. -/
def execCllqry (f : WordY) (s : State) : Result :=
  s.issue fun c =>
    let a := Use.src (Want.ssrc tB32) f.a
    let ok := f.c = 0 && f.q = 0 && f.pm = 0 && ruOk f.ru 0b110 && !(c.peek a).any fun v => bitsOf v 31 16 ≠ 0
    let p : Plan := ⟨clauseWord 0x38D f.bits, ok, false, [Use.dst (Want.sreg 2) f.d, a, Use.src (Want.ssrc tB32) f.b], [], 0⟩
    s.checkedOn c [a] p fun os =>
      match os with
      | d :: a :: b :: _ =>
        let v := match (s.commOf c.l.vif (c.scalar a)).bind fun k => s.comms[k]? with
          | none => [0, 0]
          | some m => m.queryWords (c.scalar b)
        (s.land c.g c.x ((d.cells c.h.sup c.x []).zip v)).finishNext c 0x38D f.stl p.iword
      | _ => s

/-! Running a step -/

/-- The lesser or greater of two elements (R420): -0 below +0, any NaN gives the canonical NaN. -/
def redPick (t : Nat) (greatest : Bool) (x y : Nat) : Nat :=
  match ffOf t with
  | some f =>
    let a := f.value x
    let b := f.value y
    if a.isNan || b.isNan then f.nan
    else if greatest then (if a.below b then y else x) else (if b.below a then y else x)
  | none =>
    let v (n : Nat) : Int := asInt (tySigned t) (tyWidth t) n
    if greatest then (if v x < v y then y else x) else (if v y < v x then y else x)

/-- Element i of the result from the ranks' elements in rank order (R420). -/
def redElement (contract op t : Nat) (vs : List Nat) : Nat :=
  match op, vs with
  | _, [] => 0
  | 0, vs =>
    match ffOf t with
    | some f => collectiveSum contract f vs
    | none => vs.sum % 2 ^ tyWidth t
  | op, v :: r =>
    let one := match ffOf t with
      | some f => if (f.value v).isNan then f.nan else v
      | none => v
    r.foldl (redPick t (op = 2)) one

/-- A rank's sources as its element values. -/
def redElems (t count : Nat) (bs : List Byte) : List Nat :=
  (List.range count).map fun i => fieldOf bs (i * redWidth t) (redWidth t)

/-- The bytes that rank r's destination receives (R420). -/
def redResult (contract op t kind count nrank rank : Nat) (sources : List (List Nat)) : List Byte :=
  let n := redPart kind count nrank
  let first := if kind = 1 then rank * n else 0
  (List.range n).flatMap fun i => leBytes (redWidth t) (redElement contract op t (sources.map fun l => (l[first + i]?).getD 0))

/-- The cause of a failure at step 3 (R422). -/
def redCause (f : AFault) : Nat :=
  match f with
  | .cmix => 1
  | .ecc => 5
  | .firstTouch => 6
  | .absent => 6
  | _ => 2

/-- Changes step k of a communicator that is in flight. -/
def State.modStep (s : State) (ci k : Nat) (f : RedStep → RedStep) : State :=
  { s with comms := s.comms.modify ci fun c =>
      { c with steps := mapWhere (fun t => t.k = k && t.inFlight) f c.steps } }

/-- The other ranks' offers in rank order, when each of them is there and of the right length; none while a rank is
missing (R418). -/
def offersOf (m : Comm) (offers : List PeerOffer) : Option (List PeerOffer) :=
  let l := ((List.range m.nrank).filter (· ≠ m.rank)).map fun r => offers.find? fun o => o.rank = r
  if l.all Option.isSome then some (l.filterMap id) else none

/-- This rank's own sources and destination, checked (R419 step 3). -/
def State.redAccess (s : State) (m : Comm) (t : RedStep) : SpanFault ⊕ (Span × Span) :=
  let who := s.whoGroup t.owner
  let w := redWidth t.ty
  match s.translateSpan who .load (some m.agreed) t.miss t.src (t.count * w) with
  | .inl f => .inl f
  | .inr sp =>
    match s.translateSpan who .store (some m.agreed) t.miss t.dst (redPart t.kind t.count m.nrank * w) with
    | .inl f => .inl f
    | .inr dp => if s.poisoned sp.pas then .inl ⟨.ecc, t.src⟩ else .inr (sp, dp)

/-- The step runs (R420): every rank has passed its checks, this one has the sources of all of them, and no destination byte
is written yet. -/
def State.redStart (s : State) (ci : Nat) (m : Comm) (t : RedStep) (sp dp : Span) (offers : List PeerOffer) : State :=
  let who := s.whoGroup t.owner
  let mine := redElems t.ty t.count (s.physBytes sp.pas)
  let sources := (List.range m.nrank).map fun r =>
    match offers.find? fun o => o.rank = r with
    | some o => redElems t.ty t.count o.bytes
    | none => mine
  let out := redResult m.agreed t.op t.ty t.kind t.count m.nrank m.rank sources
  let s := (s.useTrans who false sp.uses).useTrans who true dp.uses
  let mism := sp.mism || dp.mism
  let s := if mism then s.modGroup t.owner fun h => h.raise gsCMIXS else s
  s.modStep ci t.k fun t => { t with st := .running, cause := 0, cmixs := mism, out := out, dest := dp.pas, put := [] }

/-- A running step writes element `piece` of its destination, or all that are left (R421); with the last one it is
performed. -/
def State.redWrite (s : State) (ci : Nat) (m : Comm) (t : RedStep) (piece : Option Nat) : State :=
  let w := redWidth t.ty
  let all := List.range (redPart t.kind t.count m.nrank)
  let now := all.filter fun i => !t.put.contains i && piece.all (· = i)
  let cells := now.flatMap fun i => ((t.dest.drop (i * w)).take w).zip ((t.out.drop (i * w)).take w)
  let put := t.put ++ now
  let s := s.writeFor [t.lid] cells
  if all.all put.contains then
    (s.modStep ci t.k fun t => { t with st := .done, out := [], dest := [], put := [] }).dropOp t.owner t.ser
  else s.modStep ci t.k fun t => { t with put := put }

/-- The step fails on this rank (R418, R419). -/
def State.redFail (s : State) (ci : Nat) (t : RedStep) (cause : Nat) : State :=
  let s := s.failSteps ci cause fun x => x.k = t.k
  if cause = 5 then s.kill t.lid trapECCUNC else s

/-- The step pauses on a page (R419): it stays ARMED; `own` is the address of this rank's fault, which is reported once for
each page that the step has come to wait for (R259). -/
def State.redPause (s : State) (ci : Nat) (t : RedStep) (own : Option Nat) : State :=
  let page := own.map fun va => va / 4096 * 4096
  let s := s.modStep ci t.k fun t => { t with cause := 6, told := page }
  match own with
  | none => s
  | some va =>
    if t.told = page then s
    else
      let w := s.whoGroup t.owner
      s.report (faultRec va w.asid 6 w.core (((s.launches[t.lid]?).map Launch.lpb).getD 0))

/-- The running step of that number. -/
def Comm.runningStep (m : Comm) (k : Nat) : Option RedStep := m.steps.find? fun t => t.k = k && t.st = .running

/-- The step with every rank's offer (R418 to R420). Of several failures that of the lowest rank counts. Staged stores of the
block to its destination come first in the coherence order, so that it waits for their release (R141). -/
def State.redMeet (s : State) (ci : Nat) (m : Comm) (t : RedStep) (offers : List PeerOffer) (piece : Option Nat) : State :=
  if offers.any fun o => o.op ≠ t.op || o.ty ≠ t.ty || o.kind ≠ t.kind || o.count ≠ t.count then s.redFail ci t 3
  else
    let own := s.redAccess m t
    let ownCause := match own with | .inl f => redCause f.fault | .inr _ => 0
    let causes := (List.range m.nrank).map fun r =>
      match offers.find? fun o => o.rank = r with
      | some o => o.cause
      | none => ownCause
    let failed := causes.filter fun c => c ≠ 0 && c ≠ 6
    match failed, own with
    | c :: _, _ => s.redFail ci t (if ownCause = 5 then 5 else c)
    | [], .inl f => s.redPause ci t (some f.va)
    | [], .inr (sp, dp) =>
      if causes.any (· = 6) then s.redPause ci t none
      else if offers.any fun o => o.bytes.length ≠ t.count * redWidth t.ty then s
      else if (s.block? t.owner.bid).any fun b => b.reserveTouches (fun _ => true) dp.pas then s
      else
        let u := s.redStart ci m t sp dp offers
        match ((u.comms[ci]?).bind fun n => n.runningStep t.k) with
        | none => u
        | some r => u.redWrite ci m r piece

/-- Bytes of this rank that a step reads, and those that it writes, as ranges. -/
def RedStep.readRange (t : RedStep) : Nat × Nat := (t.src, t.count * redWidth t.ty)
def RedStep.writeRange (t : RedStep) (nrank : Nat) : Nat × Nat := (t.dst, redPart t.kind t.count nrank * redWidth t.ty)

/-- An earlier step of the group, on whatever communicator, has yet to act on a byte that this one writes, or to write one
that it reads (R136). -/
def State.stepBehind (s : State) (m : Comm) (t : RedStep) : Bool :=
  let phys := s.physRanges (s.whoGroup t.owner)
  let reads := phys [t.readRange]
  let writes := phys [t.writeRange m.nrank]
  s.comms.any fun n => n.steps.any fun e =>
    e.owner = t.owner && e.inFlight && e.ser < t.ser &&
      (rangesMeet (phys [e.writeRange n.nrank]) (reads ++ writes) || rangesMeet (phys [e.readRange]) writes)

/-- A step goes on (R419): arming with LATE, the timed start, the step once every rank has issued it, and its writes, all of
them at once or one element. -/
def State.stepRun (s : State) (ci step : Nat) (offers : List PeerOffer) (piece : Option Nat) : State :=
  match (s.comms[ci]?).bind fun m => (m.steps.find? fun t => t.k = step && t.inFlight).map fun t => (m, t) with
  | none => s
  | some (m, t) =>
    match s.block? t.owner.bid, s.group? t.owner with
    | some b, some h =>
      if t.st = .running then s.redWrite ci m t piece
      else if !(t.set || b.copyEdgesMet t.owner.gid h t.ser) || s.stepBehind m t then s
      else
        let late := if t.set then t.late else t.timed.any fun u => u < s.time
        let s := s.modStep ci step fun t => { t with set := true, late := late }
        if t.timed.any fun u => s.time < u then s
        else
          match offersOf m offers with
          | none => s
          | some os => s.redMeet ci m { t with set := true, late := late } os piece
    | _, _ => s

/-- REDUCTION_STEP_RUN (R419). -/
def execReductionStepRun (step : Nat) (offers : List PeerOffer) (s : State) : Result :=
  match s.issuer with
  | .comm ci => .next (s.stepRun ci step offers none)
  | .part (.comm ci) k => .next (s.stepRun ci step offers (some k))
  | _ => .next s

/-- STEP_ABORT (R421, R459): another rank aborts the step. In flight here, it fails with ABORT; ended or not, the launch that
issued it here is killed as though it shared the fault domain, and the communicator's step counter goes back to its lowest
step. -/
def execStepAbort (step : Nat) (s : State) : Result :=
  match s.issuer with
  | .comm ci =>
    match s.comms[ci]? with
    | none => .next s
    | some m =>
      let fail (t : State) : State := t.failSteps ci 7 fun x => x.k = step
      match indexWhere (fun l : Launch => l.live && l.vif = m.vif && l.steps.contains (m.handle, step)) s.launches with
      | none => .next (fail s)
      | some lid =>
        match s.launches[lid]? with
        | none => .next (fail s)
        | some l => .next ((fail (s.killOne 0 lid)).resetSteps { l with steps := l.steps.filter fun p => p.1 = m.handle })
  | _ => .next s

/-- TETHER_MEMBER_LOST (R421): every step of the communicator in flight fails with LINK. -/
def execTetherMemberLost (s : State) : Result :=
  match s.issuer with
  | .comm ci => .next (s.failSteps ci 4 fun _ => true)
  | _ => .next s

end Sys2Proof.Machine
end

