-- ==== Sys2Proof/Machine/Graph.lean ====
section
/-!
DEFINITION. Work graphs (R436 to R438): NEMIT, the placing of records in batches, and the gather timer.
-/
namespace Sys2Proof.Machine

/-- NEMIT (R437). -/
def execNemit (f : WordY) (s : State) : Result :=
  s.issue fun c =>
    let p : Plan := ⟨clauseWord 0x390 f.bits, f.c = 0 && ruOk f.ru 0b110, false,
      [Use.dst (Want.sreg 1) f.d, Use.src (Want.ssrc tB32) f.a, Use.src (Want.vreg 2) f.b], c.maskCells 7, c.exec⟩
    s.checked c p fun os =>
      match os with
      | d :: a :: b :: _ =>
        let recs := (laneList c.exec).map fun j => (j, c.lane b j)
        let cell := ((destCells c d 0).head?).getD (.s 0)
        let size := ((c.l.nodes[c.scalar a]?).map Node.rsz).getD 0
        let accs := recs.map fun r => (⟨r.1, r.2, size, [], [], 0, 0, false, false⟩ : LaneAcc)
        s.startOp c (c.pend p.iword (orderY f .p0) c.exec accs (.emit (c.scalar a) cell recs))
      | _ => s

/-- An NEMIT waits for room (R437). -/
def State.emitWaits (s : State) (b : Block) (sl : Slot) : Bool :=
  sl.walk.any fun p =>
    match p.body with
    | .emit node _ recs =>
      (s.launches[b.lid]?).any fun l => node < l.nodes.length && !s.canPlace b.lid node recs.length
    | _ => false

/-- A node's gather timer in ticks (R436). -/
def Node.timerTicks (n : Node) : Nat := 1000 * (if n.timer = 0 then 8 else n.timer)

/-- NODE_GATHER_TIMER (R438): the open batch closes when its timer has run. -/
def execNodeGatherTimer (node : Nat) (s : State) : Result :=
  match s.issuer with
  | .launch lid =>
    match s.launches[lid]? with
    | none => .next s
    | some l =>
      match l.nodes[node]?, (l.gathers[node]?).bind Gather.current with
      | some n, some b =>
        if l.st = .running && b.opened + n.timerTicks ≤ s.time then .next (s.closeBatch lid node) else .next s
      | _, _ => .next s
  | _ => .next s

end Sys2Proof.Machine
end

