-- ==== Sys2Proof/Machine/Return.lean ====
section
/-!
DEFINITION. The walk that ends an issue (R230, R247), the replay of faulted accesses (R63, R153, R476), and the two
returns from a handler: ERET (R223) and PFPARK (R258).
-/
namespace Sys2Proof.Machine

/-! Operations that have their whole effect at the end of their walk -/

/-- The walk of such an operation (R393): its fault, or its effect, its end and the trap after it (R298, R398). A NEMIT that
has no room waits, which ends a single step of it (R227, R438). -/
def State.walkWhole (s : State) (c : Ctx) (p : Pend) : State :=
  if !s.wholeReady c p then s
  else
    match s.runWhole c p with
    | .wait => s.endStep c p.iword
    | .fault k lanes va => s.takeAccessFault c p k lanes va
    | .ok t after =>
      let t := t.modSlot c.g c.x fun sl => { sl with walk := none }
      match after with
      | none => t.finishNext c p.op p.stl p.iword
      | some (code, m) =>
        let t := t.modSlot c.g c.x fun sl => { sl with fpx := none }
        t.finishWith c p.iword ⟨p.op, p.stl, false, c.sl.pc + 8, none⟩ fun u =>
          u.trap c.g c.x { c.trapInfo p.iword code with lanes := some m } none

/-- The walk of the operation that a slot has issued. -/
def State.pageWalk (s : State) (c : Ctx) (p : Pend) : State :=
  if c.b.place ≠ .resident || c.l.st ≠ .running || c.h.exited then s
  else if p.body.isWhole then s.walkWhole c p
  else s.walkMemory c p

/-- PAGE_WALK (R247). -/
def execPageWalk (s : State) : Result :=
  match s.issuer with
  | .slot g x =>
    match s.ctxOf g x with
    | none => .next s
    | some c =>
      match c.sl.walk with
      | none => .next s
      | some p => .next (s.pageWalk c p)
  | _ => .next s

/-! Replay -/

/-- Ranges of virtual addresses that an operation may touch: a mask that TMMASK writes counts at its greatest size. -/
def Pend.extents (p : Pend) : List (Nat × Nat) :=
  p.accs.map (fun a => (a.va, a.len)) ++
    match p.body with
    | .bridle op ls => ls.flatMap fun l =>
        (l.record, 256) :: (match op with | .mask _ => [(l.arg, 131072)] | _ => [])
    | .sample d ls => ls.flatMap fun l =>
        [(d.log + l.lane * d.lstr, d.vocab * d.width), (d.msk + l.lane * maskSize d.vocab, maskSize d.vocab)]
    | _ => []

/-- Two operations of a group may touch a byte in common (R120). -/
def State.meets (s : State) (who : Who) (a b : Pend) : Bool :=
  rangesMeet (s.physRanges who a.extents) (s.physRanges who b.extents)

/-- Insertion by stream, then program order. -/
def insertByStream (p : Pend) : List Pend → List Pend
  | [] => [p]
  | a :: r =>
    let q (x : Pend) : Nat := x.q.getD 0
    if q p < q a || (q p = q a && p.ser < a.ser) then p :: a :: r else a :: insertByStream p r

/-- The access of the list that is replayed next, in place of `a` (R63): an earlier one on its path that touches a
common byte goes first, behind those of its own stream. -/
def replayNext (meets : Pend → Pend → Bool) (l : List Pend) : Nat → Pend → Pend
  | 0, a => a
  | fuel + 1, a =>
    match l.find? fun e => e.ser < a.ser && e.path = a.path && meets e a with
    | none => a
    | some e => replayNext meets l fuel ((l.find? fun d => d.q = e.q).getD e)

/-- The order of R63. -/
def replayOrder (meets : Pend → Pend → Bool) : Nat → List Pend → List Pend
  | 0, l => l
  | fuel + 1, l =>
    match l with
    | [] => []
    | a :: _ =>
      let p := replayNext meets l l.length a
      p :: replayOrder meets fuel (l.filter fun x => x.ser ≠ p.ser)

/-- The faulted accesses of a group in the order of R63. -/
def State.faulted (s : State) (g : GRef) (h : Group) : List Pend :=
  let l := (h.pend.filter fun p => p.st = .faulted).foldl (fun l p => insertByStream p l) []
  replayOrder (s.meets (s.whoGroup g)) l.length l

/-- The slot goes on once none of its accesses is faulted. -/
def State.unpark (s : State) (g : GRef) (x : SlotId) : State :=
  s.modGroup g fun h =>
    if h.pend.any fun p => p.st = .faulted && p.slot = x then h
    else h.modSlot x fun sl =>
      match sl.park.map Park.why with
      | some (.access _) => { sl with park := none }
      | _ => sl

/-- A fault at replay (R476): a parking one parks again, any other one is taken by the slot, and the access is gone. -/
def State.replayFault (s : State) (c : Ctx) (p : Pend) (k : AFault) (lanes : Lanes) (va : Nat) : State :=
  match k with
  | .ecc => s.killGroup c.g trapECCUNC
  | .absent => s.parkOp c.g p va
  | .firstTouch => s.parkOp c.g p va
  | k =>
    ((s.dropOp c.g p.ser).unpark c.g p.slot).trap c.g p.slot
      ⟨k.code, p.clidx, p.pc, p.iword, some lanes, va, 0, false, false⟩ none

/-- The replay of one faulted access (R476): performed on its own edges from then on, or, for one that acts whole, at
once. -/
def State.replayOne (s : State) (g : GRef) (p : Pend) : State :=
  match s.ctxOf g p.slot with
  | none => s
  | some c =>
    if p.body.isWhole then
      match s.runWhole c p with
      | .wait => s
      | .fault k lanes va => s.replayFault c p k lanes va
      | .ok t after =>
        let t := (t.dropOp g p.ser).unpark g p.slot
        match after with
        | none => t
        | some (code, m) => t.trap g p.slot ⟨code, p.clidx, p.pc, p.iword, some m, 0, 0, false, false⟩ none
    else
      match s.walkLanes c p with
      | .fault k lanes va => s.replayFault c p k lanes va
      | .ok t accs mism =>
        (t.mapOp g p.ser accs mism).unpark g p.slot

/-- The access is still to be replayed: no trap of an earlier one has been taken. -/
def State.stillFaulted (s : State) (g : GRef) (sup : Bool) (ser : Nat) : Bool :=
  (s.group? g).any fun h => !h.exited && h.sup = sup && h.pend.any fun p => p.ser = ser && p.st = .faulted

/-- Replays the faulted accesses of a group that satisfy `which`, in the order of R63. -/
def State.replay (s : State) (g : GRef) (which : Pend → Bool) : State :=
  match s.group? g with
  | none => s
  | some h =>
    ((s.faulted g h).filter which).foldl (fun s p => if s.stillFaulted g h.sup p.ser then s.replayOne g p else s) s

/-! Performing -/

/-- ACCESS_PERFORM of one operation (R124): it is performed, or the piece of it that holds the byte `piece` (R146); an access
with SEM = 3 has one place in the total order, and is performed whole (R143, R144). One that was held is translated then,
and may fault (R476). -/
def State.accessPerform (s : State) (g : GRef) (ser : Nat) (piece : Option Nat) : State :=
  match s.block? g.bid, (s.group? g).bind fun h => h.pend.find? fun p => p.ser = ser with
  | some b, some p =>
    if p.body.isWhole then
      if p.st = .waiting && (s.ctxOf g p.slot).any fun c => s.wholeReady c p then s.replayOne g p else s
    else if !s.performable g p then s
    else if p.unmapped then s.replayOne g p
    else
      match piece with
      | none => s.perform g p
      | some k => if p.sem = .acqRel then s.perform g p else s.performPiece g b p k
  | _, _ => s

/-- ACCESS_PERFORM (R124): the party is a group, or a part of what it does; `ser` names its operation. -/
def execAccessPerform (ser : Nat) (s : State) : Result :=
  match s.issuer with
  | .group g => .next (s.accessPerform g ser none)
  | .part (.group g) k => .next (s.accessPerform g ser (some k))
  | _ => .next s

/-! ERET and PFPARK -/

/-- What PFPARK leaves behind (R258): the trapping instruction as a faulted access of its slot, with the PC past it; a
CALLT parks at itself, and reads its entry again. -/
def State.parkTrapped (s : State) (g : GRef) (p : Pend) : State :=
  match p.q with
  | none => s.park g p.slot .entry (((p.accs.head?).map LaneAcc.va).getD 0) 0
  | some _ =>
    (s.modGroup g fun h => { h with pend := insertPend { p with st := .faulted } h.pend }).modSlot g p.slot fun sl =>
      if sl.isEmpty then sl else { sl with pc := p.pc + 8 }

/-- The group leaves its handler (R223, R153): its frame restored, its faulted accesses replayed, the slots refilled,
and a single step armed. An uncorrectable error in the frame is fatal (R452). -/
def State.leaveHandler (s : State) (g : GRef) (parked : Option Pend) : State :=
  match s.group? g with
  | none => s
  | some h =>
    if s.poisoned (span (privateKey g h.frameOff) 0x98) then s.killGroup g trapECCUNC
    else match s.restoreFrame g h with
    | none => s.killGroup g trapILLOP
    | some k =>
      let s := s.modGroup g fun _ => k
      let s := match parked with
        | none => s
        | some p => s.parkTrapped g p
      let s := s.replay g fun _ => true
      s.refillReturn g

/-- Every access of the handler on path P0 is performed (R153). -/
def Group.handlerDone (h : Group) : Bool := h.outstanding.all fun p => p.path ≠ .p0

/-- The return by ERET or PFPARK: the instruction ends its clause, then the frame counts. -/
def State.returnFrom (s : State) (c : Ctx) (op : BitVec 10) (stl : BitVec 4) (iword : DWord) (parked : Option Pend) :
    State :=
  if !c.h.handlerDone then s.holdOn c .order
  else
    let s := s.finishNext c op stl iword
    if (s.group? c.g).any fun h => !h.exited then s.leaveHandler c.g parked else s

/-- ERET (R223). -/
def execEret (f : WordS) (s : State) : Result :=
  s.issue fun c =>
    let ok := f.stl = 0 && f.ru = 0 && f.d = 0 && f.a = 0 && f.b = 0 && f.c = 0 && f.sub = 0 && f.ty = 0
    let w := clauseWord 0x030 f.bits
    s.checked c ⟨w, ok, true, [], [], 0⟩ fun _ => s.returnFrom c 0x030 f.stl w none

/-- PFPARK (R258): outside a handler of code 0x07 it traps with ILLOP, which is fatal in supervisor mode. -/
def execPfpark (f : WordM) (s : State) : Result :=
  s.issue fun c =>
    let ok := f.stl = 0 && f.km = 7 && f.d = 0 && f.a = 0 && f.q = 0 && f.pm = 0 && f.ru = 0 && bareM f
    let w := clauseWord 0x210 f.bits
    s.checked c ⟨w, ok, true, [], c.maskCells 7, 0⟩ fun _ =>
      match c.h.trapped with
      | some p =>
        if c.h.tcode.extractLsb' 0 8 = 0x07 then s.returnFrom c 0x210 f.stl w (some p) else s.trapPlain c w trapILLOP
      | none => s.trapPlain c w trapILLOP

end Sys2Proof.Machine
end

