-- ==== Sys2Proof/Machine/Barriers.lean ====
section
/-!
DEFINITION. The class-6 instructions of a group: numbered barriers (R352) and tile moves (R357, R358).
-/
namespace Sys2Proof.Machine

def orderX (f : WordX) : Order := ⟨f.q, f.pm, f.x = 1, .p2, .device, .plain⟩

/-- The fields that no barrier instruction uses (R352). -/
def bareX (f : WordX) : Bool := f.d = 0 && f.a = 0 && f.ty = 0 && f.ru = 0 && f.bar ≠ 0
def arriveOk (f : WordX) : Bool := bareX f && f.cnt ≠ 0
def waitOk (f : WordX) : Bool := bareX f && f.cnt = 0 && f.q = 0 && f.pm = 0 && f.x = 0

/-- MBAR (R352). -/
def execMbar (f : WordX) (s : State) : Result :=
  s.issue fun c =>
    let p : Plan := ⟨clauseWord 0x301 f.bits, arriveOk f, false, [], [], 0⟩
    s.checked c p fun _ =>
      s.startOp c (c.pend p.iword (orderX f) allLanes [] (.arrive f.bar.toNat f.cnt.toNat))

/-- The slot takes a generation, and goes on; or it waits (R351). -/
def State.takeOrWait (s : State) (c : Ctx) (op : BitVec 10) (stl : BitVec 4) (iword : DWord) (bar : Nat) (w : Wait) :
    State :=
  if s.waitOver c.g c.x w then
    (s.modBlock c.g.bid fun b => b.take bar (.grp c.g.gid)).finishNext c op stl iword
  else s.wait c iword w

/-- MWAIT (R352). -/
def execMwait (f : WordX) (s : State) : Result :=
  s.issue fun c =>
    let p : Plan := ⟨clauseWord 0x302 f.bits, waitOk f, false, [], [], 0⟩
    s.checked c p fun _ => s.takeOrWait c 0x302 f.stl p.iword f.bar.toNat (.barrier f.bar.toNat)

/-- MARRW (R352): the arrival as an operation of its own, then the wait. -/
def execMarrw (f : WordX) (s : State) : Result :=
  s.issue fun c =>
    let b := f.bar.toNat
    let p : Plan := ⟨clauseWord 0x303 f.bits, arriveOk f, false, [], [], 0⟩
    s.checked c p fun _ =>
      match c.sl.arrived with
      | some (.marrw _ ser) => s.takeOrWait c 0x303 f.stl p.iword b (.arrived b ser)
      | some .latest => s.takeOrWait c 0x303 f.stl p.iword b (.barrier b)
      | _ =>
        if c.h.streamCount f.q.toNat ≥ 63 then s.holdOn c (.stream f.q.toNat)
        else
          let q := c.pend p.iword (orderX f) allLanes [] (.arrive b f.cnt.toNat)
          let s := s.modGroup c.g fun h =>
            { h with ser := h.ser + 1, pend := insertPend q h.pend }.modSlot c.x fun sl =>
              { sl with arrived := some (.marrw b q.ser) }
          s.takeOrWait c 0x303 f.stl p.iword b (.arrived b q.ser)

/-! Tile moves -/

/-- Element (r, c) of a tile, and a tile with it set. -/
def Tile.at (t : Tile) (r c : Nat) : Nat := (assocGet 0 t (64 * r + c)).toNat
def Tile.put (t : Tile) (r c v : Nat) : Tile := assocSet 0 t (64 * r + c) (BitVec.ofNat 32 v)

/-- The tile of a name, if it is bound. -/
def Block.tile? (b : Block) (n : Nat) : Option Tile := assocFind b.tiles n
def Block.bound (b : Block) (n : Nat) : Bool := (b.tile? n).isSome
def Block.setTile (b : Block) (n : Nat) (t : Tile) : Block := { b with tiles := assocPut b.tiles n t }

/-- A word of one of the names that satisfies `p` holds an uncorrectable error (R452). -/
def Block.tileBad (b : Block) (names : List Nat) (p : Nat → Bool) : Bool :=
  b.badTiles.any fun w => names.contains w.1 && p w.2

/-- Words of some names that have been written hold no error any more. -/
def Block.mendTile (b : Block) (names : List Nat) (p : Nat → Bool) : Block :=
  { b with badTiles := b.badTiles.filter fun w => !(names.contains w.1 && p w.2) }

/-- Names that a word's TILE field names: a pair for f64 (R355). -/
def tileNames (t : Nat) (wide : Bool) : List Nat := if wide then [t, t + 1] else [t]

/-- A word or drain uses a tile that one of the names stands for (R345, R356). -/
def MWork.uses (w : MWork) (names : List Nat) : Bool := w.named.any (names.contains ·)

/-- A sequencer word, a drain or a ganged part in progress uses one of the names (R345, R358). -/
def Block.drainBusy (b : Block) (names : List Nat) : Bool :=
  b.seqr.any fun q => q.drains.any fun d => d.uses names
def Block.wordBusy (b : Block) (names : List Nat) : Bool :=
  (b.seqr.any fun q => q.work.any fun w => w.uses names) || b.parts.any fun p => p.begun && p.work.uses names
def Block.tileBusy (b : Block) (names : List Nat) : Bool := b.wordBusy names || b.drainBusy names

/-- What ATOV and VTOA require of their fields and of the block (R357). -/
def moveOk (c : Ctx) (f : WordX) (a : Use) : Bool :=
  let wide := f.ty = 15
  (f.ty = 0 || wide) && f.q = 0 && f.pm = 0 && f.x = 0 && f.cnt.toNat < 2 && ruOk f.ru 0b100
    && (!wide || f.bar.toNat % 2 = 0) && c.b.seqr.isSome && (tileNames f.bar.toNat wide).all c.b.bound
    && !(c.peek a).any fun v => v % 2 ^ 32 ≥ 64

/-- ATOV and VTOA: `k` has the vector operand, the names and the element of each lane. -/
def State.tileMove (s : State) (op : BitVec 10) (f : WordX) (d : Want → BitVec 9 → Use)
    (k : Ctx → Opnd → List Nat → (Nat → Nat × Nat) → State) : Result :=
  s.issue fun c =>
    let wide := f.ty = 15
    let names := tileNames f.bar.toNat wide
    let a := Use.src (Want.vscal tB32) f.a
    let uses := [d (Want.vreg (if wide then 2 else 1)) f.d, a]
    let p : Plan := ⟨clauseWord op f.bits, moveOk c f a, false, uses, c.maskCells 7, c.exec⟩
    s.checkedOn c [a] p fun os =>
      match os with
      | d :: a :: _ =>
        let line (k : Nat) : Bool := (if f.cnt = 0 then k / 64 else k % 64) = c.scalar a % 64
        if c.b.tileBusy names then s
        else if op = 0x304 && c.b.tileBad names line then s.killGroup c.g trapECCUNC
        else
          let i := c.scalar a % 64
          (k c d names fun j => if f.cnt = 0 then (i, j) else (j, i)).finishNext c op f.stl p.iword
      | _ => s

/-- ATOV (R357). -/
def execAtov (f : WordX) (s : State) : Result :=
  s.tileMove 0x304 f Use.dst fun c d names at_ =>
    s.land c.g c.x ((laneList c.exec).flatMap fun j =>
      (d.cells c.h.sup c.x [j]).zip (names.map fun n =>
        if j < 64 then BitVec.ofNat 32 (((c.b.tile? n).getD []).at (at_ j).1 (at_ j).2) else 0))

/-- VTOA (R357). -/
def execVtoa (f : WordX) (s : State) : Result :=
  s.tileMove 0x305 f Use.src fun c d names at_ =>
    s.modBlock c.g.bid fun b =>
      names.zipIdx.foldl (fun b p =>
        let t := ((laneList c.exec).filter (· < 64)).foldl
          (fun t j => t.put (at_ j).1 (at_ j).2 (c.lane d j / 2 ^ (32 * p.2) % 2 ^ 32)) ((b.tile? p.1).getD [])
        let put (k : Nat) : Bool := (laneList c.exec).any fun j => j < 64 && 64 * (at_ j).1 + (at_ j).2 = k
        (b.mendTile [p.1] put).setTile p.1 t) b

end Sys2Proof.Machine
end

