-- ==== Sys2Proof/Machine/Matrix.lean ====
section
/-!
DEFINITION. What matrix words compute: operands in memory (R359 to R362), the bands of the MMA family (R363, R364),
the rows of a drain (R368 to R371).
-/
namespace Sys2Proof.Machine

/-! Fields of MM and MD words (R105) -/

def MWork.fld (w : MWork) (hi lo : Nat) : Nat := bitsOf w.iword.toNat hi lo
def MWork.mop (w : MWork) : Nat := w.fld 63 56
def MWork.tileNo (w : MWork) : Nat := w.fld 55 52
def MWork.fa (w : MWork) : Nat := w.fld 31 28
def MWork.fb (w : MWork) : Nat := w.fld 27 24
def MWork.steps (w : MWork) : Nat := w.fld 23 20 + 1
def MWork.arr (w : MWork) : Nat := w.fld 15 12
def MWork.waits (w : MWork) : Nat := w.fld 11 8
/-- ZS, ZA and ZB of R359. -/
def MWork.zs (w : MWork) : Bool := bitOf w.iword.toNat 0
def MWork.za (w : MWork) : Bool := bitOf w.iword.toNat 1
def MWork.zb (w : MWork) : Bool := bitOf w.iword.toNat 2
def MWork.isMmas (w : MWork) : Bool := w.mop = 0x0B
def MWork.isMmag (w : MWork) : Bool := w.mop = 0x0D
/-- DI, EMAX, ZT and INT of R368. -/
def MWork.di (w : MWork) : Bool := bitOf w.iword.toNat 0
def MWork.emax (w : MWork) : Nat := w.fld 5 1
def MWork.zt (w : MWork) : Bool := bitOf w.iword.toNat 6
def MWork.int (w : MWork) : Bool := bitOf w.iword.toNat 7
def MWork.isMdrna (w : MWork) : Bool := w.mop = 0x0F

/-- The word starts each element from zero (R359). -/
def MWork.fromZero (w : MWork) : Bool := w.mop = 0x0C || (w.isMmag && w.zs)

/-! Formats (R360, R361) -/

/-- The classes of R360. -/
inductive MClass
  | f16
  | f8
  | f4
  | i8
  | i4
  | s32
  | d64
  deriving DecidableEq, Repr

def MFmt.cls : MFmt → MClass
  | .fp .bf16 => .f16 | .fp .f16 => .f16 | .fp .e4m3 => .f8 | .fp .e5m2 => .f8 | .fp .f32 => .s32 | .fp .f64 => .d64
  | .kite .kb7 => .f8 | .kite _ => .f4
  | .int _ w => if w = 8 then .i8 else .i4
def MClass.depth : MClass → Nat
  | .f16 => 32 | .f8 => 64 | .f4 => 128 | .i8 => 64 | .i4 => 128 | .s32 => 8 | .d64 => 4
def MClass.isInt (c : MClass) : Bool := c = .i8 || c = .i4
/-- The accumulator's format, and alignment under a contract (R177). -/
def MClass.acc (c : MClass) : FF := if c = .d64 then .f64 else .f32
def MClass.align (c : MClass) (contract : Nat) : Nat := if c = .s32 || c = .d64 then 0 else alignBits contract

/-- A format code; unlisted codes do not reach a word (R107). -/
def mfmt (code : Nat) : MFmt := (MFmt.ofCode code).getD (.fp .f32)
def MWork.fmtA (w : MWork) : MFmt := mfmt w.fa
def MWork.fmtB (w : MWork) : MFmt := mfmt w.fb
def MWork.cls (w : MWork) : MClass := w.fmtA.cls
/-- K of R360. -/
def MWork.depth (w : MWork) : Nat := w.steps * w.cls.depth
def MWork.wide (w : MWork) : Bool := w.fa = 12
def MWork.names (w : MWork) : List Nat := tileNames w.tileNo w.wide

def MFmt.isKite : MFmt → Bool
  | .kite _ => true
  | _ => false
/-- Bits of an element; of a Kite element its share of the block does not count. -/
def MFmt.elemBits : MFmt → Nat
  | .fp f => f.bits
  | .kite _ => 0
  | .int _ w => w
/-- Bytes of `n` elements of a line (R361). -/
def MFmt.bytes (f : MFmt) (n : Nat) : Nat :=
  match f with
  | .kite k => n / 16 * k.size
  | f => n * f.elemBits / 8
/-- Alignment of a line start (R361). -/
def MFmt.lineAlign (f : MFmt) : Nat := if f.elemBits ≥ 16 then f.elemBits / 8 else 1

/-- The word reads an auxiliary record (R362). -/
def MWork.needsAux (w : MWork) : Bool := w.fmtA.isKite || w.fmtB.isKite || w.za || w.zb || w.isMmas || w.isMmag

/-- The fields of a word of the MMA family agree (R359, R360, R362). -/
def MWork.mmaOk (w : MWork) : Bool :=
  w.fmtA.cls = w.fmtB.cls && (w.isMmag || !w.zs) && (w.cls.isInt || (!w.za && !w.zb)) && !(w.isMmas && w.cls = .d64)
    && (w.needsAux || w.fld 19 16 = 0) && (!w.wide || w.tileNo % 2 = 0)

/-- Fields of the auxiliary record (R362). -/
def MWork.auxField (w : MWork) (off : Nat) : Nat := leNat ((w.aux.drop off).take 8)

/-! Reading operands -/

/-- Bytes read: by virtual address, with physical addresses, the translations used, whether a stamp mismatched, and whether a
byte holds an uncorrectable error. -/
structure MRead where
  data : List (Nat × Byte)
  pas : List Nat
  uses : List Trans
  mism : Bool
  bad : Bool
  deriving DecidableEq, Repr

def MRead.none : MRead := ⟨[], [], [], false, false⟩
def MRead.append (a b : MRead) : MRead :=
  ⟨a.data ++ b.data, a.pas ++ b.pas, a.uses ++ b.uses, a.mism || b.mism, a.bad || b.bad⟩

/-- Data that the word consumes with an uncorrectable error in it is fatal, once the bytes are checked (R347). -/
def MRead.sound (m : MRead) : SpanFault ⊕ MRead := if m.bad then .inl ⟨.ecc, 0⟩ else .inr m
def consumed (r : SpanFault ⊕ MRead) : SpanFault ⊕ MRead := r.elim .inl MRead.sound

/-- Reads one after another: the first failure in their order is the one reported (R347). -/
def joinReads : List (SpanFault ⊕ MRead) → SpanFault ⊕ MRead
  | [] => .inr MRead.none
  | .inl f :: _ => .inl f
  | .inr m :: r =>
    match joinReads r with
    | .inl f => .inl f
    | .inr t => .inr (m.append t)

/-- Whose view a read takes: its address space and block, the launch's contract, and MISS. -/
structure MView where
  who : Who
  bid : Nat
  contract : Nat
  miss : Bool
  deriving DecidableEq, Repr

/-- Reads ranges of bytes in order. -/
def State.matRead (s : State) (v : MView) (l : List (Nat × Nat)) : SpanFault ⊕ MRead :=
  joinReads (l.map fun p =>
    match s.translateSpan v.who .load (some v.contract) v.miss p.1 p.2 with
    | .inl f => .inl f
    | .inr sp => .inr ⟨(span p.1 p.2).zip (s.seenBytes v.bid sp.pas), sp.pas, sp.uses, sp.mism, s.poisoned sp.pas⟩)

/-- A number among the bytes read. -/
def readNum (d : List (Nat × Byte)) (a n : Nat) : Nat := leNat ((span a n).map fun x => (assocFind d x).getD 0)

/-- The start of line r (R361). -/
def lineAt (base stride r : Nat) : Nat := (base + r * stride) % 2 ^ 64

/-- Block j of a row's band is skipped, from the bitmap's bytes (R364). -/
def skipBit (bitmap : List Byte) (r j : Nat) : Bool :=
  let q := 256 * (r / 8) + j
  ((bitmap[q / 8]?).getD 0).getLsbD (q % 8)

/-- Elements of a line that are read or left as one: a Kite block of 16, else a block of 8 (R364). -/
def MFmt.unit (f : MFmt) : Nat := if f.isKite then 16 else 8

/-- Unit j of row r of A is skipped: each of its blocks of eight is (R364). -/
def MFmt.skips (f : MFmt) (m : List Byte) (r j : Nat) : Bool :=
  let n := f.unit / 8
  (List.range n).all fun i => skipBit m r (n * j + i)

/-- The units of row r that satisfy `p`, as ranges of bytes. -/
def MFmt.units (f : MFmt) (k start : Nat) (p : Nat → Bool) : List (Nat × Nat) :=
  ((List.range (k / f.unit)).filter p).map fun j => ((start + j * f.bytes f.unit) % 2 ^ 64, f.bytes f.unit)

/-- The pieces of row r that are read: all of it, or what the bitmap leaves (R364). -/
def linePieces (f : MFmt) (k : Nat) (bitmap : Option (List Byte)) (r start : Nat) : List (Nat × Nat) :=
  match bitmap with
  | none => [(start, f.bytes k)]
  | some m => f.units k start fun j => !f.skips m r j

/-- The 64 lines of an operand in order (R361), each with the alignment of its start before its bytes (R347). -/
def lineReads (f : MFmt) (base stride : Nat) (line : Nat → Nat → SpanFault ⊕ MRead) : SpanFault ⊕ MRead :=
  joinReads ((List.range 64).map fun r =>
    let a := lineAt base stride r
    if a % f.lineAlign ≠ 0 then .inl ⟨.misal, a⟩ else line r a)

/-- Reads the 64 lines of an operand (R361). -/
def State.readLines (s : State) (v : MView) (f : MFmt) (k base stride : Nat) (bitmap : Option (List Byte)) :
    SpanFault ⊕ MRead :=
  lineReads f base stride fun r a => s.matRead v (linePieces f k bitmap r a)

/-- The elements of line r of a Kite operand that are escapes, each with its number from the line's first element (R168). -/
def lineEscapes (d : List (Nat × Byte)) (q : Kite) (k start : Nat) : List (Nat × Nat) :=
  ((List.range k).filter fun i => q.elem (readNum d (start + i / 16 * q.size) q.size) (i % 16) = .escape).zipIdx

/-- The side-list entries of line r that are read, from `side` on: those of its escapes that are not skipped (R168, R362,
R364). -/
def sidePieces (d : List (Nat × Byte)) (q : Kite) (k start side : Nat) (bitmap : Option (List Byte)) (r : Nat) :
    List (Nat × Nat) :=
  ((lineEscapes d q k start).filter fun e => !bitmap.any fun m => skipBit m r (e.1 / 8)).map fun e => (side + 4 * e.2, 4)

/-- Reads the side list and line starts of a Kite operand, and the zero points (R362, R168). `d` holds the lines; the line
starts are consumed before the side list is checked. -/
def State.readExtras (s : State) (v : MView) (f : MFmt) (k base stride side starts zp : Nat) (zero : Bool)
    (bitmap : Option (List Byte)) (d : List (Nat × Byte)) : SpanFault ⊕ MRead :=
  match f with
  | .kite q =>
    match consumed (s.matRead v [(starts, 256)]) with
    | .inl e => .inl e
    | .inr ls =>
      match s.matRead v ((List.range 64).flatMap fun r =>
        sidePieces d q k (lineAt base stride r) ((side + 4 * readNum ls.data (starts + 4 * r) 4) % 2 ^ 64) bitmap r) with
      | .inl e => .inl e
      | .inr sd => .inr (ls.append sd)
  | f => if zero then s.matRead v [(zp, f.bytes 64)] else .inr MRead.none

/-- The auxiliary record of a word that needs one: kept from its start, or read (R362). -/
def State.readAux (s : State) (v : MView) (w : MWork) : SpanFault ⊕ (List Byte × MRead) :=
  if !w.needsAux || !w.aux.isEmpty then .inr (w.aux, MRead.none)
  else if w.hX % 8 ≠ 0 then .inl ⟨.misal, w.hX⟩
  else
    match consumed (s.matRead v [(w.hX, 64)]) with
    | .inl f => .inl f
    | .inr m => .inr (m.data.map Prod.snd, m)

/-- The bitmap of MMAS. -/
def State.readBitmap (s : State) (v : MView) (w : MWork) : SpanFault ⊕ (Option (List Byte) × MRead) :=
  if !w.isMmas then .inr (none, MRead.none)
  else
    match consumed (s.matRead v [(w.auxField 0x30, 256)]) with
    | .inl f => .inl f
    | .inr m => .inr (some (m.data.map Prod.snd), m)

/-- Skipped Kite blocks of a row that are read all the same: an escape that is not skipped stands after them in the line,
and escapes are numbered from the line's first element (R168, R362, R364). -/
def countedBlocks (q : Kite) (k : Nat) (m : List Byte) (d : List (Nat × Byte)) (r start : Nat) : List (Nat × Nat) :=
  let skips (j : Nat) : Bool := (MFmt.kite q).skips m r j
  let escapes (j : Nat) : Bool := !skips j && q.escapes (readNum d ((start + j * q.size) % 2 ^ 64) q.size) ≠ 0
  (MFmt.kite q).units k start fun j => skips j && (List.range (k / 16)).any fun i => j < i && escapes i

/-- The lines of A, and of B. -/
def State.readA (s : State) (v : MView) (w : MWork) (bitmap : Option (List Byte)) : SpanFault ⊕ MRead :=
  match s.readLines v w.fmtA w.depth w.hA w.hSA bitmap with
  | .inl f => .inl f
  | .inr a =>
    match w.fmtA, bitmap with
    | .kite q, some m =>
      match s.matRead v ((List.range 64).flatMap fun r => countedBlocks q w.depth m a.data r (lineAt w.hA w.hSA r)) with
      | .inl f => .inl f
      | .inr b => .inr (a.append b)
    | _, _ => .inr a
def State.readB (s : State) (v : MView) (w : MWork) : SpanFault ⊕ MRead :=
  s.readLines v w.fmtB w.depth w.hB w.hSB none
/-- What accompanies A, and B. -/
def State.extraA (s : State) (v : MView) (w : MWork) (bitmap : Option (List Byte)) (d : List (Nat × Byte)) :
    SpanFault ⊕ MRead :=
  s.readExtras v w.fmtA w.depth w.hA w.hSA (w.auxField 0) (w.auxField 8) (w.auxField 0x20) w.za bitmap d
def State.extraB (s : State) (v : MView) (w : MWork) (d : List (Nat × Byte)) : SpanFault ⊕ MRead :=
  s.readExtras v w.fmtB w.depth w.hB w.hSB (w.auxField 0x10) (w.auxField 0x18) (w.auxField 0x28) w.zb none d

/-- The first failure in the order A, B, auxiliary data (R347): `aux` is what the record and the bitmap gave. Without the
bitmap nothing is known of what MMAS reads of A but where its lines start. An uncorrectable error comes after every failure
of a check that does not depend on the data. The bytes are those of A with the record, and those of B. -/
def State.readWord (s : State) (va vb : MView) (w : MWork) : SpanFault ⊕ (List Byte × MRead × MRead) :=
  let aux : SpanFault ⊕ (List Byte × Option (List Byte) × MRead) :=
    match s.readAux va w with
    | .inl f => .inl f
    | .inr (bs, m) =>
      match s.readBitmap va { w with aux := bs } with
      | .inl f => .inl f
      | .inr (bm, n) => .inr (bs, bm, m.append n)
  let bitmap := match aux with | .inl _ => none | .inr x => x.2.1
  match (if w.isMmas && bitmap.isNone then lineReads w.fmtA w.hA w.hSA fun _ _ => .inr MRead.none
    else s.readA va w bitmap) with
  | .inl f => .inl f
  | .inr a =>
    match s.readB vb w with
    | .inl f => .inl f
    | .inr b =>
      match aux with
      | .inl f => .inl f
      | .inr (bs, bm, m) =>
        let w := { w with aux := bs }
        if a.bad || b.bad then .inl ⟨.ecc, 0⟩
        else
          match s.extraA va w bm a.data with
          | .inl f => .inl f
          | .inr ea =>
            match s.extraB vb w b.data with
            | .inl f => .inl f
            | .inr eb => if ea.bad || eb.bad then .inl ⟨.ecc, 0⟩ else .inr (bs, (a.append m).append ea, b.append eb)

/-! The bands of the MMA family (R363) -/

/-- The values of a Kite line, escapes from the side list in order (R166, R168). -/
def kiteVals (q : Kite) (blk : Nat → Nat) (side : Nat → Nat) : List Nat → Nat → List Val
  | [], _ => []
  | i :: r, e =>
    match q.elem (blk (i / 16)) (i % 16) with
    | .nan => .nan false :: kiteVals q blk side r e
    | .escape => FF.f32.value (side e) :: kiteVals q blk side r (e + 1)
    | .value x => Val.ofDy x false :: kiteVals q blk side r e

/-- The values of a line of K elements at `start`; `side` is the address of its first escape (R361, R168). -/
def lineVals (d : List (Nat × Byte)) (f : MFmt) (flush : Bool) (k start side : Nat) : List Val :=
  match f with
  | .fp g => (List.range k).map fun i => g.read flush (readNum d (start + i * (g.bits / 8)) (g.bits / 8))
  | .kite q =>
    kiteVals q (fun b => readNum d (start + b * q.size) q.size) (fun e => readNum d (side + 4 * e) 4) (List.range k) 0
  | .int _ _ => []

/-- The integers of a line, less the line's zero point. -/
def lineInts (d : List (Nat × Byte)) (f : MFmt) (k start : Nat) (zp : Int) : List Int :=
  match f with
  | .int sg w =>
    (List.range k).map fun i =>
      asInt sg w (elemOf (readNum d (start + i * w / 8) 1) w (if w = 4 then i % 2 else 0)) - zp
  | _ => []

/-- Zero point l of an operand. -/
def zeroPoint (d : List (Nat × Byte)) (f : MFmt) (zero : Bool) (zp l : Nat) : Int :=
  match f with
  | .int sg w => if zero then asInt sg w (elemOf (readNum d (zp + l * w / 8) 1) w (if w = 4 then l % 2 else 0)) else 0
  | _ => 0

/-- mma_element with products left out (R176, R364): a group of which every product is left out changes nothing. -/
def mmaSkipping (f : FF) (flushIn flushOut : Bool) (align g acc : Nat) (ps : List (Option Val)) : Nat :=
  (chunks g ps.length ps).foldl (fun a grp =>
    let vs := grp.filterMap id
    if vs.isEmpty then a else groupStep f flushIn flushOut align a vs) acc

/-- The values or integers of a line of one operand. -/
structure MLine where
  vals : List Val
  ints : List Int
  deriving DecidableEq, Repr

def MWork.lineA (w : MWork) (contract r : Nat) : MLine :=
  let start := lineAt w.hA w.hSA r
  let side := (w.auxField 0 + 4 * readNum w.data (w.auxField 8 + 4 * r) 4) % 2 ^ 64
  ⟨lineVals w.data w.fmtA (matFlushIn contract) w.depth start side,
   lineInts w.data w.fmtA w.depth start (zeroPoint w.data w.fmtA w.za (w.auxField 0x20) r)⟩
def MWork.lineB (w : MWork) (contract c : Nat) : MLine :=
  let start := lineAt w.hB w.hSB c
  let side := (w.auxField 0x10 + 4 * readNum w.dataB (w.auxField 0x18 + 4 * c) 4) % 2 ^ 64
  ⟨lineVals w.dataB w.fmtB (matFlushIn contract) w.depth start side,
   lineInts w.dataB w.fmtB w.depth start (zeroPoint w.dataB w.fmtB w.zb (w.auxField 0x28) c)⟩

/-- One element's new value. -/
def MWork.element (w : MWork) (contract st : Nat) (skip : Nat → Bool) (a b : MLine) : Nat :=
  if w.cls.isInt then
    let ps := (List.zipWith (· * ·) a.ints b.ints).zipIdx.filterMap fun p => if skip p.2 then none else some p.1
    wrap (st + ps.foldl (· + ·) 0) 32
  else
    let ps := (List.zipWith Val.mul a.vals b.vals).zipIdx.map fun p => if skip p.2 then none else some p.1
    mmaSkipping w.cls.acc (matFlushIn contract) (matFlushOut contract) (w.cls.align contract) (groupLen contract) st ps

/-- Element (r, c) of a block's tile or pair of tiles. -/
def Block.element (b : Block) (names : List Nat) (r c : Nat) : Nat :=
  ofWords (names.map fun n => assocGet 0 ((b.tile? n).getD []) (64 * r + c))

/-- The band that the word commits next (R363), as elements and their new values. -/
def MWork.band (w : MWork) (contract : Nat) (b : Block) : List ((Nat × Nat) × Nat) :=
  let bitmap := (List.range 256).map fun i => (assocFind w.data (w.auxField 0x30 + i)).getD 0
  let cols := (List.range 64).map (w.lineB contract)
  (List.range 8).flatMap fun i =>
    let r := 8 * w.mrp + i
    let a := w.lineA contract r
    let skip (k : Nat) : Bool := w.isMmas && skipBit bitmap r (k / 8)
    cols.zipIdx.map fun p =>
      ((r, p.2), w.element contract (if w.fromZero then 0 else b.element w.names r p.2) skip a p.1)

/-- The band committed (R363). -/
def Block.commit (b : Block) (names : List Nat) (new : List ((Nat × Nat) × Nat)) : Block :=
  names.zipIdx.foldl (fun b n =>
    (b.mendTile [n.1] fun k => new.any fun e => 64 * e.1.1 + e.1.2 = k).setTile n.1 (new.foldl (fun t e => t.put e.1.1 e.1.2 (e.2 / 2 ^ (32 * n.2) % 2 ^ 32)) ((b.tile? n.1).getD []))) b

/-- The band accumulates into a word of the tile that holds an uncorrectable error (R452). -/
def MWork.readsBad (w : MWork) (b : Block) : Bool :=
  !w.fromZero && b.tileBad w.names fun k => k / 512 = w.mrp

/-! Drains -/

/-- A word of the tile that a drain has read. -/
def MWork.word (w : MWork) (i r c : Nat) : Nat := (assocGet 0 ((w.tiles[i]?).getD []) (64 * r + c)).toNat

/-- What R369 and R370 require of a drain's fields. -/
def MWork.drainOk (w : MWork) : Bool :=
  let code := w.fa
  let addr := w.fld 51 47
  (!w.wide || w.tileNo % 2 = 0) && (w.fmtA.isKite || w.emax = 0) &&
    (if w.isMdrna then !w.di && (code ≤ 1 || code = 11 || code = 12) && (!w.int || code = 11)
     else !w.int && w.emax ≤ 16 && (code ≤ 6 || ((code = 11 || code = 12) && !w.di)) && !(w.fmtA.isKite && addr ≥ 30))

/-- Bytes of a destination row (R368, R370). -/
def MWork.rowLen (w : MWork) : Nat := w.fmtA.bytes 64
def MWork.rowAt (w : MWork) (r : Nat) : Nat := lineAt w.hA w.hSA r

/-- The packed blocks of row r of a Kite drain (R370). -/
def MWork.packRow (w : MWork) (contract : Nat) (q : Kite) (r : Nat) : List Packed :=
  (List.range 4).map fun b =>
    kbpack (fun i => FF.f32.read (vecFlush contract) (w.word 0 r (16 * b + i))) q.mag w.emax w.di w.phase

/-- The escaped words of row r, in order. -/
def MWork.rowEscapes (w : MWork) (contract : Nat) (q : Kite) (r : Nat) : List Nat :=
  (w.packRow contract q r).zipIdx.flatMap fun p =>
    ((List.range 16).filter p.1.esc.contains).map fun i => w.word 0 r (16 * p.2 + i)

/-- The bytes of row r that MDRN writes (R369, R370, R179). -/
def MWork.rowBytes (w : MWork) (contract r : Nat) : List Byte :=
  match w.fmtA with
  | .fp .f32 => (List.range 64).flatMap fun c => leBytes 4 (w.word 0 r c)
  | .fp .f64 => (List.range 64).flatMap fun c => leBytes 4 (w.word 0 r c) ++ leBytes 4 (w.word 1 r c)
  | .fp f =>
    (List.range 64).flatMap fun c =>
      let v := FF.f32.value (w.word 0 r c)
      let fl := matFlushOut contract
      leBytes (f.bits / 8) (if w.di then f.dither fl v (c % 16) w.phase else f.enc .rne fl v)
  | .kite q => (w.packRow contract q r).flatMap fun p => leBytes q.size (p.bits q.mag)
  | .int _ _ => []

/-- The side list's entries before row r. -/
def MWork.escapesBefore (w : MWork) (contract : Nat) (q : Kite) (r : Nat) : Nat :=
  ((List.range r).map fun i => (w.rowEscapes contract q i).length).sum

/-- What MDRN writes for row r: address and bytes (R368, R370). -/
def MWork.rowWrites (w : MWork) (contract r : Nat) : List (Nat × List Byte) :=
  (w.rowAt r, w.rowBytes contract r) ::
    (match w.fmtA with
     | .kite q =>
       let n := w.escapesBefore contract q r
       [((w.hB + 4 * n) % 2 ^ 64, (w.rowEscapes contract q r).flatMap (leBytes 4)),
        ((w.hSB + 4 * r) % 2 ^ 64, leBytes 4 n)]
     | _ => [])

/-- The ranges that a drain writes, row by row. -/
def MWork.drainRanges (w : MWork) (contract : Nat) : List (Nat × Nat) :=
  if w.isMdrna then (List.range 64).map fun r => (w.rowAt r, w.rowLen)
  else ((List.range 64).flatMap fun r => w.rowWrites contract r).map fun p => (p.1, p.2.length)

/-- The destination translated and checked (R347, R371). -/
def State.drainDest (s : State) (v : MView) (need : Need) : List (Nat × Nat) → SpanFault ⊕ MRead
  | [] => .inr MRead.none
  | (a, n) :: r =>
    match s.translateSpan v.who need (some v.contract) v.miss a n with
    | .inl f => .inl f
    | .inr sp =>
      match s.drainDest v need r with
      | .inl f => .inl f
      | .inr t => .inr (MRead.append ⟨[], sp.pas, sp.uses, sp.mism, false⟩ t)

/-- The bytes of addresses, at their physical places. -/
def MWork.place (w : MWork) (l : List (Nat × List Byte)) : List (Nat × Byte) :=
  l.flatMap fun p => ((span p.1 p.2.length).zip p.2).filterMap fun q => (assocFind w.dest q.1).map fun pa => (pa, q.2)

/-- One element of MDRNA (R369, R371). -/
def MWork.addElement (w : MWork) (contract dst r c : Nat) : Nat :=
  if w.int then (dst + w.word 0 r c) % 2 ^ 32
  else
    let fi := matFlushIn contract
    let acc := if w.wide then FF.f64.read fi (w.word 0 r c + 2 ^ 32 * w.word 1 r c) else FF.f32.read fi (w.word 0 r c)
    match w.fmtA with
    | .fp f => f.enc .rne (matFlushOut contract) (Val.sum [f.read fi dst, acc])
    | _ => dst

/-- The whole update of MDRNA (R371). -/
def State.addTile (s : State) (lid contract : Nat) (w : MWork) : State :=
  let n := w.rowLen / 64
  (List.range 64).foldl (fun s r => (List.range 64).foldl (fun s c =>
    let pas := (span (w.rowAt r + c * n) n).filterMap fun a => assocFind w.dest a
    s.writeFor [lid] (pas.zip (leBytes n (w.addElement contract (s.physNum pas) r c)))) s) s

end Sys2Proof.Machine
end

