-- ==== Sys2Proof/Machine/Sequencer.lean ====
section
/-!
DEFINITION. The words of a matrix stream (R106, R345 to R372) and the events of a block's sequencer and gang port.
-/
namespace Sys2Proof.Machine

/-- The sequencer that executes a word, with its block and launch. -/
structure SCtx where
  bid : Nat
  b : Block
  q : Sequencer
  l : Launch
  deriving DecidableEq, Repr

def State.sctxOf (s : State) (bid : Nat) : Option SCtx :=
  match s.block? bid with
  | none => none
  | some b =>
    match b.seqr, s.launches[b.lid]? with
    | some q, some l => some ⟨bid, b, q, l⟩
    | _, _ => none

/-- A meaning of a word that a sequencer executes. -/
def State.sequence (s : State) (f : SCtx → State) : Result :=
  match s.issuer with
  | .block bid =>
    match s.sctxOf bid with
    | some c => .next (f c)
    | none => .fault .noIssuer
  | _ => .fault .noIssuer

def State.modSeqr (s : State) (bid : Nat) (f : Sequencer → Sequencer) : State :=
  s.modBlock bid fun b => { b with seqr := b.seqr.map f }

/-- On to the word at `pc`. -/
def State.seqrGo (s : State) (bid : Nat) (pc : DWord) : State := s.modSeqr bid fun q => { q with pc := pc, taken := false }
def State.seqrNext (s : State) (c : SCtx) : State := s.seqrGo c.bid (c.q.pc + 8)

def SCtx.h (c : SCtx) (n : Nat) : DWord := assocGet 0 c.q.h n
def State.setH (s : State) (c : SCtx) (n : Nat) (v : DWord) : State :=
  s.modSeqr c.bid fun q => { q with h := assocSet 0 q.h n v }

/-! Address registers and branches (R106) -/

/-- MSET (R106). -/
def execMset (f : WordMR) (s : State) : Result :=
  s.sequence fun c => (s.setH c f.hd.toNat (f.imm.signExtend 64)).seqrNext c

/-- MSET_HI (R106). -/
def execMsetHi (f : WordMR) (s : State) : Result :=
  s.sequence fun c => (s.setH c f.hd.toNat (f.imm ++ (c.h f.hd.toNat).setWidth 32)).seqrNext c

/-- MADD (R106). -/
def execMadd (f : WordMR) (s : State) : Result :=
  s.sequence fun c => (s.setH c f.hd.toNat (c.h f.ha.toNat + f.imm.signExtend 64)).seqrNext c

/-- MBNZ (R106). -/
def execMbnz (f : WordMR) (s : State) : Result :=
  s.sequence fun c =>
    let v := c.h f.hd.toNat - 1
    let pc := if v = 0 then c.q.pc + 8 else c.q.pc + 8 * f.imm.signExtend 64
    (s.setH c f.hd.toNat v).seqrGo c.bid pc

/-- MBRA (R106). -/
def execMbra (f : WordMR) (s : State) : Result :=
  s.sequence fun c => s.seqrGo c.bid (c.q.pc + 8 * f.imm.signExtend 64)

/-! Barriers (R353) and the end (R346) -/

/-- MWAITB (R353). -/
def execMwaitb (f : WordMB) (s : State) : Result :=
  s.sequence fun c =>
    if c.b.canTake f.bar.toNat .seqr then (s.modBlock c.bid fun b => b.take f.bar.toNat .seqr).seqrNext c else s

/-- MARRB (R353): once every earlier word has arrived and its accesses are performed. -/
def execMarrb (f : WordMB) (s : State) : Result :=
  s.sequence fun c =>
    if c.q.drains.isEmpty then (s.modBlock c.bid fun b => b.arrive f.bar.toNat none).seqrNext c else s

/-- MEND (R346). -/
def execMend (_f : WordME) (s : State) : Result :=
  s.sequence fun c => s.modSeqr c.bid fun q => { q with ended := true }

/-! Tiles (R354 to R356) -/

/-- Free physical tiles of a core: 48 less those of its blocks that are not in a gondola. -/
def State.freeTiles (s : State) (core : Nat) : Nat :=
  48 - ((s.blocks.filter fun b => b.onCore && b.place ≠ .preempted && b.core = core).map Block.tilesHeld).sum

/-- Of them, those that are not left by a wounded block for another one of the running partition (R69). -/
def State.freeFor (s : State) (core bid : Nat) : Nat :=
  s.freeTiles core - (s.blocks.zipIdx.map fun p =>
    if p.1.core = core && p.1.place = .resident && p.2 ≠ bid then p.1.owed else 0).sum

/-- The names of TMASK. -/
def maskNames (m : BitVec 16) : List Nat := (List.range 16).filter fun i => m.getLsbD i

/-- ILLOP of a word, with the word's address in FVA (R107, R347). -/
def State.seqrIllop (s : State) (c : SCtx) (word : DWord) : State := s.seqrTrap c.bid trapILLOP word c.q.pc.toNat

/-- Binds fresh tiles of zeros. -/
def Block.bindTiles (b : Block) (names : List Nat) : Block :=
  (names.foldl (fun b n => b.setTile n []) b).mendTile names fun _ => true

/-- The word's own bits. -/
def wordMT (mop : BitVec 8) (f : WordMT) : DWord := mop ++ f.rsv ++ f.tmask

/-- MALLOC (R354, R71): it waits, so that wound-wait can help it, until every tile it needs is free. While old tiles that
drains still read would carry the block past its count it waits for the drains, without a trap and wounding nobody
(DESIGN CHOICE, log 75). -/
def execMalloc (f : WordMT) (s : State) : Result :=
  s.sequence fun c =>
    let new := (maskNames f.tmask).filter fun n => !c.b.bound n
    let acc := c.l.accOf c.b
    if c.b.tiles.length + new.length > acc then s.seqrIllop c (wordMT 0x07 f)
    else if new.length > s.freeFor c.b.core c.bid then s.modBlock c.bid fun b => { b with wants := new.length }
    else if c.b.tilesHeld + new.length > acc then s
    else (s.modBlock c.bid fun b => { b.bindTiles new with wants := 0, owed := 0 }).seqrNext c

/-- MFREE (R354). -/
def execMfree (f : WordMT) (s : State) : Result :=
  s.sequence fun c =>
    let names := (maskNames f.tmask).filter c.b.bound
    if c.b.tileBusy names then s
    else (s.modBlock c.bid fun b => { b with tiles := b.tiles.filter fun p => !names.contains p.1 }).seqrNext c

/-- The names that a new chain must rename, and whether a fresh tile for each is to be had (R356). -/
def Block.drained (b : Block) (names : List Nat) : List Nat := names.filter fun n => b.drainBusy [n]
def State.canRename (s : State) (bid : Nat) (b : Block) (acc : Nat) (names : List Nat) : Bool :=
  let n := (b.drained names).length
  b.tilesHeld + n ≤ acc && n ≤ s.freeFor b.core bid

/-- A new chain starts on the names: the drains keep the old tiles (R356). -/
def Block.rename (b : Block) (names : List Nat) : Block :=
  { b with seqr := b.seqr.map fun q =>
      { q with drains := q.drains.map fun d => { d with named := d.named.filter fun n => !names.contains n } } }

/-- MZERO (R354, R356). -/
def execMzero (f : WordMT) (s : State) : Result :=
  s.sequence fun c =>
    let names := maskNames f.tmask
    if !names.all c.b.bound then s.seqrIllop c (wordMT 0x09 f)
    else if c.b.wordBusy names || !s.canRename c.bid c.b (c.l.accOf c.b) names then s
    else (s.modBlock c.bid fun b => (b.rename names).bindTiles names).seqrNext c

/-! Words that reach memory (R345, R347) -/

/-- MISS of the block's non-exited group of lowest GID (R347). -/
def Block.lowMiss (b : Block) : Bool := (b.lowGroup.bind fun g => b.groups[g]?).any Group.miss

/-- The view that a block's sequencer takes. -/
def State.viewOf (s : State) (bid : Nat) : MView :=
  ⟨s.whoBlock bid, bid, ((s.launchOf bid).map Launch.contract).getD 0, ((s.block? bid).map Block.lowMiss).getD false⟩

/-- A mismatch that proceeds sets GSTAT.CMIXS of that group (R347). -/
def State.seqrMixed (s : State) (bid : Nat) (mism : Bool) : State :=
  match mism, (s.block? bid).bind Block.lowGroup with
  | true, some g => s.modGroup ⟨bid, g⟩ fun h => h.raise gsCMIXS
  | _, _ => s

/-- Marks the translations of a read as used. -/
def State.useRead (s : State) (v : MView) (write : Bool) (m : MRead) : State :=
  (s.useTrans v.who write m.uses).seqrMixed v.bid m.mism

/-- The state once the word has taken its generation, if it has one to take (R345). -/
def State.takeWait (s : State) (c : SCtx) (bar : Nat) : Option State :=
  if bar = 0 || c.q.taken then some s
  else if c.b.canTake bar .seqr then
    some ((s.modBlock c.bid fun b => b.take bar .seqr).modSeqr c.bid fun q => { q with taken := true })
  else none

/-- A byte that the word reads is one that a drain of the block which began before step `ord` has yet to write (R136); of
a drain that has been stopped the bytes are not known until it checks its destination afresh. -/
def Block.drainsInto (b : Block) (ord : Nat) (pas : List Nat) : Bool :=
  b.seqr.any fun q => q.drains.any fun d => d.ord < ord && (!d.ready || d.dest.any fun p => pas.contains p.2)

/-- A word that began before the drain and has been stopped has yet to read its operands again (R136, R348). -/
def Sequencer.readsFirst (q : Sequencer) (d : MWork) : Bool := q.work.any fun w => !w.ready && w.ord < d.ord

/-- A word as it begins. -/
def SCtx.start (c : SCtx) (iword : DWord) (a sa b sb x : Nat) : MWork :=
  let h (n : Nat) : Nat := (c.h n).toNat
  { iword := iword, addr := c.q.pc, hA := h a, hSA := h sa, hB := h b, hSB := h sb, hX := h x, aux := [], ready := false
    data := [], dataB := [], dest := [], tiles := [], named := [], mrp := 0, phase := c.q.phase, ord := 0 }

/-- The word's own bits. -/
def wordMM (mop : BitVec 8) (f : WordMM) : DWord :=
  mop ++ f.tile ++ f.ha ++ f.sa ++ f.hb ++ f.sb ++ f.fa ++ f.fb ++ f.steps ++ f.aux ++ f.arr ++ f.wait ++ f.flags
def wordMD (mop : BitVec 8) (f : WordMD) : DWord :=
  mop ++ f.tile ++ f.addr ++ f.stride ++ f.rsv1 ++ f.fmt ++ f.rsv2 ++ f.arr ++ f.wait ++ f.flags
def SCtx.startMM (c : SCtx) (mop : BitVec 8) (f : WordMM) : MWork :=
  c.start (wordMM mop f) f.ha.toNat f.sa.toNat f.hb.toNat f.sb.toNat f.aux.toNat
def SCtx.startMD (c : SCtx) (mop : BitVec 8) (f : WordMD) : MWork :=
  c.start (wordMD mop f) f.addr.toNat f.stride.toNat (f.addr.toNat + 1) (f.addr.toNat + 2) 0

/-- MMA, MMAS and MMAZ begin (R345, R347, R360 to R363): the word takes its generation, its tile must be free of
earlier work or be renamed, its bytes are checked and read; its bands follow. -/
def State.beginMma (s : State) (c : SCtx) (w : MWork) : State :=
  match s.takeWait c w.waits with
  | none => s
  | some t =>
    if !w.mmaOk || !w.names.all c.b.bound then t.seqrIllop c w.iword
    else
      let room := if w.fromZero then s.canRename c.bid c.b (c.l.accOf c.b) w.names else !c.b.drainBusy w.names
      if c.b.wordBusy w.names || !room then s
      else
        let v := s.viewOf c.bid
        match s.readWord v v w with
        | .inl f => t.seqrFault c.bid w.iword f 4
        | .inr (aux, a, m) =>
          if c.b.drainsInto s.fresh (a.pas ++ m.pas) then s
          else
            let w := { w with
              aux := aux, data := a.data, dataB := m.data, ready := true, named := w.names, ord := s.fresh }
            let t := (t.useRead v false (a.append m)).modBlock c.bid fun b => if w.fromZero then b.rename w.names else b
            (t.modSeqr c.bid fun q => { q with work := some w }).seqrNext c

/-- MMA (R363). -/
def execMma (f : WordMM) (s : State) : Result := s.sequence fun c => s.beginMma c (c.startMM 0x0A f)
/-- MMAS (R363, R364). -/
def execMmas (f : WordMM) (s : State) : Result := s.sequence fun c => s.beginMma c (c.startMM 0x0B f)
/-- MMAZ (R363). -/
def execMmaz (f : WordMM) (s : State) : Result := s.sequence fun c => s.beginMma c (c.startMM 0x0C f)

/-- The member slots of MEMB. -/
def membSlots (m : Nat) : List Nat := (List.range 8).filter fun i => bitOf m i

/-- A part delivered to a member, or kept while the member is absent (R366): its B is then read again. -/
def State.deliver (s : State) (leader : Nat) (w : MWork) (member : Nat) : State :=
  if (s.block? member).any Block.onCore then
    s.modBlock member fun b => { b with parts := b.parts ++ [⟨leader, w, false, false, .running⟩] }
  else s.modBlock leader fun b => { b with undelivered := b.undelivered ++ [⟨member, { w with data := [], dataB := [] }⟩] }

/-- MMAG (R366): the leader checks the record, the membership and B, and delivers the parts. -/
def State.beginMmag (s : State) (c : SCtx) (w : MWork) : State :=
  if !c.b.undelivered.isEmpty then s
  else if !w.mmaOk then s.seqrIllop c w.iword
  else
    let v := s.viewOf c.bid
    match s.readAux v w with
    | .inl f =>
      match s.readB v w with
      | .inl f => s.seqrFault c.bid w.iword f 4
      | .inr _ => s.seqrFault c.bid w.iword f 4
    | .inr (aux, ma) =>
      let w := { w with aux := aux }
      let memb := w.auxField 0x38
      let members := (s.sharingOf c.bid).map Sharing.members
      let slots := (membSlots memb).map fun k => members.bind fun l => assocFind l k
      if memb ≥ 256 then s.seqrIllop c w.iword
      else if slots.isEmpty || slots.any Option.isNone then s.seqrTrap c.bid trapPROT w.iword c.q.pc.toNat
      else
        match s.readB v w with
        | .inl f => s.seqrFault c.bid w.iword f 4
        | .inr mb =>
          match s.extraB v w mb.data with
          | .inl f => s.seqrFault c.bid w.iword f 4
          | .inr eb =>
            let m := (mb.append ma).append eb
            if m.bad then s.kill c.b.lid trapECCUNC
            else if c.b.drainsInto s.fresh m.pas then s
            else
              let w := { w with dataB := m.data, named := w.names, ord := s.fresh }
              let t := s.useRead v false m
              ((slots.filterMap id).foldl (fun t b => t.deliver c.bid w b) t).seqrNext c

/-- MMAG (R366). -/
def execMmag (f : WordMM) (s : State) : Result := s.sequence fun c => s.beginMmag c (c.startMM 0x0D f)

/-- MDRN and MDRNA begin (R368 to R372): the drain reads its tile, and the stream goes on. -/
def State.beginDrain (s : State) (c : SCtx) (w : MWork) : State :=
  match s.takeWait c w.waits with
  | none => s
  | some t =>
    if !w.drainOk || !w.names.all c.b.bound then t.seqrIllop c w.iword
    else if c.b.tileBusy w.names then s
    else if c.b.tileBad w.names fun _ => true then s.kill c.b.lid trapECCUNC
    else
      let w := { w with
        tiles := w.names.map fun n => (c.b.tile? n).getD [], named := w.names, ready := true, ord := s.fresh }
      let v := s.viewOf c.bid
      match s.drainDest v (if w.isMdrna then .atomic else .store) (w.drainRanges c.l.contract) with
      | .inl f => t.seqrFault c.bid w.iword f 4
      | .inr m =>
        let vas := (w.drainRanges c.l.contract).flatMap fun p => span p.1 p.2
        let w := { w with dest := vas.zip m.pas }
        let t := t.useRead v true m
        (t.modSeqr c.bid fun q =>
          { q with drains := q.drains ++ [w], phase := if w.isMdrna then q.phase else (q.phase + 1) % 16 }).seqrNext c

/-- MDRN (R368 to R370, R372). -/
def execMdrn (f : WordMD) (s : State) : Result := s.sequence fun c => s.beginDrain c (c.startMD 0x0E f)
/-- MDRNA (R368, R369, R371, R372). -/
def execMdrna (f : WordMD) (s : State) : Result := s.sequence fun c => s.beginDrain c (c.startMD 0x0F f)

/-- An illegal matrix-stream word (R107). -/
def execIllegalMatrixWord (w : DWord) (s : State) : Result := s.sequence fun c => s.seqrIllop c w

/-! Words in progress (R345, R348, R363, R372) -/

/-- An arrival of the sequencer or the gang port, 0 for none. -/
def State.seqrArrive (s : State) (bid bar : Nat) : State :=
  if bar = 0 then s else s.modBlock bid fun b => b.arrive bar none

/-- The word of the MMA family commits a band (R363). -/
def State.wordBand (s : State) (c : SCtx) (w : MWork) : State :=
  if w.readsBad c.b then s.kill c.b.lid trapECCUNC else
  let s := s.modBlock c.bid fun b => b.commit w.names (w.band c.l.contract b)
  if w.mrp < 7 then s.modSeqr c.bid fun q => { q with work := some { w with mrp := w.mrp + 1 } }
  else (s.modSeqr c.bid fun q => { q with work := none }).seqrArrive c.bid w.arr

/-- A word that was resumed is checked and read afresh (R348); the record is kept. -/
def State.recheckWord (s : State) (c : SCtx) (w : MWork) : State :=
  let v := s.viewOf c.bid
  match s.readWord v v w with
  | .inl f => s.seqrFault c.bid w.iword f 4
  | .inr (aux, a, m) =>
    if c.b.drainsInto w.ord (a.pas ++ m.pas) then s
    else
      (s.useRead v false (a.append m)).modSeqr c.bid fun q =>
        { q with work := some { w with aux := aux, data := a.data, dataB := m.data, ready := true } }

/-- The first drain, replaced or ended. -/
def State.setDrain (s : State) (bid : Nat) (d : Option MWork) : State :=
  s.modSeqr bid fun q => { q with drains := d.toList ++ q.drains.drop 1 }

/-- A drain has ended: with ZT the tile it read becomes zero where its name still stands for it (R368, R372). -/
def State.endDrain (s : State) (c : SCtx) (w : MWork) : State :=
  let s := s.setDrain c.bid none
  let s := if w.zt then s.modBlock c.bid fun b => b.bindTiles (w.named.filter b.bound) else s
  s.seqrArrive c.bid w.arr

/-- A drain writes: MDRN a band, MDRNA the whole tile (R371, R372). Staged stores of the block to its bytes come first in the
coherence order, so that it waits for their release (R141). -/
def State.drainBand (s : State) (c : SCtx) (w : MWork) : State :=
  if c.q.readsFirst w || c.b.reserveTouches (fun _ => true) (w.dest.map Prod.snd) then s
  else if w.isMdrna then
    if s.poisoned (w.dest.map Prod.snd) then s.kill c.b.lid trapECCUNC
    else (s.addTile c.b.lid c.l.contract w).endDrain c w
  else
    let rows := (List.range 8).flatMap fun i => w.rowWrites c.l.contract (8 * w.mrp + i)
    let s := s.writeFor [c.b.lid] (w.place rows)
    if w.mrp < 7 then s.setDrain c.bid (some { w with mrp := w.mrp + 1 }) else s.endDrain c w

/-- The destination of a resumed drain is checked afresh (R348). -/
def State.recheckDrain (s : State) (c : SCtx) (w : MWork) : State :=
  let v := s.viewOf c.bid
  let ranges := w.drainRanges c.l.contract
  match s.drainDest v (if w.isMdrna then .atomic else .store) ranges with
  | .inl f => s.seqrFault c.bid w.iword f 4
  | .inr m =>
    (s.useRead v true m).setDrain c.bid
      (some { w with dest := (ranges.flatMap fun p => span p.1 p.2).zip m.pas, ready := true })

/-- A context that is parked, or stopped at a trap whose handlers have not returned, checks nothing (R347). -/
def SCtx.mayCheck (c : SCtx) : Bool :=
  match c.q.st with
  | .running => true
  | .trapped => c.b.groups.all fun h => !h.sup
  | .parked _ _ => false

/-- The sequencer's words run: the block is on its core, or has exited and completes its last word (R346). -/
def SCtx.runs (c : SCtx) : Bool := (c.b.place = .resident || c.b.place = .exited) && c.l.live

/-- Whether a word, rather than the oldest drain, goes on: a free choice where there are both. -/
def State.wordFirst (s : State) (q : Sequencer) : Bool :=
  q.work.isSome && (q.drains.isEmpty || Config.choose s.fresh % 2 = 0)

/-- MATRIX_WORD_DONE (R345, R363, R372): the word in progress, or the oldest drain, commits a band; after its last band
it arrives. -/
def execMatrixWordDone (s : State) : Result :=
  match s.issuer with
  | .block bid =>
    match s.sctxOf bid with
    | none => .next s
    | some c =>
      if !c.runs then .next s
      else
        let clear (t : State) : State := t.modSeqr bid fun q => { q with st := .running }
        match c.q.work, c.q.drains with
        | some w, ds =>
          if s.wordFirst c.q then
            if w.ready then .next (s.wordBand c w)
            else if c.mayCheck then .next ((clear s).recheckWord c w) else .next s
          else
            match ds with
            | d :: _ =>
              if d.ready then .next (s.drainBand c d)
              else if c.mayCheck then .next ((clear s).recheckDrain c d) else .next s
            | [] => .next s
        | none, d :: _ =>
          if d.ready then .next (s.drainBand c d)
          else if c.mayCheck then .next ((clear s).recheckDrain c d) else .next s
        | none, [] => .next s
  | _ => .next s

/-! Ganged parts (R366, R367) -/

/-- The first part of a block's gang port, replaced or dropped. -/
def State.setPart (s : State) (bid : Nat) (p : Option GangPart) : State :=
  s.modBlock bid fun b => { b with parts := p.toList ++ b.parts.drop 1 }

/-- The part's word takes effect no further: the member's group of lowest GID traps, and the part is dropped (R367). -/
def State.partTrap (s : State) (bid : Nat) (p : GangPart) (code fva : Nat) : State :=
  (s.setPart bid none).matrixTrap bid code p.work.iword fva

/-- A fault of a part's check (R347, R367). -/
def State.partFault (s : State) (bid : Nat) (p : GangPart) (f : SpanFault) : State :=
  match f.fault with
  | .ecc => s.kill (s.lidOf bid) trapECCUNC
  | .absent | .firstTouch =>
    let w := s.whoBlock bid
    (s.setPart bid (some { p with st := .parked f.va s.time })).report
      (faultRec f.va w.asid 4 w.core (((s.launchOf bid).map Launch.lpb).getD 0))
  | k => s.partTrap bid p k.code f.va

/-- B of a part, with its escapes and zero points, in the leader's view (R366). -/
def State.readPartB (s : State) (p : Nat) (w : MWork) : SpanFault ⊕ MRead :=
  let vb := s.viewOf p
  match s.readB vb w with
  | .inl f => .inl f
  | .inr b =>
    match s.extraB vb w b.data with
    | .inl f => .inl f
    | .inr e => (b.append e).sound

/-- The part reads A and what accompanies it in the member's view, and B again where it no longer holds it, in the
leader's (R348, R366, R367). When its bytes have passed their check for the first time, a part that starts from zero renames
its tile. -/
def State.checkPart (s : State) (bid : Nat) (b : Block) (l : Launch) (p : GangPart) : State :=
  let v := s.viewOf bid
  let vb := s.viewOf p.leader
  let w := p.work
  match s.readA v w none with
  | .inl f => s.partFault bid p f
  | .inr a =>
    let mb : SpanFault ⊕ MRead :=
      if !w.dataB.isEmpty then .inr ⟨w.dataB, [], [], false, false⟩
      else s.readPartB p.leader w
    match mb with
    | .inl f => s.partFault bid p f
    | .inr m =>
      match s.extraA v w none a.data with
      | .inl f => s.partFault bid p f
      | .inr e =>
        let zero := w.fromZero && !p.named
        if (a.append e).bad then s.kill b.lid trapECCUNC
        else if zero && !s.canRename bid b (l.accOf b) w.names then s
        else
          let s := (s.useRead v false (a.append e)).useRead vb false m
          let s := s.modBlock bid fun b => if zero then b.rename w.names else b
          s.setPart bid (some { p with
            work := { w with data := (a.append e).data, dataB := m.data, ready := true }, named := true, st := .running })

/-- A part begins (R367 step 1): the generation, once its tile is free of other work or can be renamed. -/
def State.beginPart (s : State) (bid : Nat) (b : Block) (l : Launch) (p : GangPart) : State :=
  let w := p.work
  if w.waits ≠ 0 && !b.canTake w.waits .port then s
  else
    let t := if w.waits = 0 then s else s.modBlock bid fun b => b.take w.waits .port
    if !w.names.all b.bound then t.partTrap bid p trapILLOP w.addr.toNat
    else
      let room := if w.fromZero then s.canRename bid b (l.accOf b) w.names else !b.drainBusy w.names
      let word := b.seqr.any fun q => q.work.any fun k => k.uses w.names
      if word || !room then s else t.setPart bid (some { p with begun := true })

/-- A part commits a band, and arrives after its last (R367). -/
def State.partBand (s : State) (bid : Nat) (l : Launch) (p : GangPart) : State :=
  let w := p.work
  if (s.block? bid).any w.readsBad then s.kill (s.lidOf bid) trapECCUNC else
  let s := s.modBlock bid fun b => b.commit w.names (w.band l.contract b)
  if w.mrp < 7 then s.setPart bid (some { p with work := { w with mrp := w.mrp + 1 } })
  else (s.setPart bid none).seqrArrive bid w.arr

/-- GANG_PART_RUN (R367): the oldest part of a member's gang port goes one step further. -/
def execGangPartRun (s : State) : Result :=
  match s.issuer with
  | .block bid =>
    match s.block? bid with
    | none => .next s
    | some b =>
      match b.parts, s.launches[b.lid]? with
      | p :: _, some l =>
        if !(b.place = .resident || b.place = .exited) || !l.live then .next s
        else if !p.begun then .next (s.beginPart bid b l p)
        else if p.work.ready then .next (s.partBand bid l p)
        else
          match p.st with
          | .parked _ _ => .next s
          | _ => .next (s.checkPart bid b l p)
      | _, _ => .next s
  | _ => .next s

end Sys2Proof.Machine
end

