-- ==== Sys2Proof/Machine/Admission.lean ====
section
/-!
DEFINITION. The region tree as the front end reads it (R24 to R29), traversal (R36), the order and the limits of
admission (R33, R34, R37 to R39), and BLOCK_ADMIT with the state in which groups and sequencers start (R344, R434,
R438).
-/
namespace Sys2Proof.Machine

/-! Reading an RCB (R24, R28, R29) -/

/-- The RCB that 256 bytes hold at an address. -/
def Rcb.ofBytes (addr : Nat) (bs : List Byte) : Rcb :=
  let f (o n : Nat) := fieldOf bs o n
  { addr := addr, kind := f 0x00 1, prio := f 0x01 1, ovr := BitVec.ofNat 16 (f 0x02 2), fdom := f 0x04 4
    parent := f 0x08 8, cores := f 0x10 2, acct := f 0x12 2, drambw := f 0x14 2, parkt := f 0x16 2, sheetb := f 0x18 8
    balbase := f 0x20 8, balsize := f 0x28 8, asid := f 0x30 2 }

/-- The fields in use lie in their ranges, reserved bits included (R24, R28). -/
def State.rcbFieldsOk (s : State) (r : Rcb) : Bool :=
  let own (i : Nat) := r.kind = 1 || r.ovr.getLsbD i
  r.ovr.extractLsb' 9 7 = 0 && (!own 0 || r.prio < 16) && (!own 2 || (1 ≤ r.cores && r.cores ≤ 256))
    && (!own 3 || r.acct ≤ 12288) && (!own 4 || (1 ≤ r.drambw && r.drambw ≤ 1024)) && (!own 5 || 1 ≤ r.parkt)
    && (!own 7 || (r.balbase % 4096 = 0 && r.balsize % 4096 = 0 && r.balbase + r.balsize ≤ s.part.dcap))
    && (!own 8 || r.asid < 256)

/-- An RCB in memory, if it is well formed in itself (R24). -/
def State.parseRcb (s : State) (addr : Nat) : Option Rcb :=
  if addr % 256 ≠ 0 || addr + 256 > s.part.dcap then none
  else
    let bs := s.physBytes (span addr 256)
    let r := Rcb.ofBytes addr bs
    let zero (o n : Nat) : Bool := ((bs.drop o).take n).all (· = 0)
    if 1 ≤ r.kind && r.kind ≤ 4 && zero 0x32 14 && zero 0x68 152 && s.rcbFieldsOk r then some r else none

/-- A node and those above it, lowest first, read afresh: each KIND one more than its parent's, and PARENT 0 at the root
only (R24, R28). -/
def State.freshPath (s : State) : Nat → Nat → Option (List Rcb)
  | 0, _ => none
  | fuel + 1, addr =>
    match s.parseRcb addr with
    | none => none
    | some r =>
      if r.kind = 1 then (if r.parent = 0 then some [r] else none)
      else if r.parent = 0 then none
      else
        match s.freshPath fuel r.parent with
        | some (p :: up) => if r.kind = p.kind + 1 then some (r :: p :: up) else none
        | _ => none

/-- The path of a launch region under an interface's root, or none: BADRCB (R28, R432). -/
def State.launchPath (s : State) (vif addr : Nat) : Option (List Rcb) :=
  match s.freshPath 4 addr with
  | some path =>
    let root := ((s.vifs[vif]?).map fun v => v.rootRcb.toNat).getD 0
    if (path.head?).any (fun r => r.kind = 4) && path.any (fun r => r.addr = root) then some path else none
  | none => none

/-- The front end keeps what it has read (R29). -/
def State.keepRcbs (s : State) (path : List Rcb) : State :=
  { s with rcbs := path.foldl (fun l r => l.filter (fun o => o.addr ≠ r.addr) ++ [r]) s.rcbs }

/-! Traversal (R35, R36) -/

/-- The least power of two not below n. -/
def ceilPow2 (n : Nat) : Nat := if n ≤ 1 then 1 else 2 ^ (Nat.log2 (n - 1) + 1)

/-- Block i of a slice of `a` by `b` blocks cut into bands of `w` along the first coordinate. -/
def bandOrder (a b w i : Nat) : Nat × Nat :=
  let k := i / (w * b)
  let j := i % (w * b)
  let n := min w (a - k * w)
  (k * w + j % n, j / n)

/-- morton(s, d) with `n` = log2 s. -/
def mortonPoint : Nat → Nat → Nat × Nat
  | 0, _ => (0, 0)
  | n + 1, d =>
    let (x, y) := mortonPoint n (d / 4)
    (2 * x + d % 2, 2 * y + d / 2 % 2)

/-- hilbert(s, d): `n` rounds, side `s` and the point reached so far. -/
def hilbertFrom : Nat → Nat → Nat → Nat × Nat → Nat × Nat
  | 0, _, _, p => p
  | n + 1, s, t, (x, y) =>
    let rx := t / 2 % 2
    let ry := (t ^^^ rx) % 2
    let (x, y) := if ry = 0 then (let (u, v) := if rx = 1 then (s - 1 - x, s - 1 - y) else (x, y); (v, u)) else (x, y)
    hilbertFrom n (2 * s) (t / 4) (x + s * rx, y + s * ry)

/-- Point k of those of a curve that fall inside the grid, from curve index `d` on, `fuel` indices at most. -/
def nthInside (f : Nat → Nat × Nat) (gx gy : Nat) : Nat → Nat → Nat → Nat × Nat
  | 0, _, _ => (0, 0)
  | fuel + 1, d, k =>
    let p := f d
    if p.1 < gx && p.2 < gy then (if k = 0 then p else nthInside f gx gy fuel (d + 1) (k - 1))
    else nthInside f gx gy fuel (d + 1) k

/-- The block identifier of a BSEQ (R36). -/
def Launch.blockId (l : Launch) (bseq : Nat) : Nat × Nat × Nat :=
  let i := bseq % (l.gx * l.gy)
  let z := bseq / (l.gx * l.gy)
  let w := 2 ^ l.swz
  let s := ceilPow2 (max l.gx l.gy)
  let n := Nat.log2 s
  let p :=
    match l.trav with
    | 0 => bandOrder l.gx l.gy w i
    | 1 => let (y, x) := bandOrder l.gy l.gx w i; (x, y)
    | 2 => nthInside (mortonPoint n) l.gx l.gy (s * s) 0 i
    | _ => nthInside (fun d => hilbertFrom n 1 d (0, 0)) l.gx l.gy (s * s) 0 i
  (p.1, p.2, z)

/-! Room on a core (R33, R34) -/

/-- Blocks whose context a core runs, those of the gondola left out, with their indices. -/
def State.liveOn (s : State) (core : Nat) : List (Nat × Block) :=
  ((List.range s.blocks.length).zip s.blocks).filter fun p =>
    p.2.core = core && p.2.onCore && p.2.place ≠ .preempted

/-- Group slots in use with the vector bytes of each (R33, R34). -/
def State.slotUse (s : State) (core : Nat) : List (Nat × Nat) :=
  (s.liveOn core).flatMap fun p =>
    let v := 384 * ((s.launches[p.2.lid]?).map fun l => l.nvregOf p.2).getD 0
    ((p.2.slots.zip p.2.groups).filter fun q => !q.2.exited).map fun q => (q.1, v)

/-- Slots for `n` groups of `v` vector bytes: the lowest ones whose pipe has the bytes left (R33; log 20). -/
def pickSlots (v : Nat) : Nat → List (Nat × Nat) → Option (List Nat)
  | 0, _ => some []
  | n + 1, used =>
    let bytes (pipe : Nat) : Nat := ((used.filter fun u => u.1 % 2 = pipe).map Prod.snd).sum
    match lowest 32 fun k => !(used.any fun u => u.1 = k) && bytes (k % 2) + v ≤ 393216 with
    | none => none
    | some k => (pickSlots v n ((k, v) :: used)).map fun r => k :: r

/-- An offset of a core's slice at which `len` bytes are free, the lowest one (R440; log 20). The share of an exited block
stays taken while an access of another block that is already translated reaches it: it would land in another block's share
(R3, R118). -/
def State.shareGap (s : State) (core len : Nat) : Option Nat :=
  let taken := (s.blocks.zipIdx.filter fun p =>
    p.1.core = core && (p.1.onCore || (p.1.place = .exited && s.shareInUse p.2 p.1))).map fun p => (p.1.shareOff, p.1.shareLen)
  if len = 0 then some 0
  else
    (lowest ((sheetSlice - len) / 4096 + 1) fun k =>
      len ≤ sheetSlice && taken.all fun t => 4096 * k + len ≤ t.1 || t.1 + t.2 ≤ 4096 * k).map (4096 * ·)

/-- The block uses the matrix engine (R34). -/
def Launch.mseqOf (l : Launch) (b : Block) : Option DWord := if b.node.isSome then (l.nodeOf b).bind Node.mseqPc else l.mseqPc

/-- The interface of a block. -/
def State.vifOfBlock (s : State) (b : Block) : Nat := ((s.launches[b.lid]?).map Launch.vif).getD 0

/-- A place for a block on a core: its group slots and the offset of its share, or none (R23, R33, R440). -/
def State.placeOn (s : State) (l : Launch) (b : Block) (core : Nat) : Option (List Nat × Nat) :=
  let live := s.liveOn core
  let gondola := ((s.cores[core]?).map Core.gondola).getD []
  let matrix := live.filter fun p => p.2.seqr.isSome
  let foreign := live.any (fun p => s.vifOfBlock p.2 ≠ l.vif) || gondola.any fun k =>
    (s.block? k).any fun o => s.vifOfBlock o = l.vif
  if core ≥ s.part.ncore || s.cretire.getLsbD core || foreign || ((l.mseqOf b).isSome && matrix.length ≥ 4) then none
  else
    match pickSlots (384 * l.nvregOf b) (l.ngrpOf b) (s.slotUse core), s.shareGap core (l.sheetOf b) with
    | some slots, some off => some (slots, off)
    | _, _ => none

/-- The block fits in what is left of every node's budget (R27). -/
def State.budgetOk (s : State) (l : Launch) (b : Block) (core : Nat) : Bool :=
  (s.pathOf l.rcb).all fun r =>
    (s.eff r.addr).any fun e =>
      let cores := ((s.blocksUnder r.addr).map Block.core)
      let new := if cores.contains core then 0 else 1
      s.coresUsed r.addr + new ≤ e.cores && s.tilesUsed r.addr + l.accOf b ≤ e.acct
        && s.sheetUsed r.addr + l.sheetOf b ≤ e.sheetb

/-! What a launch needs (R33, R68, R72) -/

/-- A block's needs, as the checks of a launch take them: sheet bytes, tiles, groups, N, V, and whether it uses the
matrix engine. -/
structure BlockNeed where
  sheet : Nat
  acc : Nat
  ngrp : Nat
  n : Nat
  v : Nat
  matrix : Bool
  deriving DecidableEq, Repr

def BlockNeed.footprint (b : BlockNeed) : Nat := Sys2Proof.Machine.footprint b.sheet b.acc b.ngrp b.n b.v

/-- Blocks of this need that one core takes at once (R33, R68). -/
def BlockNeed.perCore (b : BlockNeed) : Nat :=
  let groups := 2 * min 16 (1024 / max 1 b.v) / max 1 b.ngrp
  let tiles := if b.acc = 0 then groups else min groups (48 / b.acc)
  let sheet := if b.sheet = 0 then tiles else min tiles (sheetSlice / b.sheet)
  if b.matrix then min sheet 4 else sheet

/-- Rs (R68). -/
def BlockNeed.atOnce (b : BlockNeed) (e : EffRcb) : Nat :=
  let r := b.perCore * e.cores
  let r := if b.sheet = 0 then r else min r (e.sheetb / b.sheet)
  if b.acc = 0 then r else min r (e.acct / b.acc)

/-- One block fits (R33, R26, R72). -/
def BlockNeed.fits (b : BlockNeed) (s : State) (e : EffRcb) : Bool :=
  1 ≤ b.perCore && b.sheet ≤ e.sheetb && b.acc ≤ e.acct && 1 ≤ e.cores && (b.acc = 0 || b.footprint ≤ e.balsize)
    && (List.range s.part.ncore).any fun c => !s.cretire.getLsbD c

/-- The ballast that a launch with GRIDBAR needs (R68). -/
def BlockNeed.gridBallast (b : BlockNeed) (e : EffRcb) (blocks : Nat) : Nat :=
  (if b.acc = 0 then blocks - b.atOnce e else blocks) * b.footprint

def Launch.need (l : Launch) : BlockNeed := ⟨l.sheet, l.acc, l.ngrp, l.nsreg, l.nvreg, l.mseqPc.isSome⟩
def Node.need (n : Node) : BlockNeed := ⟨n.sheet, n.acc, 1, n.nsreg, n.nvreg, n.mseqPc.isSome⟩

/-- The status with which a launch is refused under the RCBs as the front end has just read them before its first block
(R29): NOFIT or GBNOBAL. -/
def State.refusal (s : State) (l : Launch) : Option Nat :=
  match s.effOf l with
  | none => some 4
  | some e =>
    if !l.need.fits s e || l.nodes.any fun n => !n.need.fits s e then some 5
    else if l.gridbar && l.need.gridBallast e l.total > e.balsize then some 6
    else none

/-! The state in which a group starts (R434, R438) -/

def scalarsFrom (l : List Word) : SMap Word :=
  (l.zipIdx).foldl (fun m p => assocSet 0 m p.2 p.1) []

/-- A group with the scalars `ws` in s0 onwards and the lanes `m` at `pc`. -/
def Group.start (l : Launch) (pc : DWord) (m : Lanes) (ws : List Word) : Group where
  s := scalarsFrom ws
  sb := []
  v := []
  vb := []
  ix := []
  slotA := Slot.vacant.path pc m m 0
  slotB := Slot.vacant
  depth := 0
  outers := []
  bad := []
  xa := 0
  xaStat := 0
  xaBad := false
  rkey := l.seed
  timeHold := none
  cmixctl := 0
  fpctl := 0x300
  gstat := 0
  tframe := 0xFFFFFE00
  tvec := l.tvec
  tcode := 0
  sbchk := 0
  dbgsel := 0
  step := .off
  keptA := none
  keptB := none
  ser := 0
  pend := []
  aside := []
  trapSer := 0
  trapped := none
  copySeq := 0
  bbArr := 0
  gbArr := 0
  parkedSince := none
  refillDue := false
  exited := false

/-- A numbered barrier at block start. -/
def Barrier.start : Barrier := ⟨0, 0, [], 0, 0⟩

/-- The sequencer's context at first admission (R344). -/
def Sequencer.start (args : DWord) (b : Block) (ngrp : Nat) (pc : DWord) : Sequencer where
  pc := pc
  h := [(0, args), (1, BitVec.ofNat 64 b.bseq), (2, BitVec.ofNat 64 (b.bx + 2 ^ 16 * b.by_ + 2 ^ 32 * b.bz)),
        (3, BitVec.ofNat 64 ngrp)].foldl (fun m p => assocSet 0 m p.1 p.2) []
  phase := 0
  st := .running
  ended := false
  taken := false
  work := none
  drains := []

/-- A block before its groups exist. -/
def Block.blank (lid : Nat) (node : Option Nat) (segment bseq : Nat) (id : Nat × Nat × Nat) : Block where
  lid := lid
  node := node
  segment := segment
  bseq := bseq
  bx := id.1
  by_ := id.2.1
  bz := id.2.2
  place := .resident
  core := 0
  slots := []
  age := 0
  shareOff := 0
  shareLen := 0
  savedShare := []
  savedPoison := []
  waiting := none
  groups := []
  bars := List.replicate 15 Barrier.start
  staged := []
  revoked := []
  seqr := none
  tiles := []
  badTiles := []
  parts := []
  undelivered := []
  wants := 0
  owed := 0

/-- The argument pointer of a block's groups. -/
def Launch.argsOf (l : Launch) (b : Block) : DWord := ((l.nodeOf b).map fun n => BitVec.ofNat 64 n.nargs).getD l.args

/-- A block as it is admitted for the first time. `count` is the records of a node's batch. -/
def Launch.fill (l : Launch) (b : Block) (core : Nat) (slots : List Nat) (off count age : Nat) : Block :=
  let args := l.argsOf b
  let ngrp := l.ngrpOf b
  let g : Group :=
    match l.nodeOf b with
    | some n =>
      let va := n.bufva + 96 * n.rsz * b.segment
      Group.start l n.kernelPc (lanesOf (· < count)) (wordsOf 2 args.toNat ++ wordsOf 2 va ++ [BitVec.ofNat 32 count])
    | none => Group.start l l.kernelPc allLanes (wordsOf 2 args.toNat)
  { b with
    core := core
    slots := slots
    age := age
    shareOff := off
    shareLen := l.sheetOf b
    groups := List.replicate ngrp g
    seqr := (l.mseqOf b).map (Sequencer.start args b ngrp) }

/-! Candidates (R39) -/

/-- What may be admitted: a swapped block, or a block for the first time. -/
inductive Cand
  | again (bid : Nat)
  | first (c : Candidate)
  deriving DecidableEq, Repr

/-- The next block of a launch's grid, and the oldest closed batch of a node with its number. -/
def State.gridBlock (l : Launch) (lid : Nat) : Option Block :=
  if l.st = .running && l.nextBseq < l.total then some (Block.blank lid none 0 l.nextBseq (l.blockId l.nextBseq)) else none
def Launch.batchOf (l : Launch) (node : Nat) : Option (Nat × Batch) :=
  if l.st = .running then ((l.gathers[node]?).bind fun g => g.closed.head?) else none
def State.firstBlock (s : State) (c : Candidate) : Option (Launch × Block × Nat) :=
  match c with
  | .grid lid => (s.launches[lid]?).bind fun l => (State.gridBlock l lid).map fun b => (l, b, 0)
  | .batch lid node =>
    (s.launches[lid]?).bind fun l => (l.batchOf node).map fun p =>
      (l, Block.blank lid (some node) p.2.segment p.1 (p.1, 0, 0), p.2.recs.length)

/-- A swapped block's walks meet no parking fault (R62); its own share counts as present. -/
def State.resolvable (s : State) (bid : Nat) (b : Block) : Bool :=
  let t := s.modBlock bid fun b => { b with place := .resident }
  let parks (k : AFault) : Bool := k = .absent || k = .firstTouch
  let walks (who : Who) (need : Need) (va : Nat) : Bool :=
    match t.translate who need va with
    | .inl k => !parks k
    | .inr _ => true
  let slotOk (g : GRef) (sl : Slot) : Bool :=
    match sl.park with
    | some ⟨.fetch, va, _⟩ => walks (t.whoGroup g) Need.fetch va
    | some ⟨.entry, va, _⟩ => walks (t.whoGroup g) Need.load va
    | _ => true
  let opOk (g : GRef) (p : Pend) : Bool :=
    match t.ctxOf g p.slot with
    | none => true
    | some c =>
      if p.body.isWhole then
        match t.runWhole c p with
        | .fault k _ _ => !parks k
        | _ => true
      else
        match t.walkLanes c p with
        | .fault k _ _ => !parks k
        | _ => true
  let seqrOk (st : SeqSt) : Bool :=
    match st with
    | .parked va _ => walks (t.whoBlock bid) Need.nothing va
    | _ => true
  (b.grefs bid).all (fun g =>
    match b.groups[g.gid]? with
    | none => true
    | some h =>
      slotOk g h.slotA && slotOk g h.slotB && ((h.pend ++ h.aside).filter fun p => p.st = .faulted).all (opOk g))
    && b.seqr.all (fun q => seqrOk q.st) && b.parts.all fun p => seqrOk p.st

/-- Tiles that a swapped block needs on its new core: those of its image, and for a wounded one those that it waits for
(R62, R69). -/
def Block.tilesBack (b : Block) : Nat := b.tilesHeld + (if b.place = .swapped .wound then b.wants else 0)

/-- A swapped block is ready for re-admission (R62): the grid barrier's generation at which it arrived is released, or
some core has the tiles that it waits for; a wounded block's faulted accesses must be resolvable too, as those of one swapped
for its parked groups (DESIGN CHOICE, log 88). -/
def State.readyBack (s : State) (bid : Nat) (b : Block) : Bool :=
  match b.place with
  | .swapped (.grid gen) => (s.launches[b.lid]?).any fun l => gen ≤ l.gridGen
  | .swapped .wound =>
    s.resolvable bid b && (List.range s.part.ncore).any fun c => b.tilesBack ≤ s.freeFor c bid
  | .swapped .parked => s.resolvable bid b
  | _ => false

/-- The swapped blocks of a launch that are ready, in ascending BSEQ. -/
def insertByBseq (p : Nat × Nat) : List (Nat × Nat) → List (Nat × Nat)
  | [] => [p]
  | q :: r => if p.2 < q.2 then p :: q :: r else q :: insertByBseq p r
def State.backOf (s : State) (lid : Nat) : List Nat :=
  ((((List.range s.blocks.length).zip s.blocks).filter fun p => p.2.lid = lid && s.readyBack p.1 p.2).foldl
    (fun l p => insertByBseq (p.1, p.2.bseq) l) []).map Prod.fst

/-- The candidates of a launch in order (R39, R438). -/
def State.candsOf (s : State) (lid : Nat) : List Cand :=
  match s.launches[lid]? with
  | none => []
  | some l =>
    if l.st ≠ .running then []
    else
      (s.backOf lid).map Cand.again
        ++ ((List.range l.nodes.length).filter fun n => (l.batchOf n).isSome).map (fun n => Cand.first (.batch lid n))
        ++ (if l.nextBseq < l.total then [Cand.first (.grid lid)] else [])

/-- Launches by falling effective priority, in the order of their acceptance among equals. -/
def insertByPrio (prio : Nat → Nat) (x : Nat) : List Nat → List Nat
  | [] => [x]
  | y :: r => if prio y < prio x then x :: y :: r else y :: insertByPrio prio x r
def State.cands (s : State) : List Cand :=
  let prio (lid : Nat) : Nat := ((s.launches[lid]?).map s.prioOf).getD 0
  ((List.range s.launches.length).foldl (fun l x => insertByPrio prio x l) []).flatMap s.candsOf

/-- Where a candidate can be placed: its launch, block, and group slots and share on the core. -/
def State.fit (s : State) (c : Cand) (core : Nat) : Option (Launch × Block × Nat × List Nat × Nat) :=
  match c with
  | .again bid =>
    match s.block? bid with
    | none => none
    | some b =>
      match s.launches[b.lid]? with
      | none => none
      | some l =>
        let t := s.releaseOf bid
        let ballast := l.accOf b = 0 || t.ballastFits l.rcb (l.footprintOf b)
        if !ballast || !t.budgetOk l b core || b.tilesBack > s.freeFor core bid then none
        else (s.placeOn l b core).map fun p => (l, b, 0, p.1, p.2)
  | .first f =>
    match s.firstBlock f with
    | none => none
    | some (l, b, n) =>
      let ballast := l.accOf b = 0 || s.ballastFits l.rcb (l.footprintOf b)
      if !ballast || !s.budgetOk l b core then none else (s.placeOn l b core).map fun p => (l, b, n, p.1, p.2)

def State.fitsSomewhere (s : State) (c : Cand) : Bool := (List.range s.part.ncore).any fun k => (s.fit c k).isSome

/-- The launch of a candidate, and since when it has waited. -/
def State.candLid (s : State) (c : Cand) : Nat :=
  match c with
  | .again bid => s.lidOf bid
  | .first (.grid lid) => lid
  | .first (.batch lid _) => lid
def State.candSince (s : State) (c : Cand) : Option Nat :=
  match c with
  | .again bid => (s.block? bid).bind Block.waiting
  | .first (.grid lid) => (s.launches[lid]?).bind Launch.waiting
  | .first (.batch lid n) => ((s.launches[lid]?).bind fun l => l.gathers[n]?).bind Gather.waiting

/-- The candidate has waited for longer than its launch's PARKT and is no longer passed over (R39). -/
def State.overdue (s : State) (c : Cand) : Bool :=
  (s.candSince c).any fun t => t + ((s.launches[s.candLid c]?).map s.parkTicks).getD 0 < s.time

/-- A first admission that a re-admission of its own launch, earlier in the list, holds back (R39). -/
def State.heldBack (s : State) (before : List Cand) : Cand → Bool
  | .again _ => false
  | .first f => before.any fun d =>
      match d with
      | .again _ => s.candLid d = s.candLid (.first f)
      | .first _ => false

/-- The front end may admit the candidate now (R37, R39): no earlier one fits anywhere or keeps its turn, those left out
that wait for a re-admission of their own launch, and it is not held back itself. -/
def State.mayAdmit (s : State) (c : Cand) : Bool :=
  let l := s.cands
  let before := l.takeWhile (· ≠ c)
  l.contains c && !s.heldBack before c
    && before.all fun d => s.heldBack (l.takeWhile (· ≠ d)) d || (!s.fitsSomewhere d && !s.overdue d)

/-! Entering a core -/

/-- The share's bytes and poison at the block's new place. -/
def State.restoreShare (s : State) (b : Block) : State :=
  { s with
    mem := (s.mem.clear (shareAddr b 0) b.shareLen).putAt (b.savedShare.map fun p => (shareAddr b 0 + p.1, p.2))
    poison := (s.poison.filter fun w => !inShare b w) ++ b.savedPoison.map (shareAddr b 0 + ·) }

/-- The groups of a block enter their core's pending set. -/
def State.enterPending (s : State) (bid : Nat) : State :=
  match s.block? bid with
  | none => s
  | some b =>
    let gs := (b.grefs bid).filter fun g => (b.groups[g.gid]?).any fun h => !h.exited
    s.modCore b.core fun k => { k with pending := k.pending ++ gs.map fun g => (g, s.time) }

/-- The interface's partition begins to run when none of its blocks did (R441). -/
def State.startSlice (s : State) (vif : Nat) : State :=
  if s.blocks.any fun b => b.place = .resident && s.vifOfBlock b = vif then s
  else s.modVif vif fun v => { v with sliceStart := s.time }

/-- Refuses a launch (R40, R430). -/
def State.refuseLaunch (s : State) (lid status : Nat) : State :=
  match s.launches[lid]? with
  | none => s
  | some l =>
    let s := s.modLaunch lid fun l => { l with st := .refused status }
    (s.complete l.signal status 0 false 0).writeRcbStatus l.rcb false (some status)

/-- Places a block that has its launch, its slots and its share; the share holds zeros at first (DESIGN CHOICE, log 70). -/
def State.admitFirst (s : State) (f : Candidate) (core : Nat) : State :=
  match s.fit (.first f) core with
  | none => s
  | some (l, b, n, slots, off) =>
    let bid := s.blocks.length
    let s := s.startSlice l.vif
    let s := if l.accOf b = 0 then s
      else (s.reserve l.rcb (l.footprintOf b) (.image bid)).getD s
    let b := l.fill b core slots off n s.fresh
    let s : State := { s with blocks := s.blocks ++ [b] }
    let s := s.restoreShare b
    let s :=
      match f with
      | .grid lid => s.modLaunch lid fun l => { l with nextBseq := l.nextBseq + 1, waiting := none }
      | .batch lid node => s.modLaunch lid fun l =>
          { l with gathers := l.gathers.modify node fun g => { g with closed := g.closed.drop 1, waiting := none } }
    ((s.enterPending bid).writeUse l.rcb).writeRcbStatus l.rcb false none

/-- BLOCK_ADMIT (R39): the front end reads the launch's RCB before its first block (R29). -/
def execBlockAdmit (cand : Candidate) (core : Nat) (s : State) : Result :=
  match s.issuer with
  | .device =>
    match cand with
    | .grid lid =>
      match s.launches[lid]? with
      | none => .next s
      | some l =>
        if l.st ≠ .running then .next s
        else if l.nextBseq = 0 then
          match s.launchPath l.vif l.rcb with
          | none => .next (s.refuseLaunch lid 4)
          | some path =>
            let t := s.keepRcbs path
            match t.refusal l with
            | some code => .next (t.refuseLaunch lid code)
            | none => if t.mayAdmit (.first cand) then .next (t.admitFirst cand core) else .next s
        else if s.mayAdmit (.first cand) then .next (s.admitFirst cand core) else .next s
    | .batch _ _ => if s.mayAdmit (.first cand) then .next (s.admitFirst cand core) else .next s
  | _ => .next s

end Sys2Proof.Machine
end

