-- ==== Sys2Proof/Machine/Schedule.lean ====
section
/-!
DEFINITION. What surrounds an instruction in a step: who moves (log 2), time (log 3), the groups that leave the active
set (R49) and since when a group counts as parked (R55, R232, R347, R407, R411).
-/
namespace Sys2Proof.Machine

/-- Who moves: the head of `turn`, or a free choice (log 2). -/
def State.nextActor (s : State) : Actor × State :=
  match s.turn with
  | a :: r => (a, { s with turn := r })
  | [] => (Config.schedule s.fresh, s)

/-- A row of the opcode table that is no word of a stream. -/
def isEvent (i : Instr) : Bool := (encode i).isNone

/-- A host's stores to its own memory (R463). -/
def State.hostStores (s : State) (cells : List (Nat × Byte)) : State :=
  s.putPhys (cells.filter fun p => isSystem p.1)

/-- When a matrix context parked, if it is. -/
def SeqSt.since? : SeqSt → Option Nat
  | .parked _ t => some t
  | _ => none

/-- Since when a context of the block, or a part held for it, has been parked (R347). -/
def Block.contextSince (b : Block) : Option Nat :=
  (((b.seqr.map Sequencer.st).toList ++ b.parts.map GangPart.st).filterMap SeqSt.since?).min?

/-- The slot waits where software of the block may keep it long: it counts as parked (R339, R347, R407, R411). -/
def State.slowWait (s : State) (g : GRef) (b : Block) (h : Group) (sl : Slot) : Bool :=
  match sl.st with
  | .atEvent (.ticket _) => true
  | .atEvent (.barrier _) => b.contextSince.isSome
  | .atEvent (.arrived _ _) => b.contextSince.isSome
  | .atEvent (.header _) => b.contextSince.isSome
  | .atEvent (.copy k _) =>
    (((s.copyOf g h k).bind fun i => s.copies[i]?).any fun c =>
      c.st = .paused && (c.cause = 6 || c.cause = 7))
  | .running => s.emitWaits b sl || (match sl.hold with
      | some (.cells cs) => b.staged.any fun e => e.gid = g.gid && (h.op? e.ser).any fun p => p.cells.any cs.contains
      | _ => false)
  | _ => false

/-- The group counts as parked: neither slot issues, and one of them is parked or waits as above. -/
def State.groupParked (s : State) (g : GRef) (b : Block) (h : Group) : Bool :=
  let stopped (sl : Slot) := !sl.canIssue || s.slowWait g b h sl
  let held (sl : Slot) := sl.park.isSome || s.slowWait g b h sl
  !h.exited && stopped h.slotA && stopped h.slotB && (held h.slotA || held h.slotB)

/-- Since when a group that is found parked counts as such: from the moment a context of its block parked, where it waits
on a numbered barrier (R347). -/
def State.parkStart (s : State) (b : Block) (h : Group) : Nat :=
  if h.slotA.bar?.isSome || h.slotB.bar?.isSome then b.contextSince.getD s.time else s.time

/-- A parked context's time, moved on. -/
def SeqSt.later (d : Nat) : SeqSt → SeqSt
  | .parked va t => .parked va (t + d)
  | st => st

/-- A pre-empted block's PARKT clocks stop (R442): those of its groups and of its parked contexts. -/
def Block.stopClocks (d : Nat) (b : Block) : Block :=
  { b with
    groups := b.groups.map fun h => { h with parkedSince := h.parkedSince.map (· + d) }
    seqr := b.seqr.map fun q => { q with st := q.st.later d }
    parts := b.parts.map fun p => { p with st := p.st.later d } }

/-- Since when each group has been parked as a whole; the clocks of a pre-empted block stop (R442). -/
def State.noteParks (s : State) (elapsed : Nat) : State :=
  { s with blocks := s.blocks.zipIdx.map fun p =>
      if p.1.place = .preempted then p.1.stopClocks elapsed
      else
        { p.1 with groups := p.1.groups.zipIdx.map fun q =>
            let on := p.1.place = .resident && s.groupParked ⟨p.2, q.2⟩ p.1 q.1
            { q.1 with parkedSince := if on then some (q.1.parkedSince.getD (s.parkStart p.1 q.1)) else none } } }

/-- The operation is no load of the core's own sheet slice, which is the one kind of access that keeps a group in the
active set (R49). -/
def Pend.slow (p : Pend) (core : Nat) : Bool :=
  match p.body with
  | .load => p.accs.any fun c => c.pas.isEmpty ||
      c.pas.any fun a => a < sheetBase + core * sheetSlice || sheetBase + (core + 1) * sheetSlice ≤ a
  | _ => true

/-- A long-latency dependence still holds back the instruction that has not issued (R49, R128, R324, R418). -/
def State.holds (s : State) (b : Block) (h : Group) : Hold → Bool
  | .order => false
  | .cells cs => h.outstanding.any fun p => p.slow b.core && p.cells.any cs.contains
  | .stream n => h.streamCount n ≥ 63
  | .copySlot => s.copySlots b.core ≥ 128
  | .step ci => (s.comms[ci]?).any Comm.full

/-- A slot of the group could go on, or its refill: no long-latency dependence holds it, no walk of its is outstanding (R49, R230). -/
def State.groupReady (s : State) (g : GRef) : Bool :=
  (s.block? g.bid).any fun b => (b.groups[g.gid]?).any fun h => !h.exited && ((h.refillDue && !h.tailMeets h.depth) || [SlotId.a, .b].any fun x =>
    let sl := h.slot x
    match sl.st with
    | .running => sl.canIssue && !sl.hold.any (s.holds b h)
    | .atEvent w => s.waitOver g x w
    | _ => false)

/-- Groups that are not ready leave the active set, and a pending group's time counts from when it became ready
(R49, R52). -/
def State.noteWaits (s : State) : State :=
  { s with cores := s.cores.map fun c =>
      { c with
        active := c.active.filter s.groupReady
        pending := c.pending.map (fun q => if s.groupReady q.1 then q else (q.1, s.time))
          ++ (c.active.filter fun g => !s.groupReady g).map fun g => (g, s.time) } }

/-- A clause is suspended when its instruction waits or its group leaves the active set (R79). -/
def State.noteClauses (s : State) : State :=
  { s with cores := s.cores.map fun c =>
      { c with inClause := c.inClause.filter fun p =>
          c.active.contains p.1 && (s.slot? p.1 p.2).any fun sl => sl.clause.isSome && sl.canIssue && sl.hold.isNone } }

/-- Since when each candidate for admission has waited (R39). -/
def State.noteWaiting (s : State) : State :=
  { s with
    launches := s.launches.map fun l =>
      { l with
        waiting := if l.st = .running && l.nextBseq < l.total then some (l.waiting.getD s.time) else none
        gathers := l.gathers.map fun g =>
          { g with waiting := if g.closed.isEmpty then none else some (g.waiting.getD s.time) } }
    blocks := s.blocks.zipIdx.map fun p =>
      { p.1 with waiting := if s.readyBack p.2 p.1 then some (p.1.waiting.getD s.time) else none } }

/-- The end of a step. -/
def State.tick (s : State) : State :=
  let d := Config.ticks s.fresh
  let s : State := { s with issuer := .nobody, fresh := s.fresh + 1, time := s.time + d }
  (s.noteWaits.noteClauses.noteParks d).noteWaiting

/-- The end of a step, for each of its outcomes. -/
def tickResult : Result → Result
  | .next s => .next s.tick
  | r => r

end Sys2Proof.Machine
end

