-- ==== Sys2Proof/Machine/Swap.lean ====
section
/-!
DEFINITION. The group scheduler (R48 to R52), swapping blocks out and in again (R55 to R63, R67, R69, R70), pre-emption
(R440 to R442), the retry of parked faults (R259, R448) and the retirement of a core (R23).
-/
namespace Sys2Proof.Machine

/-! The active set -/

/-- The age of a group: the order of its block's admission, then its GID (R51). -/
def State.groupAge (s : State) (g : GRef) : Nat × Nat := (((s.block? g.bid).map Block.age).getD 0, g.gid)

/-- `a` is older than `b`. -/
def olderAge (a b : Nat × Nat) : Bool := a.1 < b.1 || (a.1 = b.1 && a.2 < b.2)

/-- The oldest of a list of groups. -/
def State.oldest (s : State) : List GRef → Option GRef
  | [] => none
  | g :: r =>
    match s.oldest r with
    | none => some g
    | some k => some (if olderAge (s.groupAge k) (s.groupAge g) then k else g)

/-- The group's block runs on its core. -/
def State.isResident (s : State) (g : GRef) : Bool := (s.block? g.bid).any fun b => b.place = .resident

/-- PENDING_TO_ACTIVE (R49): the oldest ready pending group enters an active set with room. -/
def execPendingToActive (s : State) : Result :=
  match s.issuer with
  | .core c =>
    match s.cores[c]? with
    | none => .next s
    | some k =>
      if k.active.length ≥ 8 then .next s
      else
        match s.oldest ((k.pending.map Prod.fst).filter fun g => s.groupReady g && s.isResident g) with
        | none => .next s
        | some g => .next (s.modCore c fun k =>
            { k with active := k.active ++ [g], pending := k.pending.filter fun q => q.1 ≠ g })
  | _ => .next s

/-- 32 clk in ticks: 25.6 ns, rounded up (R12, R48). -/
def exchangeTicks : Nat := 26

/-- The ready pending group that has waited longest, for 32 clk at least; of several that have waited equally long the
earlier one of the pending list (DESIGN CHOICE, log 72). -/
def State.longestReady (s : State) : List (GRef × Nat) → Option (GRef × Nat)
  | [] => none
  | q :: r =>
    let rest := s.longestReady r
    if s.groupReady q.1 && s.isResident q.1 && q.2 + exchangeTicks ≤ s.time then
      match rest with
      | some p => some (if p.2 < q.2 then p else q)
      | none => some q
    else rest

/-- ACTIVE_SET_EXCHANGE (R52). -/
def execActiveSetExchange (s : State) : Result :=
  match s.issuer with
  | .core c =>
    match s.cores[c]? with
    | none => .next s
    | some k =>
      if k.active.length < 8 || !(k.lastExchange = 0 || k.lastExchange + exchangeTicks ≤ s.time) then .next s
      else
        match k.active, s.longestReady k.pending with
        | out :: rest, some (g, _) => .next (s.modCore c fun k =>
            { k with
              active := rest ++ [g]
              pending := (k.pending.filter fun q => q.1 ≠ g) ++ [(out, s.time)]
              lastExchange := s.time })
        | _, _ => .next s
  | _ => .next s

/-! Drains (R56, R155) -/

/-- The groups of a block stop, and its copies at the end of a chunk. -/
def State.haltBlock (s : State) (bid : Nat) (b : Block) : State :=
  let s := match s.launches[b.lid]? with
    | none => s
    | some l => s.finishChunks bid b l
  (b.grefs bid).foldl State.quiesce s

/-- What the drain leaves is held (R56, R60, R151). -/
def Block.holdOps (b : Block) : Block :=
  { b with groups := b.groups.zipIdx.map fun q =>
      { q.1 with pend := q.1.pend.map (Pend.heldUnless (b.inReserve q.2)) } }

/-- What was held goes on, on its own edges (R62, R154). -/
def Block.freeOps (b : Block) : Block :=
  { b with groups := b.groups.map fun h =>
      { h with pend := mapWhere (fun p => p.st = .held) (fun p => { p with st := .waiting }) h.pend } }

/-- A word in progress stops at a band boundary: it checks and reads its bytes afresh (R348). -/
def MWork.stop (w : MWork) : MWork := { w with ready := false, data := [], dataB := [], dest := [] }

def Block.stopMatrix (b : Block) : Block :=
  { b with
    seqr := b.seqr.map fun q => { q with work := q.work.map MWork.stop, drains := q.drains.map MWork.stop }
    parts := b.parts.map fun p => { p with work := p.work.stop } }

/-! Swap-out -/

/-- The number of faulted accesses that the image takes (R59). -/
def Block.faultCount (b : Block) : Nat :=
  (b.groups.map fun h => ((h.pend ++ h.aside).filter fun p => p.st = .faulted).length).sum

/-- The reservations of a swap (R58, R59, R72): none when one of them cannot be made. -/
def State.swapRoom (s : State) (l : Launch) (bid : Nat) (b : Block) : Option State :=
  let first := if l.accOf b = 0 then s.reserve l.rcb (l.footprintOf b) (.image bid) else some s
  first.bind fun t => if b.faultCount = 0 then some t else t.reserve l.rcb (2432 * b.faultCount) (.faults bid)

/-- The block leaves its core for its image (R56, R57, R60); the holding words of TIMELO end (R13), the last-page registers
are cleared (R250). -/
def State.stash (s : State) (bid : Nat) (why : SwapWhy) : State :=
  let mem := s.mem
  let poison := s.poison
  let s := s.modBlock bid fun b =>
    { b with
      savedShare := (mem.filter fun p => inShare b p.1).map fun p => (p.1 - shareAddr b 0, p.2)
      savedPoison := (poison.filter (inShare b)).map (· - shareAddr b 0)
      slots := []
      place := .swapped why
      owed := 0
      groups := b.groups.map fun h => { h with parkedSince := none, timeHold := none } }
  (s.unschedule fun g => g.bid = bid).clearPages bid

/-- The younger of two blocks (R70); blocks of one BSEQ, in different nodes, by age. -/
def State.younger (s : State) (b o : Block) : Bool :=
  let prio (x : Block) : Nat := ((s.launches[x.lid]?).map s.prioOf).getD 0
  if b.lid = o.lid then o.bseq < b.bseq || (o.bseq = b.bseq && o.age < b.age)
  else prio b < prio o || (prio b = prio o && o.lid < b.lid)

/-- The blocks of the core that wound this one: older, and waiting in MALLOC for tiles that are not free (R69). -/
def State.wounders (s : State) (b : Block) : List Nat :=
  (List.range s.blocks.length).filter fun k => (s.block? k).any fun o =>
    o.place = .resident && o.core = b.core && o.wants ≠ 0 && o.wants > s.freeFor o.core k && s.younger b o

/-- A block that waits in MALLOC and holds tiles of which an older one is in need (R69). -/
def State.isWounded (s : State) (b : Block) : Bool :=
  b.place = .resident && b.wants ≠ 0 && b.tilesHeld ≠ 0 && !(s.wounders b).isEmpty

/-- The tiles of a wounded block go to the oldest of those that wound it, as many as it waits for (R69). -/
def State.leaveTiles (s : State) (b : Block) : State :=
  let ws := s.wounders b
  match ws.find? fun k => (s.block? k).any fun o => ws.all fun j => (s.block? j).all fun p => !s.younger o p with
  | none => s
  | some k => s.modBlock k fun o => { o with owed := min o.wants (o.owed + b.tilesHeld) }

/-- Swaps a block out (R55 to R59): it is drained, its image and its faulted accesses are reserved, or it stays. -/
def State.swapOut (s : State) (bid : Nat) (why : SwapWhy) : State :=
  match s.block? bid with
  | none => s
  | some b =>
    if b.place ≠ .resident || s.shareInUse bid b then s
    else
      let t := s.haltBlock bid b
      let t := t.modBlock bid fun b => b.holdOps.stopMatrix
      match t.block? bid, t.launches[b.lid]? with
      | some b', some l =>
        if b'.place ≠ .resident || l.st ≠ .running then t
        else
          match t.swapRoom l bid b' with
          | none => s
          | some u =>
            let u := if u.isWounded b' then u.leaveTiles b' else u
            (u.stash bid why).writeUse l.rcb
      | _, _ => t

/-- Every group of the block that has not exited is parked. -/
def Block.allParked (b : Block) : Bool :=
  b.groups.any (fun h => !h.exited) && b.groups.all fun h => h.exited || h.parkedSince.isSome

/-- The block has arrived at the grid barrier. -/
def State.arrivedGrid (l : Launch) (b : Block) : Bool :=
  l.gridbarOf b && b.place = .resident && b.groups.any (fun h => !h.exited) && b.gbDone (l.gridGen + 1)

/-- The block is the one to make room at the grid barrier: its launch's next block fits nowhere, and it has the highest
BSEQ of the arrived blocks (R67). -/
def State.yieldsGrid (s : State) (l : Launch) (b : Block) : Bool :=
  State.arrivedGrid l b && (State.gridBlock l b.lid).isSome && !s.fitsSomewhere (.first (.grid b.lid))
    && (s.gridBlocks b.lid).all fun o => !State.arrivedGrid l o || o.bseq ≤ b.bseq

/-- Why a block is to be swapped now (R55), its park threshold apart; a wounded block is swapped as one, so that it comes
back when it can have the tiles that it waits for (R62, R69). -/
def State.swapCause (s : State) (b : Block) : Option SwapWhy :=
  if b.place ≠ .resident then none
  else if s.isWounded b then some .wound
  else if b.allParked then some .parked
  else
    match s.launches[b.lid]? with
    | none => none
    | some l => if s.yieldsGrid l b then some (.grid (l.gridGen + 1)) else none

/-- BLOCK_SWAP_OUT (R55, R56). -/
def execBlockSwapOut (s : State) : Result :=
  match s.issuer with
  | .block bid =>
    match (s.block? bid).bind s.swapCause with
    | none => .next s
    | some why => .next (s.swapOut bid why)
  | _ => .next s

/-- PARKT_EXPIRY (R55): a group has been parked for its launch's PARKT. -/
def execParktExpiry (s : State) : Result :=
  match s.issuer with
  | .group g =>
    match s.group? g, s.launchOf g.bid with
    | some h, some l =>
      if h.parkedSince.any fun t => t + s.parkTicks l ≤ s.time then
        .next (s.swapOut g.bid (((s.block? g.bid).bind s.swapCause).getD .parked))
      else .next s
    | _, _ => .next s
  | _ => .next s

/-! Re-admission -/

/-- Timed copies whose T has passed while their block did not run report LATE (R442). -/
def State.lateCopies (s : State) (bid : Nat) : State :=
  { s with
    copies := mapWhere (fun c => c.owner.bid = bid && c.st = .armed && c.set)
      (fun c => { c with late := c.late || c.timed.any fun t => t < s.time }) s.copies }

/-- Parked fetches and entry reads run again. -/
def Slot.clearPark (sl : Slot) : Slot :=
  match sl.park.map Park.why with
  | some .fetch => { sl with park := none }
  | some .entry => { sl with park := none }
  | _ => sl

def SeqSt.clear : SeqSt → SeqSt
  | .parked _ _ => .running
  | st => st

/-- Parked contexts run again. -/
def Block.clearParks (b : Block) : Block :=
  { b with
    groups := b.groups.map fun h => { h with slotA := h.slotA.clearPark, slotB := h.slotB.clearPark }
    seqr := b.seqr.map fun q => { q with st := q.st.clear }
    parts := b.parts.map fun p => { p with st := p.st.clear } }

/-- Parts that leaders have kept for a block are delivered, with B as it reads now; a part whose B cannot be read now reads
it when it begins (R366; log 45). -/
def State.deliverKept (s : State) (bid : Nat) : State :=
  (List.range s.blocks.length).foldl (fun s k =>
    let mine := ((s.block? k).map fun b => b.undelivered.filter fun u => u.member = bid).getD []
    let s := mine.foldl (fun s u =>
      let (s, w) := match s.readPartB k u.work with
        | .inl _ => (s, u.work)
        | .inr m => (s.useRead (s.viewOf k) false m, { u.work with dataB := m.data })
      s.modBlock bid fun b => { b with parts := b.parts ++ [⟨k, w, false, false, .running⟩] }) s
    s.modBlock k fun b => { b with undelivered := b.undelivered.filter fun u => u.member ≠ bid }) s

/-- Replays the faulted accesses of a block that satisfy `which`, group after group (R63). -/
def State.replayBlock (s : State) (bid : Nat) (which : Pend → Bool) : State :=
  match s.block? bid with
  | none => s
  | some b => (b.grefs bid).foldl (fun s g => s.replay g which) s

/-- Brings a swapped block to a core (R62): its reservations end, and a block with tiles takes a new one (R72). -/
def State.readmit (s : State) (bid core : Nat) : State :=
  match s.block? bid, s.fit (.again bid) core with
  | some old, some (l, _, _, slots, off) =>
    let age := s.fresh
    let s := (s.startSlice l.vif).modBlock bid fun b =>
      { b with place := .resident, core := core, slots := slots, shareOff := off, age := age, wants := 0, waiting := none }
    let s := match s.block? bid with
      | none => s
      | some b => s.restoreShare b
    let s := s.modBlock bid fun b => { b.clearParks with savedShare := [], savedPoison := [] }
    let s := s.releaseOf bid
    let s := if l.accOf old = 0 then s else (s.reserve l.rcb (l.footprintOf old) (.image bid)).getD s
    let s : State := { s with copies := mapWhere (fun c => c.owner.bid = bid) (fun c => { c with core := core }) s.copies }
    let s := (s.lateCopies bid).deliverKept bid
    let s := s.replayBlock bid fun _ => true
    let s := s.modBlock bid Block.freeOps
    ((s.enterPending bid).writeUse l.rcb)
  | _, _ => s

/-- BLOCK_READMIT (R62). -/
def execBlockReadmit (core : Nat) (s : State) : Result :=
  match s.issuer with
  | .block bid =>
    match s.block? bid with
    | none => .next s
    | some b => if s.readyBack bid b && s.mayAdmit (.again bid) then .next (s.readmit bid core) else .next s
  | _ => .next s

/-! The retry of parked faults -/

/-- Firmware resolves the placeholders of a range from the pool (R259). -/
def State.resolveRange (s : State) (lid : Nat) (who : Who) (va len : Nat) : State :=
  (pieces (len / 4096 + 2) va len).foldl (fun s p =>
    match s.translate who Need.nothing p.1 with
    | .inl .firstTouch => (s.mapPage lid p.1).1
    | _ => s) s

/-- Resolves the placeholders that a faulted access touched. -/
def State.resolveOp (s : State) (lid : Nat) (who : Who) (p : Pend) : State :=
  p.extents.foldl (fun s r => s.resolveRange lid who r.1 r.2) s

/-- Resolves the placeholders that what holds a slot has touched (R259), whether its block runs or not. -/
def State.resolveSlot (s : State) (g : GRef) (x : SlotId) : State :=
  match s.ctxOf g x with
  | none => s
  | some c =>
    let who := s.whoGroup g
    match c.sl.park with
    | none => s
    | some p =>
      match p.why with
      | .access _ =>
        (c.h.pend.filter fun q => q.st = .faulted && q.slot = x).foldl (fun s q => s.resolveOp c.b.lid who q)
          (s.resolveRange c.b.lid who p.va 1)
      | .entry => s.resolveRange c.b.lid who p.va 8
      | .fetch => s

/-- What holds a slot goes on, unless it parks again (R259): its faulted accesses are replayed, a parked fetch or entry read
runs again. -/
def State.retrySlot (s : State) (g : GRef) (x : SlotId) : State :=
  match s.ctxOf g x with
  | none => s
  | some c =>
    let who := s.whoGroup g
    match c.sl.park with
    | none => s
    | some p =>
      match p.why with
      | .access _ =>
        match s.translate who Need.nothing p.va with
        | .inl .absent => s
        | .inl .firstTouch => s
        | _ => s.replay g fun q => q.slot = x
      | .fetch =>
        match s.translate who Need.fetch p.va with
        | .inl .absent => s
        | .inl .firstTouch => s
        | _ => s.modSlot g x Slot.clearPark
      | .entry =>
        match s.translate who Need.load p.va with
        | .inl .absent => s
        | .inl .firstTouch => s
        | _ => s.modSlot g x Slot.clearPark

/-- A parked context goes on once the walk of its address does not park it again; placeholders that it touched are
resolved first, by `mapPage`. -/
def State.retryAt (s : State) (bid va : Nat) (go : State → State) : State :=
  let who := s.whoBlock bid
  let s := s.resolveRange (s.lidOf bid) who va 1
  match s.translate who Need.nothing va with
  | .inl .absent => s
  | .inl .firstTouch => s
  | _ => go s

/-- The source and destination of a copy's next chunk as ranges of addresses. -/
def Copy.nextRanges (c : Copy) : List (Nat × Nat) :=
  runs c.next.1 ++ runs (c.next.2.map fun q => (c.dst + q) % 2 ^ 64)

/-- A retry of a parked fault (R259, R448). A block that does not run becomes ready when its faults are resolved (R62), and
a reduction step walks again whenever it runs. -/
def State.retry (s : State) : ParkedRef → State
  | .slot g x =>
    let t := s.resolveSlot g x
    if t.isResident g then t.retrySlot g x else t
  | .sequencer bid =>
    match ((s.block? bid).bind Block.seqr).map Sequencer.st with
    | some (.parked va _) =>
      s.retryAt bid va fun s => s.modBlock bid fun b => { b with seqr := b.seqr.map fun q => { q with st := q.st.clear } }
    | _ => s
  | .gangPart bid =>
    match (s.block? bid).bind fun b => b.parts.head? with
    | some p =>
      match p.st with
      | .parked va _ =>
        s.retryAt bid va fun s => s.modBlock bid fun b => { b with parts := b.parts.modify 0 fun p => { p with st := p.st.clear } }
      | _ => s
    | none => s
  | .copy cid =>
    match s.copies[cid]? with
    | none => s
    | some c =>
      match s.copyHome c with
      | none => s
      | some (b, _, _) =>
        let who := s.whoGroup c.owner
        let s := if c.st = .paused then c.nextRanges.foldl (fun s r => s.resolveRange b.lid who r.1 r.2) s else s
        s.resumeCopy cid
  | .writeBack k =>
    match s.bound[k]? with
    | none => s
    | some b =>
      if !b.stuck then s
      else
        match writeBack b s with
        | .ok ((), t) => t.modBound b.pa fun c => { c with stuck := false }
        | .error _ => s
  | .step ci k =>
    match (s.comms[ci]?).bind fun m => (m.steps.find? fun t => t.k = k && t.st = .armed && t.cause = 6).map fun t => (m, t) with
    | none => s
    | some (m, t) =>
      [t.readRange, t.writeRange m.nrank].foldl (fun s r => s.resolveRange t.lid (s.whoGroup t.owner) r.1 r.2) s

/-! Pre-emption -/

/-- A block of the running partition stops where it is (R155, R440, R442). -/
def State.pauseBlock (s : State) (bid : Nat) : State :=
  match s.block? bid with
  | none => s
  | some b =>
    let s := (s.haltBlock bid b).modBlock bid fun b => b.holdOps.stopMatrix
    if (s.block? bid).any fun b => b.place = .resident then
      ((s.modBlock bid fun b => { b with place := .preempted }).unschedule fun g => g.bid = bid).clearPages bid
    else s

/-- A block of the gondola runs again (R442); faults of it that have been resolved meanwhile are replayed (R259). -/
def State.resumeBlock (s : State) (bid : Nat) : State :=
  let s := s.modBlock bid fun b => { b.freeOps with place := .resident }
  let gs := ((s.block? bid).map fun b => b.grefs bid).getD []
  let s := gs.foldl (fun s g => (s.retrySlot g .a).retrySlot g .b) s
  (s.lateCopies bid).enterPending bid

/-- The exchange of a core's live context with its gondola (R440). -/
def State.exchangeCore (s : State) (core : Nat) : State :=
  let live := (s.liveOn core).filter fun p => p.2.place = .resident
  let back := ((s.cores[core]?).map Core.gondola).getD []
  let s := live.foldl (fun s p => s.pauseBlock p.1) s
  let held := (live.map Prod.fst).filter fun k => (s.block? k).any fun b => b.place = .preempted
  let s := s.modCore core fun k => { k with gondola := held }
  back.foldl State.resumeBlock s

/-- The partition that runs on a core, if one does, and the one in its gondola. -/
def State.ownerOf (s : State) (core : Nat) : Option Nat :=
  (((s.liveOn core).filter fun p => p.2.place = .resident).head?).map fun p => s.vifOfBlock p.2
def State.gondolaOf (s : State) (core : Nat) : Option Nat :=
  ((s.cores[core]?).bind fun k => k.gondola.head?).bind fun k => (s.block? k).map s.vifOfBlock

/-- A group of the gondola's partition could go on. -/
def State.gondolaReady (s : State) (core : Nat) : Bool :=
  ((s.cores[core]?).map Core.gondola).any fun l => l.any fun k =>
    (s.block? k).any fun b => (b.grefs k).any s.groupReady

/-- A launch needs each of the cores: its groups in the core's gondola could go on, or a candidate of its that fits on no
core now would fit on this one once the core's contexts have changed places (R440, R441). -/
def State.needsCores (s : State) (cores : List Nat) (l : Launch) (lid : Nat) : Bool :=
  l.st = .running && cores.all fun c =>
    (((s.cores[c]?).map Core.gondola).any fun k => k.any fun bid =>
      (s.block? bid).any fun b => b.lid = lid && (b.grefs bid).any s.groupReady)
    || (s.candsOf lid).any fun d => !s.fitsSomewhere d && ((s.exchangeCore c).fit d c).isSome

/-- A launch of another interface that needs the cores has a higher effective priority than every launch of the partition
on them (R441). -/
def State.outranked (s : State) (cores : List Nat) (owner : Nat) : Bool :=
  s.launches.zipIdx.any fun p =>
    p.1.vif ≠ owner && s.needsCores cores p.1 p.2 && cores.all fun c => (s.liveOn c).all fun q =>
      q.2.place ≠ .resident || (s.launches[q.2.lid]?).all fun o => s.prioOf o < s.prioOf p.1

/-- The partition of an interface has run for its QUANTUM (R441). -/
def State.quantumOver (s : State) (vif : Nat) : Bool :=
  (s.vifs[vif]?).any fun v => v.quantum ≠ 0 && v.sliceStart + 1000 * v.quantum ≤ s.time

/-- Exchanges the cores of one partition with their gondolas; the incoming partition's slice begins (R440). -/
def State.preemptCores (s : State) (cores : List Nat) (into : Option Nat) : State :=
  let s := cores.foldl State.exchangeCore s
  match into with
  | none => s
  | some v => s.modVif v fun w => { w with sliceStart := s.time }

/-- PREEMPT (R440, R441): the cores run one partition, and either hold another one or nothing in their gondolas; cores
on which nothing runs any more take their gondola's partition back. -/
def execPreempt (cores : List Nat) (s : State) : Result :=
  match s.issuer with
  | .device =>
    match cores with
    | [] => .next s
    | c :: _ =>
      match s.ownerOf c with
      | none =>
        let into := s.gondolaOf c
        if into.isSome && cores.all (fun k => s.ownerOf k = none && s.gondolaOf k = into) then
          .next (s.preemptCores cores into)
        else .next s
      | some v =>
        let into := cores.findSome? s.gondolaOf
        let same := cores.all fun k => s.ownerOf k = some v && (s.gondolaOf k = none || s.gondolaOf k = into)
        if same && cores.eraseDups = cores && s.outranked cores v then .next (s.preemptCores cores into) else .next s
  | _ => .next s

/-- QUANTUM_EXPIRY (R441): the partition of an interface has run for its QUANTUM while the one in the gondola of its
cores is ready. -/
def execQuantumExpiry (s : State) : Result :=
  match s.issuer with
  | .host v =>
    let cores := (List.range s.part.ncore).filter fun c =>
      s.ownerOf c = some v && (s.gondolaOf c).isSome
    let into := cores.findSome? s.gondolaOf
    let mine := cores.filter fun c => s.gondolaOf c = into
    if s.quantumOver v && mine.any s.gondolaReady then .next (s.preemptCores mine into) else .next s
  | _ => .next s

/-- CORE_RETIRE (R23): no block is admitted to the core any more; firmware sets its bit. -/
def execCoreRetire (s : State) : Result :=
  match s.issuer with
  | .core c => if c < s.part.ncore then .next { s with cretire := s.cretire ||| BitVec.ofNat 256 (2 ^ c) } else .next s
  | _ => .next s

/-! PARKED_FAULT_RETRY and RESUME -/

/-- Since when it has been parked, where the state tells. -/
def State.parkedSince (s : State) : ParkedRef → Option Nat
  | .slot g x => ((s.slot? g x).bind Slot.park).map Park.since
  | .sequencer bid =>
    match ((s.block? bid).bind Block.seqr).map Sequencer.st with
    | some (.parked _ t) => some t
    | _ => none
  | .gangPart bid =>
    match ((s.block? bid).bind fun b => b.parts.head?).map GangPart.st with
    | some (.parked _ t) => some t
    | _ => none
  | _ => some 0

/-- The launch whose PARKT counts for a parked fault. -/
def State.parkedLid (s : State) : ParkedRef → Nat
  | .slot g _ => s.lidOf g.bid
  | .sequencer bid => s.lidOf bid
  | .gangPart bid => s.lidOf bid
  | .copy cid => s.lidOf (((s.copies[cid]?).map fun c => c.owner.bid).getD 0)
  | .writeBack k => ((s.bound[k]?).bind fun b => b.lids.head?).getD 0
  | .step ci k => (((s.comms[ci]?).bind fun m => m.steps.find? fun t => t.k = k && t.inFlight).map RedStep.lid).getD 0

/-- The addresses at which a parked fault may stand, with their address space. -/
def State.parkedAt (s : State) : ParkedRef → Nat × List (Nat × Nat)
  | .slot g x => (s.asidOf g.bid, (((s.slot? g x).bind Slot.park).map fun p => (p.va, 1)).toList)
  | .sequencer bid =>
    (s.asidOf bid, match ((s.block? bid).bind Block.seqr).map Sequencer.st with
      | some (.parked va _) => [(va, 1)]
      | _ => [])
  | .gangPart bid =>
    (s.asidOf bid, match ((s.block? bid).bind fun b => b.parts.head?).map GangPart.st with
      | some (.parked va _) => [(va, 1)]
      | _ => [])
  | .copy cid =>
    match s.copies[cid]? with
    | some c => (s.asidOf c.owner.bid, if c.st = .paused then c.nextRanges else [])
    | none => (0, [])
  | .writeBack k =>
    match s.bound[k]? with
    | some b => (b.asid, if b.stuck then [(b.va, 256)] else [])
    | none => (0, [])
  | .step ci k =>
    match (s.comms[ci]?).bind fun m => (m.steps.find? fun t => t.k = k && t.inFlight).map fun t => (m, t) with
    | some (m, t) => (s.asidOf t.owner.bid, [t.readRange, t.writeRange m.nrank])
    | none => (0, [])

/-- A page at which a parked fault may stand has been mapped from a pool, by PFMAP or by firmware (R448). -/
def State.poolMapped (s : State) (p : ParkedRef) : Bool :=
  let (asid, l) := s.parkedAt p
  l.any fun r => (pieces (r.2 / 4096 + 2) r.1 r.2).any fun q =>
    match s.walkTree asid q.1 with
    | .leaf e _ _ => s.pools.any fun o => o.taken.any fun t => t.1 = leafPA e
    | _ => false

/-- Fault records that wait for room go to their rings as entries are freed (R448). -/
def State.flushAll (s : State) : State := (List.range s.vifs.length).foldl State.flushFaults s

/-- PARKED_FAULT_RETRY (R448): once every PARKT while the fault stays parked, and after its page has been mapped from a
pool. Records that wait for their ring go there first. -/
def execParkedFaultRetry (p : ParkedRef) (s : State) : Result :=
  match s.issuer with
  | .device =>
    let s := s.flushAll
    let due := (s.parkedSince p).any fun t => t + ((s.launches[s.parkedLid p]?).map s.parkTicks).getD 0 ≤ s.time
    if due || s.poolMapped p then .next (s.retry p) else .next s
  | _ => .next s

/-- Retries the parked faults of an address space in a range of addresses (R448). -/
def State.resumeRange (s : State) (asid lo len : Nat) : State :=
  let inR (va : Nat) : Bool := lo ≤ va / 4096 * 4096 + 4095 && va / 4096 * 4096 < lo + len
  let slots := (List.range s.blocks.length).flatMap fun bid =>
    if s.asidOf bid ≠ asid then []
    else
      ((s.block? bid).map fun b => (b.grefs bid).flatMap fun g => [SlotId.a, SlotId.b].filterMap fun x =>
        if ((s.slot? g x).bind Slot.park).any fun p => inR p.va then some (ParkedRef.slot g x) else none).getD []
  let contexts := (List.range s.blocks.length).flatMap fun bid =>
    if s.asidOf bid ≠ asid then [] else [ParkedRef.sequencer bid, .gangPart bid]
  let copies := (List.range s.copies.length).filterMap fun k =>
    if (s.copies[k]?).any fun c => c.st = .paused && s.asidOf c.owner.bid = asid then some (ParkedRef.copy k) else none
  let writes := (List.range s.bound.length).filterMap fun k =>
    if (s.bound[k]?).any fun b => b.stuck && b.asid = asid then some (ParkedRef.writeBack k) else none
  let steps := (List.range s.comms.length).flatMap fun ci =>
    ((s.comms[ci]?).map fun m => (m.steps.filter fun t =>
      t.inFlight && t.cause = 6 && s.asidOf t.owner.bid = asid).map fun t => ParkedRef.step ci t.k).getD []
  (slots ++ contexts ++ copies ++ writes ++ steps).foldl State.retry s

end Sys2Proof.Machine
end

