-- ==== Sys2Proof/Machine/Appol.lean ====
section
/-!
DEFINITION. appolc (R449, R450): the translation of an Appol kernel to Carhal words for an allotment. An answer of none
is BADAPPOL.
-/
namespace Sys2Proof.Machine

/-! Reading an Appol instruction (R449) -/

/-- A virtual register: its file (0 vector, 1 scalar, 2 mask) and its number. -/
abbrev VKey := Nat × Nat

/-- An operand of an Appol instruction. -/
inductive AOpnd
  | unused
  | reg (k : VKey)
  | const (entry : Nat)
  deriving DecidableEq, Repr

def AOpnd.read (v : Nat) : Option AOpnd :=
  if v = 0xFFFF then some .unused
  else if v / 2 ^ 14 < 3 then some (.reg (v / 2 ^ 14, v % 2 ^ 14))
  else if v % 2 ^ 14 < 128 then some (.const (v % 2 ^ 14))
  else none

/-- The two words of an instruction, taken apart. -/
structure AWord where
  w0 : Nat
  w1 : Nat
  deriving DecidableEq, Repr

def AWord.op (w : AWord) : Nat := bitsOf w.w0 63 54
def AWord.ty (w : AWord) : Nat := bitsOf w.w0 53 49
def AWord.rm (w : AWord) : Nat := bitsOf w.w0 48 47
def AWord.z (w : AWord) : Nat := bitsOf w.w0 46 46
def AWord.mk_ (w : AWord) : Nat := bitsOf w.w0 45 30
def AWord.field (w : AWord) : Nat := bitsOf w.w0 29 0
def AWord.imm (w : AWord) : Nat := bitsOf w.w1 31 0
/-- The operand halfwords D, A, B, C as 0 to 3. -/
def AWord.half (w : AWord) (i : Nat) : Nat := bitsOf w.w1 (63 - 16 * i) (48 - 16 * i)

/-- The word formats of R83. -/
inductive AFmt
  | s | si | b | v | vi | m | ma | c | y
  deriving DecidableEq, Repr

/-- Appol's own operations (R449). -/
def opAMASKN : Nat := 0x3E0
def opAHSUM : Nat := 0x3E1
def opAWIDTH : Nat := 0x3E2

/-- The operations of classes 0 to 5 and 7 that Appol does not accept (R449). -/
def appolBanned (op : Nat) : Bool :=
  [0x01A, 0x025, 0x026, 0x027, 0x028, 0x029, 0x02A, 0x030, 0x031, 0x033, 0x034, 0x19B, 0x20F, 0x210, 0x211].contains op
    || (0x111 ≤ op && op ≤ 0x118)

/-- The format of an operation that Appol accepts (R103). -/
def aFmt (op : Nat) : Option AFmt :=
  if op = opAMASKN || op = opAHSUM || op = opAWIDTH then some .v
  else if !opListed op || appolBanned op || op / 128 = 6 then none
  else
    match op / 128 with
    | 0 =>
      if op = 0x003 || op = 0x02F || op = 0x032 then some .si
      else if 0x023 ≤ op && op ≤ 0x02E then some .b
      else some .s
    | 4 => if 0x207 ≤ op && op ≤ 0x20A then some .ma else some .m
    | 5 => some .c
    | 7 => some .y
    | _ => if op = 0x082 || op = 0x09F then some .vi else some .v

/-- Word 1's low half is IMM32 or a displacement. -/
def aImm (op : Nat) : Bool :=
  aFmt op = some .si || aFmt op = some .vi || op = 0x023 || op = 0x024

/-- The fields of a Carhal word for which an Appol instruction has no place: SUB of SADDC, SSUBB and SSET, CC of BRC, the
fields of MA below B, and the streams of formats C and Y (log 29). -/
def openFields (op : Nat) : Nat :=
  if op = 0x005 || op = 0x007 || op = 0x013 then 0x7E0
  else if op = 0x024 then 0x7 * 2 ^ 32
  else if op = 0x207 || op = 0x209 then 0xFFFFF
  else if op = 0x208 || op = 0x20A then 0xFFFF
  else if 0x281 ≤ op && op ≤ 0x283 then 0x1FFFFFE0
  else if (0x381 ≤ op && op ≤ 0x38C) || op = 0x390 then 0x7FF
  else 0

/-- What the translator puts into those fields: free. -/
def openBits (w : AWord) : Nat :=
  if openFields w.op = 0 then 0 else (Config.appolFields w.w0 w.w1).toNat &&& openFields w.op

/-- The operand that names eight consecutive scalars (R449): D, A (DESC) or B. -/
def blockSlot (op : Nat) : Option Nat :=
  if 0x281 ≤ op && op ≤ 0x283 then some 1
  else if op = 0x386 || op = 0x387 || op = 0x38C then some 2
  else if op = 0x38E then some 0
  else none

/-- Operations whose D, if they have one, is a source alone. -/
def dIsSource (op : Nat) : Bool :=
  [0x204, 0x205, 0x206, 0x20B, 0x285, 0x286, 0x38F].contains op || aFmt op = some .b || op = 0x02F

/-- Operations whose D is a source too: VSHFI, ACAS, ACASS, CPWP, CPQRY. -/
def dIsBoth (op : Nat) : Bool := [0x09F, 0x208, 0x20A, 0x284, 0x287].contains op

/-- Operations that keep parts of their destination (R450). -/
def keepsParts (w : AWord) : Bool :=
  [0x0A4, 0x098, 0x195, 0x196, 0x199].contains w.op || (w.op = 0x0A1 && w.z = 0)
    || (w.mk_ ≠ 0xFFFF && w.z = 0 && w.op ≠ opAHSUM)

/-- The registers that a definition by an instruction takes: by its type, but for results of another width. -/
def defWidth (w : AWord) : Nat :=
  let op := w.op
  let byW := match bitsOf w.field 25 23 with | 3 => 2 | 4 => 4 | _ => 1
  match aFmt op with
  | some .m => if op = 0x201 || op = 0x202 then byW else if op = 0x203 then 4 else 1
  | some .ma => if openBits w / 2 ^ 15 % 2 = 1 then 2 else 1
  | some .y => if op = 0x38D then 2 else 1
  | some .s =>
    if [0x013, 0x015, 0x016, 0x017, 0x021, 0x022].contains op then 1
    else if (op = 0x005 || op = 0x007) && openBits w / 32 % 64 = 1 then 1
    else tyRegs w.ty
  | some .si => if op = 0x003 then tyRegs w.ty else 1
  | some .v => if op = opAMASKN || op = opAWIDTH then 1 else tyRegs w.ty
  | _ => 1

/-- An instruction ready for allocation. -/
structure AIns where
  word : AWord
  fmt : AFmt
  opnds : List AOpnd
  mask : Option VKey
  dest : Option VKey
  /-- Registers read, the eight of a block apart. -/
  reads : List VKey
  block : List VKey
  /-- The block is a destination (CONTQ). -/
  fresh : Bool
  /-- The position that a branch goes to; positions begin at 1. -/
  target : Option Nat
  deriving DecidableEq, Repr

def AOpnd.key? : AOpnd → Option VKey
  | .reg k => some k
  | _ => none

/-- MK's mask register: none within for every lane; none without where MK is no mask operand. -/
def maskOperand (v : Nat) : Option (Option VKey) :=
  if v = 0xFFFF then some none
  else if v / 2 ^ 14 = 2 then some (some (2, v % 2 ^ 14))
  else none

/-- The fields that a format leaves unused are zero, and MK is for formats with KM. -/
def AWord.fieldsOk (w : AWord) (f : AFmt) : Bool :=
  let v := f = .v || f = .vi
  (v || (w.rm = 0 && w.z = 0)) && (v || f = .m || w.mk_ = 0xFFFF)
    && (f ≠ .vi || w.rm = 0)
    && (match f with
        | .v => w.field < 2 ^ 9 && (w.field = 0 || w.half 3 = 0xFFFF)
        | .m => w.field < 2 ^ 26
        | _ => w.field = 0)

/-- An instruction at position `i` of `n` (position `n` is the EXIT at the end); none where it is malformed. -/
def AIns.read (i n : Nat) (w : AWord) : Option AIns :=
  (aFmt w.op).bind fun fmt =>
    let count := if aImm w.op then 2 else 4
    ((List.range count).mapM fun p => AOpnd.read (w.half p)).bind fun os =>
      (maskOperand w.mk_).bind fun mask =>
        let at_ (p : Nat) : AOpnd := (os[p]?).getD .unused
        let isDest := (at_ 0).key?.isSome && !dIsSource w.op
        let blockAt := blockSlot w.op
        let base := (blockAt.map at_).bind AOpnd.key?
        let block := match base with
          | some (1, k) => (List.range 8).map fun j => ((1, k + j) : VKey)
          | _ => []
        let sources := (List.range count).filterMap fun p =>
          if (p = 0 && isDest && !dIsBoth w.op) || blockAt = some p then none else (at_ p).key?
        let t : Int := (i : Int) + sext w.imm 32
        let branch := w.op = 0x023 || w.op = 0x024
        if !w.fieldsOk fmt || (blockAt.isSome && block.isEmpty) || (branch && (t < 0 || (n : Int) < t)) then none
        else some {
          word := w
          fmt := fmt
          opnds := os
          mask := mask
          dest := if isDest && blockAt ≠ some 0 then (at_ 0).key? else none
          reads := (sources ++ mask.toList).eraseDups
          block := block
          fresh := blockAt = some 0
          target := if branch then some (t.toNat + 1) else none }

/-- EXIT, which the end of a section stands for. -/
def aExit : AWord := ⟨0x02B * 2 ^ 54 + 0xFFFF * 2 ^ 30, 2 ^ 64 - 1⟩

/-- The instructions of a section's bytes, and the EXIT at their end. -/
def aWords (code : List Byte) : List AWord :=
  ((List.range (code.length / 16)).map fun i => ⟨leNat ((code.drop (16 * i)).take 8), leNat ((code.drop (16 * i + 8)).take 8)⟩)
    ++ [aExit]

/-! Registers and their live ranges (R450) -/

/-- A virtual register: where it is defined first, used last and used at all (positions in code order), the physical
register it is in, and its spill slot. -/
structure AReg where
  key : VKey
  width : Nat
  first : Nat
  last : Nat
  uses : List Nat
  loc : Option Nat
  slot : Option Nat
  deriving DecidableEq, Repr

/-- Position `i` mentions a register, which it defines with `width` if it is new. -/
def mention (width i : Nat) (rs : List AReg) (k : VKey) : List AReg :=
  if rs.any (·.key = k) then
    rs.map fun r => if r.key = k then { r with last := i, uses := r.uses ++ [i] } else r
  else rs ++ [⟨k, if k.1 = 2 then 1 else width, i, i, [i], none, none⟩]

/-- What position `i` reads and defines; none where it reads a register that nothing has defined, or names a 64-bit
register in a block of eight. Positions begin at 1, so that %s0 is defined before them. -/
def scanIns (rs : List AReg) (p : Nat × AIns) : Option (List AReg) :=
  let i := p.1
  let n := p.2
  let must := n.reads ++ (if n.fresh then [] else n.block)
  if must.any fun k => !rs.any (·.key = k) then none
  else
    let rs := (must ++ (if n.fresh then n.block else []) ++ n.dest.toList).eraseDups.foldl (mention (defWidth n.word) i) rs
    if n.block.any fun k => rs.any fun r => r.key = k && r.width ≠ 1 then none else some rs

/-- %s0 holds ARGS (R449). -/
def argsReg : AReg := ⟨(1, 0), 2, 0, 0, [], some 0, none⟩

/-- Ranges reach to the end of a backward branch whose target lies inside them, as often as that adds something. -/
def extendRanges (branches : List (Nat × Nat)) : Nat → List AReg → List AReg
  | 0, rs => rs
  | n + 1, rs => extendRanges branches n (branches.foldl (fun rs b =>
      rs.map fun r =>
        if b.2 ≤ b.1 && r.first ≤ b.2 && b.2 ≤ r.last && r.last < b.1 then { r with last := b.1 } else r) rs)

/-! Native instructions -/

/-- A native instruction without its stall count: what R99 needs to know of it, and the label it branches to. Cells: a
scalar by its number, a vector register by 1000 plus its number. -/
structure NIns where
  word : Nat
  lat : Nat
  reads : List Nat
  writes : List Nat
  target : Option Nat
  /-- The position of a branch in code order; 0 for any other instruction. -/
  pos : Nat
  deriving DecidableEq, Repr

inductive AItem
  | label (n : Nat)
  | ins (n : NIns)
  /-- Where the moves of a branch's edge go. -/
  | hole (position : Nat)
  deriving DecidableEq, Repr

def NIns.op (n : NIns) : Nat := n.word / 2 ^ 54

def maskCells (k : Nat) : List Nat := [104 + 3 * k, 105 + 3 * k, 106 + 3 * k]
def fileCells (file loc width : Nat) : List Nat :=
  if file = 2 then maskCells loc else (List.range width).map fun j => (if file = 0 then 1000 else 0) + loc + j

def nSmovi (d imm : Nat) : NIns := ⟨0x003 * 2 ^ 54 + d * 2 ^ 38 + imm, 2, [], [d], none, 0⟩
/-- A mask instruction D := A op B. -/
def nMask (op d a b : Nat) : NIns :=
  ⟨op * 2 ^ 54 + (0x80 + d) * 2 ^ 38 + (0x80 + a) * 2 ^ 29 + b * 2 ^ 20, 2,
    maskCells a ++ (if b = 0 then [] else maskCells (b - 0x80)), maskCells d, none, 0⟩
/-- A class-2 instruction under EXEC with the operands D and A. -/
def nFloat (op d a ty lat : Nat) (reads writes : List Nat) : NIns :=
  ⟨op * 2 ^ 54 + 7 * 2 ^ 44 + d * 2 ^ 32 + a * 2 ^ 23 + ty, lat, reads ++ maskCells 7, writes, none, 0⟩

/-- The fixed latency of an operation (R207, R268, R301); 0 where the scoreboard protects it. -/
def aLat (w : AWord) : Nat :=
  let op := w.op
  let wide := tyWide w.ty
  if op = 0x008 || op = 0x009 then (if wide then 6 else 4)
  else if op = 0x032 then 4
  else if [0x015, 0x016, 0x017, 0x018, 0x019, 0x021, 0x022].contains op then 3
  else if op < 0x023 then (if wide then 3 else 2)
  else if op / 128 = 1 then
    if 0x085 ≤ op && op ≤ 0x087 then (if wide then 10 else 6)
    else if [0x09F, 0x0A0, 0x0A3, 0x0A4].contains op then 6
    else if op = 0x09E || op = 0x0A1 then 8
    else if op = 0x0A5 then 10
    else if wide then 6 else 4
  else if op / 128 = 2 then
    if (0x107 ≤ op && op ≤ 0x109) || op = 0x10A || op = 0x10B then (if wide then 6 else 4)
    else if op = 0x10D || op = 0x10E || op = 0x10F then latCvt w.ty w.field
    else if wide then 10 else 6
  else if op / 128 = 3 then
    if op ≤ 0x194 then
      let fn := if op = 0x18B || op = 0x18C then Fn.div else if op = 0x189 || op = 0x18A then Fn.sqt else Fn.ex2
      fnLatency fn (op % 2 = 1)
    else if op = 0x195 || op = 0x196 || op = 0x199 then 10 else 8
  else 0

/-- Vector columns write a scalar and a mask under kind 01, the others a scalar under kind 00 (R92). -/
def vectorColumn (n : AIns) (p : Nat) : Bool :=
  match n.fmt with
  | .v | .vi => true
  | .m => !([0x202, 0x205, 0x20C, 0x20D, 0x20E].contains n.word.op)
  | .ma => n.word.op = 0x207 || n.word.op = 0x208
  | .y => n.word.op = 0x382 && p = 2
  | _ => false

/-- The operand field for a register of a file at a physical number. -/
def operandField (vcol : Bool) (file loc : Nat) : Nat :=
  if file = 2 || (vcol && file = 1) then 0x80 + loc else loc

/-! The allocator (R450) -/

/-- A translation under way: the virtual registers, N′ − 2, V, the slots in use in the two spill areas, the code. -/
structure ATr where
  regs : List AReg
  nb : Nat
  nv : Nat
  slotS : Nat
  slotV : Nat
  out : List AItem
  deriving DecidableEq, Repr

def ATr.reg? (t : ATr) (k : VKey) : Option AReg := t.regs.find? (·.key = k)
def ATr.mod (t : ATr) (k : VKey) (g : AReg → AReg) : ATr :=
  { t with regs := t.regs.map fun r => if r.key = k then g r else r }
def ATr.emit (t : ATr) (ns : List NIns) : ATr := { t with out := t.out ++ ns.map .ins }

/-- How many registers of a file hold values: masks take k0 to k5. -/
def ATr.limit (t : ATr) (file : Nat) : Nat := if file = 0 then t.nv else if file = 1 then t.nb else 6

/-- The virtual register in a physical one. -/
def ATr.holder (t : ATr) (file r : Nat) : Option AReg :=
  t.regs.find? fun e => e.key.1 = file && match e.loc with
    | some l => l ≤ r && r < l + e.width
    | none => false

/-- The lowest free register, even pair or quad. -/
def ATr.fit (t : ATr) (file width : Nat) : Option Nat :=
  ((List.range (t.limit file / width)).map (· * width)).find? fun b =>
    (List.range width).all fun j => (t.holder file (b + j)).isNone

/-- A load or store between registers and the spill area, on q0 with PM 0: within reach of OFF from the spill base, or
with the base's low word moved for it and back. -/
def ATr.access (t : ATr) (store vector : Bool) (w reg width off : Nat) : ATr :=
  let unit := 2 ^ w
  let op := if vector then (if store then 0x204 else 0x201) else if store then 0x205 else 0x202
  let cells := fileCells (if vector then 0 else 1) reg width
  let base := [t.nb, t.nb + 1] ++ maskCells 7
  let word (o : Nat) : Nat := op * 2 ^ 54 + 7 * 2 ^ 44 + reg * 2 ^ 35 + (operandField vector 1 t.nb) * 2 ^ 26
    + w * 2 ^ 23 + o * 2 ^ 18 + 0x40
  let n (o : Nat) : NIns :=
    ⟨word o, 0, base ++ (if store then cells else []), [], none, 0⟩
  if off % unit = 0 && off / unit ≤ 15 then t.emit [n (off / unit)]
  else t.emit [nSmovi t.nb (0x80000000 + off), n 0, nSmovi t.nb 0x80000000]

/-- A register's value to or from its slot: a scalar in one access, a mask as three words, a vector as one access for
each of its registers. -/
def ATr.swap (t : ATr) (store : Bool) (e : AReg) : ATr :=
  match e.loc, e.slot with
  | some l, some s =>
    if e.key.1 = 0 then
      (List.range e.width).foldl (fun t j => t.access store true 2 (l + j) 1 (0x40000000 + 512 * (s + j))) t
    else if e.key.1 = 2 then
      (List.range 3).foldl (fun t j => t.access store false 2 (104 + 3 * l + j) 1 (8 * s + 4 * j)) t
    else t.access store false (if e.width = 1 then 2 else if e.width = 2 then 3 else 4) l e.width (8 * s)
  | _, _ => t

/-- A virtual register gets its slot, which it keeps. -/
def ATr.giveSlot (t : ATr) (k : VKey) : ATr :=
  match t.reg? k with
  | none => t
  | some e =>
    if e.slot.isSome then t
    else if k.1 = 0 then { (t.mod k fun r => { r with slot := some t.slotV }) with slotV := t.slotV + e.width }
    else { (t.mod k fun r => { r with slot := some t.slotS }) with
      slotS := t.slotS + (if k.1 = 2 || e.width = 4 then 2 else 1) }

/-- Stores a register's value to its slot from where it is. -/
def ATr.save (t : ATr) (k : VKey) : ATr :=
  let t := t.giveSlot k
  match t.reg? k with
  | some e => t.swap true e
  | none => t

def ATr.leave (t : ATr) (k : VKey) : ATr := t.mod k fun r => { r with loc := none }
def ATr.spill (t : ATr) (k : VKey) : ATr := (t.save k).leave k

/-- Loads a register's value from its slot to where it is to be. -/
def ATr.reload (t : ATr) (k : VKey) : ATr :=
  match t.reg? k with
  | some e => t.swap false e
  | none => t

/-- The next use of a register after position `i`: beyond every position if there is none. -/
def AReg.nextUse (e : AReg) (i : Nat) : Nat := (e.uses.find? (i < ·)).getD (2 ^ 60)

/-- The better victim of two: the farther next use, then the lower number. -/
def worse (i : Nat) (a b : AReg) : AReg :=
  if a.nextUse i > b.nextUse i || (a.nextUse i = b.nextUse i && a.key.2 < b.key.2) then a else b

/-- A place for `width` registers, after as many spills as it takes; registers in `keep` are no victims. -/
def ATr.room (i : Nat) (keep : List VKey) (file width : Nat) : Nat → ATr → Option (ATr × Nat)
  | 0, _ => none
  | n + 1, t =>
    match t.fit file width with
    | some b => some (t, b)
    | none =>
      match t.regs.filter fun e => e.key.1 = file && e.loc.isSome && !keep.contains e.key with
      | [] => none
      | e :: r => ATr.room i keep file width n (t.spill (r.foldl (worse i) e).key)

/-- Gives a register a place. -/
def ATr.place (t : ATr) (i : Nat) (keep : List VKey) (k : VKey) : Option ATr :=
  match t.reg? k with
  | none => none
  | some e =>
    if e.loc.isSome then some t
    else (ATr.room i keep k.1 e.width (t.regs.length + 1) t).map fun p => p.1.mod k fun r => { r with loc := some p.2 }

/-- Brings a source into a register. -/
def ATr.bring (t : ATr) (i : Nat) (keep : List VKey) (k : VKey) : Option ATr :=
  match t.reg? k with
  | none => none
  | some e => if e.loc.isSome then some t else (t.place i keep k).map fun t => t.reload k

/-- The eight of a block into the lowest aligned eight registers that hold no other value the operation reads: other
occupants are spilled, and those of the eight that are elsewhere move through their slots (log 29). -/
def ATr.placeBlock (t : ATr) (n : AIns) : Option ATr :=
  if n.block = [] then some t
  else
    let held (b : Nat) : Bool := (List.range 8).any fun j =>
      match t.holder 1 (b + j) with
      | some e => n.reads.contains e.key && !n.block.contains e.key
      | none => false
    match ((List.range (t.nb / 8)).map (8 * ·)).find? fun b => !held b with
    | none => none
    | some b =>
      let t := (List.range 8).foldl (fun t j =>
        match t.holder 1 (b + j) with
        | some e => if n.block.contains e.key then t else t.spill e.key
        | none => t) t
      let at_ (t : ATr) (p : VKey × Nat) : Bool := (t.reg? p.1).bind (·.loc) = some (b + p.2)
      let t := (n.block.zipIdx).foldl (fun t p =>
        if at_ t p || ((t.reg? p.1).bind (·.loc)).isNone then t
        else if n.fresh then t.leave p.1 else t.spill p.1) t
      some ((n.block.zipIdx).foldl (fun t p =>
        if at_ t p then t
        else
          let t := t.mod p.1 fun r => { r with loc := some (b + p.2) }
          if n.fresh then t else t.reload p.1) t)

/-- Registers whose last use is position `i`, or was before it, become free. -/
def ATr.release (t : ATr) (i : Nat) : ATr :=
  { t with regs := t.regs.map fun r => if r.last ≤ i then { r with loc := none } else r }

/-! The words of one instruction -/

def ATr.locOf (t : ATr) (k : VKey) : Nat := ((t.reg? k).bind (·.loc)).getD 0
def ATr.cellsOf (t : ATr) (k : VKey) : List Nat :=
  match t.reg? k with
  | some e => fileCells k.1 (e.loc.getD 0) e.width
  | none => []

/-- The operand field of position p. -/
def ATr.operand (t : ATr) (n : AIns) (p : Nat) : Nat :=
  match n.opnds[p]? with
  | some (.reg k) => operandField (vectorColumn n p) k.1 (t.locOf k)
  | some (.const c) => 0x180 + c
  | _ => 0

/-- The Carhal word of an instruction, its branch displacement and stall count 0 (R83). -/
def ATr.carhal (t : ATr) (n : AIns) : Nat :=
  let w := n.word
  let o := t.operand n
  let km := (match n.mask with | some k => t.locOf k | none => 7) * 2 ^ 44
  let fields := match n.fmt with
    | .s => o 0 * 2 ^ 38 + o 1 * 2 ^ 29 + o 2 * 2 ^ 20 + o 3 * 2 ^ 11 + w.ty
    | .si => o 0 * 2 ^ 38 + (if w.op = 0x003 && tyWide w.ty then 2 ^ 32 else 0) + w.imm
    | .b => 7 * 2 ^ 44 + o 1 * 2 ^ 35
    | .v => km + w.z * 2 ^ 43 + w.rm * 2 ^ 41 + o 0 * 2 ^ 32 + o 1 * 2 ^ 23 + o 2 * 2 ^ 14 + (o 3 + w.field) * 2 ^ 5 + w.ty
    | .vi => km + w.z * 2 ^ 43 + o 0 * 2 ^ 32 + w.imm
    | .m => km + o 0 * 2 ^ 35 + o 1 * 2 ^ 26 + w.field
    | .ma => o 0 * 2 ^ 38 + o 1 * 2 ^ 29 + o 2 * 2 ^ 20
    | .c => o 1 * 2 ^ 38 + o 0 * 2 ^ 29 + w.ty
    | .y => o 0 * 2 ^ 38 + o 1 * 2 ^ 29 + o 2 * 2 ^ 20 + o 3 * 2 ^ 11
  w.op * 2 ^ 54 + fields + openBits w

/-- The operation reads EXEC: all that act on lanes, under any mask (R85, R207), of format B a branch on a mask (R208), of
class 7 the Bridle's (R386), SAMPLE, SARGMX and NEMIT (R437); the tickets, CLLRED, CLLQRY, CONTQ and TWAIT act whatever EXEC
holds (R410, R417, R422 to R424). -/
def AIns.readsExec (n : AIns) : Bool :=
  match n.fmt with
  | .s | .si | .c => false
  | .b => n.reads.any (·.1 = 2)
  | .y => (0x381 ≤ n.word.op && n.word.op ≤ 0x387) || n.word.op = 0x390
  | .v | .vi | .m | .ma => true

/-- The operation reads the vector or mask destination whose parts it keeps; a scalar one has no parts (R450). -/
def AIns.readsDest (n : AIns) : Bool := keepsParts n.word && n.dest.any (·.1 ≠ 1)

/-- The native code of an instruction whose operands are in place. -/
def ATr.native (t : ATr) (i : Nat) (keep : List VKey) (n : AIns) : Option ATr :=
  let w := n.word
  let d := (n.dest.map t.locOf).getD 0
  let o := t.operand n
  let dCells := (n.dest.map t.cellsOf).getD []
  if w.op = opAMASKN then
    (ATr.room i keep 0 1 (t.regs.length + 1) t).map fun p =>
      p.1.emit [⟨0x0A2 * 2 ^ 54 + 7 * 2 ^ 44 + p.2 * 2 ^ 32 + tN32, 4, maskCells 7, [1000 + p.2], none, 0⟩,
        ⟨0x099 * 2 ^ 54 + 7 * 2 ^ 44 + (0x80 + d) * 2 ^ 32 + p.2 * 2 ^ 23 + o 1 * 2 ^ 14 + 2 * 2 ^ 5 + tN32, 4,
          [1000 + p.2] ++ n.reads.flatMap t.cellsOf ++ maskCells 7, dCells, none, 0⟩]
  else if w.op = opAHSUM then
    let k := (n.mask.map t.locOf).getD 7
    some (t.emit [nMask 0x01B 6 7 0, nMask 0x01C 7 7 (0x80 + k), nFloat 0x111 0 0 0 0 [] [],
      nFloat 0x112 0 (o 1) w.ty 0 (((n.opnds[1]?).bind AOpnd.key?).map t.cellsOf |>.getD []) [],
      nFloat 0x114 (o 0 + w.rm * 2 ^ 9) 0 w.ty 12 [] dCells, nMask 0x01B 7 6 0])
  else if w.op = opAWIDTH then some (t.emit [nSmovi d 96])
  else
    let exec := if n.readsExec then maskCells 7 else []
    let counter := if w.op = 0x19C || w.op = 0x19D then (((n.opnds[1]?).bind AOpnd.key?).map t.cellsOf).getD [] else []
    let lat := aLat w
    some (t.emit [⟨t.carhal n, lat, n.reads.flatMap t.cellsOf ++ n.block.flatMap t.cellsOf ++ exec
        ++ (if n.readsDest then dCells else []),
      if lat = 0 then [] else dCells ++ counter, n.target, if n.target.isSome then i else 0⟩])

/-- One position in code order: the block, the reloads, the destination, the words. What the instruction frees is free only
after it. What it reads, and the block it names, is no victim; a destination that it only redefines may be one until it is
placed. -/
def ATr.position (t : ATr) (i : Nat) (n : AIns) : Option ATr :=
  let kept : Bool := match n.dest with
    | some k => n.readsDest && (t.reg? k).any fun e => e.first < i
    | none => false
  let reads := (n.reads ++ (if n.fresh then [] else n.block) ++ (if kept then n.dest.toList else [])).eraseDups
  let keep := reads ++ n.block
  (t.placeBlock n).bind fun t =>
    (reads.foldlM (fun (t : ATr) k => t.bring i keep k) t).bind fun t =>
      let placed : Option ATr := match n.dest with
        | some k => t.place i keep k
        | none => some t
      placed.bind fun t =>
        let t : ATr := if n.word.op = 0x023 then { t with out := t.out ++ [.hole i] } else t
        t.native i keep n

/-- Where each live register is when position `i` is reached in code order. -/
def ATr.snapshot (t : ATr) (i : Nat) : List AReg := t.regs.filter fun r => r.first < i && i ≤ r.last

/-- What the whole of a kernel's code order leaves: the translation, the places at each branch target, and the places at
each branch. -/
structure APass where
  tr : ATr
  atTarget : List (Nat × List AReg)
  atBranch : List (Nat × AIns × List AReg)
  deriving DecidableEq, Repr

def APass.step (targets : List Nat) (p : APass) (x : Nat × AIns) : Option APass :=
  let p := if targets.contains x.1 then
      { p with
        tr := { p.tr with out := p.tr.out ++ [.label x.1] }
        atTarget := p.atTarget ++ [(x.1, p.tr.snapshot x.1)] }
    else p
  (p.tr.position x.1 x.2).map fun t =>
    { p with
      tr := t.release x.1
      atBranch := if x.2.target.isSome then p.atBranch ++ [(x.1, x.2, t.regs)] else p.atBranch }

/-- The moves of an edge: what is in another place at the target goes through its slot. -/
def ATr.edge (t : ATr) (want have_ : List AReg) : ATr :=
  let loc (rs : List AReg) (k : VKey) : Option Nat := (rs.find? (·.key = k)).bind (·.loc)
  let moved := (want.filter fun r => loc have_ r.key ≠ r.loc).map (·.key)
  let t := moved.foldl (fun t k =>
    match loc have_ k with
    | some l => (t.mod k fun r => { r with loc := some l }).save k
    | none => t) t
  moved.foldl (fun t k =>
    match loc want k with
    | some l => (t.mod k fun r => { r with loc := some l }).reload k
    | none => t) t

/-- The edges in order: the code of a BRA's goes before it, that of a BRC's into clauses at the end, under a label of their
own. `fresh` is the first label not in use. -/
def ATr.edges (t : ATr) (targets : List (Nat × List AReg)) (fresh : Nat) :
    List (Nat × AIns × List AReg) → ATr
  | [] => t
  | b :: r =>
    let target := b.2.1.target.getD 0
    let want := (((targets.find? (·.1 = target)).map (·.2)).getD []).filter fun e => e.first < b.1
    let e : ATr := ATr.edge { t with out := [] } want b.2.2
    let back : ATr := { t with slotS := e.slotS, slotV := e.slotV, regs := (t.regs.map fun x =>
      { x with slot := ((e.reg? x.key).bind (·.slot)) }) }
    let t := if b.2.1.word.op = 0x023 then
        { back with out := back.out.flatMap fun x => if x = .hole b.1 then e.out else [x] }
      else if e.out = [] then back
      else
        let redirected := back.out.map fun x =>
          match x with
          | .ins n => if n.op = 0x024 && n.pos = b.1 then .ins { n with target := some fresh } else x
          | _ => x
        { back with out := redirected ++ [.label fresh] ++ e.out ++ [.ins ⟨0x023 * 2 ^ 54 + 7 * 2 ^ 44, 0, [], [], some target, 0⟩] }
    t.edges targets (fresh + 1) r

/-! Clauses and stall counts (R115, R116) -/

/-- A clause under way: its labels and its instructions with their stall counts. -/
structure AClause where
  labels : List Nat
  body : List (NIns × Nat)
  deriving DecidableEq, Repr

/-- Adds `n` clk before position j, the latest instruction first, none before position i. -/
def addStall (body : List (NIns × Nat)) (i need : Nat) : Nat → List (NIns × Nat)
  | 0 => body
  | j + 1 =>
    if j < i || need = 0 then body
    else
      let have_ := ((body[j]?).map (·.2)).getD 0
      let more := min (15 - have_) need
      addStall (body.modify j fun p => (p.1, p.2 + more)) i (need - more) j

/-- The clause with one more instruction, each earlier result it reads made visible to it; none where no stall counts do
that. -/
def AClause.push (c : AClause) (n : NIns) : Option AClause :=
  let j := c.body.length
  let rec go (i : Nat) (todo : List (NIns × Nat)) (body : List (NIns × Nat)) : Option (List (NIns × Nat)) :=
    match todo with
    | [] => some (body ++ [(n, 0)])
    | x :: r =>
      let gap := ((body.drop i).map fun p => p.2 + 1).sum
      if gap < x.1.lat && x.1.writes.any n.reads.contains then
        if x.1.lat > 16 * (j - i) then none else go (i + 1) r (addStall body i (x.1.lat - gap) j)
      else go (i + 1) r body
  (go 0 c.body c.body).map fun b => { c with body := b }

/-- A clause's class: that of its first instruction that is not free. -/
def AClause.cls? (c : AClause) : Option Nat := (c.body.find? fun p => !freeOp p.1.op).map fun p => p.1.op / 128

/-- R115's reasons for a new clause that the clause alone and the next instruction settle. -/
def AClause.full (c : AClause) (n : NIns) : Bool :=
  c.body.length = 16 || (c.body.getLast?.any fun p => clauseEnding p.1.op)
    || (!freeOp n.op && c.cls?.any (· ≠ n.op / 128))

/-- The clauses that a sequence forms: `done`, the last one open. -/
def formClause (st : List AClause × AClause) : AItem → List AClause × AClause
  | .hole _ => st
  | .label l => if st.2.body = [] then (st.1, { st.2 with labels := st.2.labels ++ [l] }) else (st.1 ++ [st.2], ⟨[l], []⟩)
  | .ins n =>
    if !st.2.body.isEmpty && st.2.full n then (st.1 ++ [st.2], ⟨[], [(n, 0)]⟩)
    else match st.2.push n with
      | some c => (st.1, c)
      | none => (st.1 ++ [st.2], ⟨[], [(n, 0)]⟩)

def formClauses (xs : List AItem) : List AClause :=
  let p := xs.foldl formClause ([], ⟨[], []⟩)
  p.1 ++ [p.2]

/-- The positions, in words, of the clauses' headers, by label. -/
def labelMap (at_ : Nat) : List AClause → List (Nat × Nat)
  | [] => []
  | c :: r => (c.labels.map fun l => (l, at_)) ++ labelMap (at_ + 1 + c.body.length) r

/-- The words of the clauses: headers with Y and SCK 0, branches with their displacements. -/
def layWords (labels : List (Nat × Nat)) (at_ : Nat) : List AClause → List DWord
  | [] => []
  | c :: r =>
    let header := 0x3F * 2 ^ 58 + (c.body.length - 1) * 2 ^ 54 + (c.cls?.getD 0) * 2 ^ 51
    let words := c.body.zipIdx.map fun p =>
      let n := p.1.1
      let disp := match n.target with
        | some l => wrap (((((labels.find? (·.1 = l)).map (·.2)).getD 0 : Nat) : Int) - (at_ + 1 + p.2 : Nat)) 32
        | none => 0
      BitVec.ofNat 64 (n.word + p.1.2 * 2 ^ 50 + disp)
    BitVec.ofNat 64 header :: words ++ layWords labels (at_ + 1 + c.body.length) r

/-- No position of `n` has more than six live masks (R450). -/
def masksFit (n : Nat) (rs : List AReg) : Bool :=
  (List.range (n + 1)).all fun i => (rs.filter fun r => r.key.1 = 2 && r.first ≤ i && i ≤ r.last).length ≤ 6

/-- The items of a kernel in code order and its edges. Position 0 is the entry. -/
def appolItems (code : List Byte) (n v : Nat) : Option (List AItem) :=
  let ws := aWords code
  let last := ws.length - 1
  (ws.zipIdx.mapM fun p => AIns.read p.2 last p.1).bind fun ns =>
    let ps := ns.zipIdx.map fun p => (p.2 + 1, p.1)
    let branches := ps.filterMap fun p => p.2.target.map fun t => (p.1, t)
    (ps.foldlM scanIns [argsReg]).bind fun rs =>
      let rs := extendRanges branches (branches.length + 1) rs
      if !masksFit ws.length rs then none
      else
        let nb := min n 104 - 2
        let start : ATr := ⟨rs, nb, v, 0, 0, [.ins (nSmovi nb 0x80000000), .ins (nSmovi (nb + 1) 0x7E00)]⟩
        let p : Option APass := ps.foldlM (APass.step (branches.map (·.2))) ⟨start.release 0, [], []⟩
        p.map fun p => (p.tr.edges p.atTarget (ws.length + 1) p.atBranch).out

/-- The clauses of a kernel whose Appol code is `code`, for the allotment `n`, `v` (R450); none: BADAPPOL. -/
def appolc (code : List Byte) (n v : Nat) : Option (List DWord) :=
  (appolItems code n v).map fun xs =>
    let cs := formClauses xs
    layWords (labelMap 0 cs) 0 cs

end Sys2Proof.Machine
end

