-- ==== Sys2Proof/Machine/Loader.lean ====
section
/-!
DEFINITION. Code objects (R443, R444): their parts as the front end reads them, the steps of LOAD (R445), the bind
service (R446), and UNLOAD's effect (R447).
-/
namespace Sys2Proof.Machine

/-! The parts of an object (R443, R444) -/

/-- A section table entry. -/
structure Sect where
  type : Nat
  flags : Nat
  foff : Nat
  fsize : Nat
  voff : Nat
  deriving DecidableEq, Repr

/-- An object's header and section table. -/
structure ObjHead where
  magic : Nat
  version : Nat
  isa : Nat
  isaver : Nat
  needc : Nat
  lbase : Nat
  nsect : Nat
  sects : List Sect
  deriving DecidableEq, Repr

def ObjHead.ofBytes (bs : List Byte) : ObjHead :=
  let n := fieldOf bs 0x18 4
  { magic := fieldOf bs 0 4, version := fieldOf bs 4 2, isa := fieldOf bs 6 1, isaver := fieldOf bs 7 1
    needc := fieldOf bs 8 1, lbase := fieldOf bs 0x10 8, nsect := n
    sects := (List.range (min n 16)).map fun i =>
      let o := 0x40 + 32 * i
      ⟨fieldOf bs o 4, fieldOf bs (o + 4) 4, fieldOf bs (o + 8) 8, fieldOf bs (o + 16) 8, fieldOf bs (o + 24) 8⟩ }

/-- The section of a type, and its bytes. -/
def ObjHead.sect (h : ObjHead) (t : Nat) : Option Sect := h.sects.find? fun s => s.type = t
def Sect.bytes (s : Sect) (bs : List Byte) : List Byte := (bs.drop s.foff).take s.fsize
def ObjHead.body (h : ObjHead) (bs : List Byte) (t : Nat) : List Byte := ((h.sect t).map fun s => s.bytes bs).getD []

/-- Mapped sections, and the pages each takes. -/
def Sect.mapped (s : Sect) : Bool := 1 ≤ s.type && s.type ≤ 5 && s.fsize ≠ 0
def Sect.size (s : Sect) : Nat := roundUp s.fsize 4096

/-- A NUL-terminated name that lies below `hi`. -/
def nameAt (bs : List Byte) (off hi : Nat) : Option (List Byte) :=
  let l := (bs.take hi).drop off
  if off < hi && l.contains 0 then some (l.takeWhile (· ≠ 0)) else none

/-- The code section of the object: Carhal or Appol. -/
def ObjHead.codeType (h : ObjHead) : Nat := if h.isa = 2 then 10 else 1

/-- A symbol record: name offset and code offset. -/
def symbolRec (bs : List Byte) (start i : Nat) : Nat × Nat := (fieldOf bs (start + 8 * i) 4, fieldOf bs (start + 8 * i + 4) 4)

/-- `n` symbol records stand before the linkage name list at `fin`: their names end before them (log 25). -/
def symbolsFit (bs : List Byte) (fin code n : Nat) : Bool :=
  8 * n ≤ fin &&
    (fin = 8 * n || (bs[fin - 8 * n - 1]?) = some 0) &&
    (List.range n).all fun i =>
      let r := symbolRec bs (fin - 8 * n) i
      (nameAt bs r.1 (fin - 8 * n)).isSome && r.2 < code && r.2 % 8 = 0

/-- Section 8: the names and code offsets of its symbols, and the linkage names; none when it is malformed. The symbol
records are as many as can stand there (log 25). -/
def ObjHead.symbols (h : ObjHead) (bs : List Byte) : Option (List (List Byte × Nat) × List (List Byte) × Nat) :=
  let b := h.body bs 8
  let links := (((h.sect 5).map Sect.fsize).getD 0) / 8
  let code := ((h.sect h.codeType).map Sect.fsize).getD 0
  if 4 * links > b.length then none
  else
    let fin := b.length - 4 * links
    match (List.range (fin / 8 + 1)).reverse.find? (symbolsFit b fin code) with
    | none => none
    | some n =>
      let start := fin - 8 * n
      let syms := (List.range n).filterMap fun i =>
        let r := symbolRec b start i
        (nameAt b r.1 start).map fun m => (m, r.2)
      let names := (List.range links).map fun i => nameAt b (fieldOf b (fin + 4 * i) 4) start
      if names.all Option.isSome then some (syms, names.filterMap id, start) else none

/-- The kernels of an object before it is placed: `code` and `mseq` are the offsets of R444. -/
def ObjHead.kernels (h : ObjHead) (bs : List Byte) (names : Nat) : List (Option Kernel) :=
  let b := h.body bs 7
  (List.range (b.length / 32)).map fun i =>
    let f (o n : Nat) := fieldOf b (32 * i + o) n
    (nameAt (h.body bs 8) (f 0 4) names).map fun m =>
      { name := m, code := f 4 4, mseq := if f 8 4 = 0xFFFFFFFF then none else some (f 8 4), contract := f 0x0C 1
        sreg := f 0x0D 1, vreg := f 0x0E 1, acc := f 0x0F 1, sheet := f 0x10 4, args := f 0x14 4 }

/-- The section of kernel i's matrix stream: with one such section for each kernel that has a stream, the one in its
order; with a single one, that one (log 25). -/
def mseqSect (h : ObjHead) (ks : List Kernel) (i : Nat) : Option Sect :=
  let all := h.sects.filter fun s => s.type = 2
  if all.length = 1 then all.head?
  else all[((ks.take i).filter fun k => k.mseq.isSome).length]?

/-- An allotment within R31. -/
def allotOk (n : Nat) : Bool := 8 ≤ n && n ≤ 128 && n % 8 = 0
/-- A sheet budget within R31. -/
def sheetOk (n : Nat) : Bool := n ≤ 0x600000 && n % 4096 = 0

/-- A kernel's fields lie in their ranges (R444, R31). -/
def Kernel.wellFormed (k : Kernel) (h : ObjHead) (ks : List Kernel) (i : Nat) : Bool :=
  let regs := if h.isa = 2 then k.sreg = 0 && k.vreg = 0 else allotOk k.sreg && allotOk k.vreg
  let code := ((h.sect h.codeType).map Sect.fsize).getD 0
  let mseq := k.mseq.all fun o => (mseqSect h ks i).any fun s => o < s.fsize && o % 8 = 0
  contractOk k.contract && regs && k.acc ≤ 32 && sheetOk k.sheet && k.code < code && k.code % 8 = 0 && mseq

/-- Two sections' pages do not meet. -/
def Sect.apart (a b : Sect) : Bool := a.voff + a.size ≤ b.voff || b.voff + b.size ≤ a.voff
def pairwiseApart : List Sect → Bool
  | [] => true
  | s :: r => r.all s.apart && pairwiseApart r

/-- The header and the sections obey R443. -/
def ObjHead.wellFormed (h : ObjHead) (size : Nat) (ks : List Kernel) : Bool :=
  let once (t : Nat) : Bool := (h.sects.filter fun s => s.type = t).length ≤ 1
  let streams := (ks.filter fun k => k.mseq.isSome).length
  h.magic = 0x4A424F43 && h.version = 1
    && ((h.isa = 1 && 1 ≤ h.isaver && h.isaver ≤ 3) || (h.isa = 2 && h.isaver = 1))
    && h.needc % 2 = 0 && h.needc < 128 && h.lbase % 65536 = 0
    && 1 ≤ h.nsect && h.nsect ≤ 16 && 0x40 + 32 * h.nsect ≤ size
    && h.sects.all (fun s =>
      1 ≤ s.type && s.type ≤ 10 && s.flags = 0 && s.foff + s.fsize ≤ size && s.voff % 4096 = 0
        && (!s.mapped || h.lbase + s.voff + s.size ≤ 2 ^ 48) && (s.type ≠ 5 || s.fsize % 8 = 0)
        && (s.type ≠ 6 || s.fsize % 16 = 0) && (s.type ≠ 7 || s.fsize % 32 = 0))
    && [1, 3, 4, 5, 6, 7, 8, 9, 10].all once && (h.sects.filter fun s => s.type = 2).length ≤ max 1 streams
    && pairwiseApart (h.sects.filter Sect.mapped)
    && (h.sect 9).any fun s => s.foff + s.fsize = size

/-- Step 1 of LOAD: both signatures verify under the interface's key that the signature block names (R445). -/
def State.signed (s : State) (vif : Nat) (bs : List Byte) : Bool :=
  match (ObjHead.ofBytes bs).sect 9 with
  | none => false
  | some sec =>
    let key : Word := BitVec.ofNat 32 (fieldOf bs sec.foff 4)
    match (s.vifs[vif]?).bind fun v => v.keys.find? fun k => k.1 = key with
    | none => false
    | some (_, body) => sec.foff + 4 ≤ bs.length && Config.signatureOk bs body

/-- The lowest handle that no loaded object has. -/
def State.freeHandle (s : State) : Option Nat :=
  (List.range 65535).map (· + 1) |>.find? fun h => !s.codes.any fun c => c.handle = h

/-- Step 2 of LOAD: the object as the front end keeps it, its remaining steps deferred (R445). -/
def State.parseObject (s : State) (vif asid : Nat) (bs : List Byte) : Option CodeObj :=
  let h := ObjHead.ofBytes bs
  match h.symbols bs with
  | none => none
  | some (syms, links, names) =>
    let ks := h.kernels bs names
    let kernels := ks.filterMap id
    if ks.any Option.isNone || !h.wellFormed bs.length kernels
      || !(kernels.zipIdx.all fun p => p.1.wellFormed h kernels p.2) then none
    else
      let code := h.lbase + ((h.sect h.codeType).map Sect.voff).getD 0
      let place (p : Kernel × Nat) : Kernel :=
        { p.1 with
          code := if h.isa = 2 then p.1.code else code + p.1.code
          mseq := p.1.mseq.map fun o => h.lbase + ((mseqSect h kernels p.2).map Sect.voff).getD 0 + o }
      s.freeHandle.map fun handle =>
        { handle := handle, vif := vif, asid := asid, base := h.lbase, appol := h.isa = 2
          needc := BitVec.ofNat 8 h.needc, bytes := bs, deferred := true
          kernels := kernels.zipIdx.map place
          symbols := syms.map fun p => (p.1, if h.isa = 2 then p.2 else code + p.2)
          links := links, linkBase := h.lbase + ((h.sect 5).map Sect.voff).getD 0
          ranges := [], uses := [], bound := [], translations := [] }

/-! Memory for objects (log 17) -/

/-- The DRAM that firmware takes pages from: the last 4 GiB, however many channels are enabled (R22). -/
def fwBase (s : State) : Nat := s.part.dcap - 4 * 2 ^ 30
def fwEnd (s : State) : Nat := s.part.dcap

/-- The lowest free place for `size` bytes, aligned to `al`. -/
def State.fwPlace (s : State) (size al : Nat) : Option Nat :=
  let fits (a : Nat) : Bool := a + size ≤ fwEnd s && s.fwPages.all fun t => a + size ≤ t.1 || t.1 + t.2 ≤ a
  ((roundUp (fwBase s) al :: s.fwPages.map fun t => roundUp (t.1 + t.2) al).filter fits).foldl
    (fun m a => match m with | none => some a | some b => some (min a b)) none

/-- Takes a place and zeroes it. -/
def State.fwTake (s : State) (size al : Nat) : Option (Nat × State) :=
  (s.fwPlace size al).map fun a => (a, { (s.zeroRange a size) with fwPages := s.fwPages ++ [(a, size)] })

/-! Mapping pages -/

/-- Writes a leaf entry for the 4 KiB page of `va`, with the tables that it needs; none where something is mapped (an entry
with V = 0 and FT = 0 is not present, R245) or memory is short. -/
def State.mapDown (s : State) (va : Nat) (leaf : Nat) : List Level → Nat → Option State
  | [], _ => none
  | [l], table =>
    let ptr := table + 8 * l.index va
    let e := s.numAt ptr 8
    if !bitOf e 0 && !bitOf e 8 then some (s.storeNum ptr 8 leaf) else none
  | l :: n :: r, table =>
    let ptr := table + 8 * l.index va
    match s.entryAt l (some n) ptr with
    | .inr t => s.mapDown va leaf (n :: r) t
    | .inl .absent =>
      (s.fwTake n.tableSize n.tableSize).bind fun p =>
        (p.2.storeNum ptr 8 (p.1 + 1)).mapDown va leaf (n :: r) p.1
    | .inl _ => none

/-- A valid leaf of KIND 0 with the permissions of a section's type (R443). -/
def sectLeaf (type pa : Nat) : Nat :=
  pa + 3 + (match type with | 1 => 16 | 2 => 16 | 3 => 4 | _ => 12)

/-- Maps `n` pages. -/
def State.mapPages (s : State) (asid va pa type : Nat) : Nat → Option State
  | 0 => some s
  | n + 1 =>
    match s.asids.find? fun p => p.1 = asid with
    | none => none
    | some (_, root) =>
      (s.mapDown va (sectLeaf type pa) [.root, .l3, .l2, .l1, .l0] root).bind fun t =>
        t.mapPages asid (va + 4096) (pa + 4096) type n

/-- Nothing is mapped at a page, and it lies in no window. -/
def State.vaFree (s : State) (asid va : Nat) : Bool :=
  (s.window ⟨asid, none, none, 0, 0, none⟩ Need.nothing va).isNone && s.walkTree asid va = .absent

/-! The remaining steps of LOAD (R445) -/

/-- The address of a symbol of a loaded object: a translated kernel's entry for an Appol one. -/
def CodeObj.symbolAddr (c : CodeObj) (name : List Byte) : Option Nat :=
  (c.symbols.find? fun p => p.1 = name).bind fun p =>
    if c.appol then
      (indexWhere (fun k : Kernel => k.code = p.2) c.kernels).bind fun k =>
        (c.translations.find? fun t => t.kernel = k && t.nsreg = 64 && t.nvreg = 64).map Translation.addr
    else some p.2

/-- A symbol of an object already loaded in the address space (R444): the object's handle and the address. -/
def State.extFound (s : State) (asid : Nat) (name : List Byte) : Option (Nat × Nat) :=
  (s.codes.filter fun c => c.asid = asid && !c.deferred).findSome? fun c => (c.symbolAddr name).map fun a => (c.handle, a)
def State.extSymbol (s : State) (asid : Nat) (name : List Byte) : Option Nat := (s.extFound asid name).map Prod.snd

/-- The names of section 8 in their order; RSYM is a place in it (log 25). -/
def splitNames : List Byte → List Byte → List (List Byte)
  | _, [] => []
  | acc, b :: r => if b = 0 then acc :: splitNames [] r else splitNames (acc ++ [b]) r

/-- The value of a relocated word, or none: BADOBJ. -/
def State.relocValue (s : State) (c : CodeObj) (r : List Byte) : Option Nat :=
  let addend := sext (fieldOf r 14 2) 16
  let names := splitNames [] ((ObjHead.ofBytes c.bytes).body c.bytes 8)
  if fieldOf r 9 3 ≠ 0 then none
  else
    match fieldOf r 8 1 with
    | 1 => if fieldOf r 12 2 = 0 then some (wrap (c.base + addend) 64) else none
    | 2 => ((names[fieldOf r 12 2]?).bind (s.extSymbol c.asid)).map fun a => wrap (a + addend) 64
    | _ => none

/-- The objects that the relocations of an object name (R444). -/
def State.relocUses (s : State) (c : CodeObj) : List Nat :=
  let h := ObjHead.ofBytes c.bytes
  let names := splitNames [] (h.body c.bytes 8)
  ((List.range ((h.body c.bytes 6).length / 16)).filterMap fun i =>
    let r := ((h.body c.bytes 6).drop (16 * i)).take 16
    if fieldOf r 8 1 = 2 then ((names[fieldOf r 12 2]?).bind (s.extFound c.asid)).map Prod.fst else none).eraseDups

/-- The physical address of a virtual offset of the object in a writable or constant section. -/
def relocPlace (h : ObjHead) (placed : List (Sect × Nat)) (off : Nat) : Option Nat :=
  if h.sects = [] then none
  else
    (placed.find? fun p => 3 ≤ p.1.type && p.1.type ≤ 5 && p.1.voff ≤ off && off + 8 ≤ p.1.voff + p.1.fsize).map
      fun p => p.2 + (off - p.1.voff)

/-- Applies the relocations. -/
def State.relocate (s : State) (c : CodeObj) (h : ObjHead) (placed : List (Sect × Nat)) : List Nat → Option State
  | [] => some s
  | i :: rest =>
    let r := ((h.body c.bytes 6).drop (16 * i)).take 16
    match relocPlace h placed (fieldOf r 0 8), s.relocValue c r with
    | some pa, some v => (s.storeNum pa 8 v).relocate c h placed rest
    | _, _ => none

/-- Sections copied to pages of their own. -/
def State.placeSects (s : State) (bs : List Byte) : List Sect → Option (State × List (Sect × Nat))
  | [] => some (s, [])
  | x :: r =>
    (s.fwTake x.size 4096).bind fun p =>
      (p.2.storeBytes p.1 (x.bytes bs)).placeSects bs r |>.map fun q =>
        (q.1, (x, p.1) :: q.2)

/-- Maps the placed sections. -/
def State.mapSects (s : State) (asid base : Nat) : List (Sect × Nat) → Option State
  | [] => some s
  | (x, pa) :: r =>
    (s.mapPages asid (base + x.voff) pa x.type (x.size / 4096)).bind fun t => t.mapSects asid base r

/-- The stub's address in every linkage entry. -/
def State.stubLinks (s : State) (placed : List (Sect × Nat)) : State :=
  placed.foldl (fun s p =>
    if p.1.type = 5 then
      (List.range (p.1.fsize / 8)).foldl (fun s i => s.storeNum (p.2 + 8 * i) 8 0x0F000000) s
    else s) s

/-- The first free address of an address space's translated-code window. -/
def State.nextTranslated (s : State) (asid : Nat) : Nat :=
  (s.translatedRanges asid).foldl (fun m r => max m (roundUp (r.1 + r.2) 8)) 0x7F3000000000

/-- A kernel's translation for an allotment, made now unless it is cached (R450). -/
def State.translateKernel (s : State) (k : Nat) (c : CodeObj) (kernel n v : Nat) : Option (State × CodeObj) :=
  if c.translations.any fun t => t.kernel = kernel && t.nsreg = n && t.nvreg = v then some (s, c)
  else
    let code := (ObjHead.ofBytes c.bytes).body c.bytes 10
    let body (e : Kernel) : List Byte :=
      (code.take (c.kernels.foldl (fun m k => if e.code < k.code && k.code < m then k.code else m) code.length)).drop e.code
    match (c.kernels[kernel]?).bind fun e => appolc (body e) n v with
    | none => none
    | some ws =>
      let addr := s.nextTranslated c.asid
      let c' := { c with translations := c.translations ++ [⟨kernel, n, v, addr, 8 * ws.length⟩] }
      let bytes := ws.flatMap fun w => leBytes 8 w.toNat
      some ({ (s.storeBytes (translatedKey c.asid (addr - 0x7F3000000000)) bytes) with codes := s.codes.set k c' }, c')

/-- Every kernel of an Appol object, translated for its default allotment. -/
def State.translateAll (s : State) (k : Nat) (c : CodeObj) : List Nat → Option (State × CodeObj)
  | [] => some (s, c)
  | i :: r => (s.translateKernel k c i 64 64).bind fun p => p.1.translateAll k p.2 r

/-- Steps 3 to 5 for the object at index `k`: status 0, or the failing step's, with nothing changed. -/
def State.install (s : State) (k : Nat) : Nat × State :=
  match s.codes[k]? with
  | none => (7, s)
  | some c =>
    if !c.deferred then (0, s)
    else
      let h := ObjHead.ofBytes c.bytes
      let maps := h.sects.filter Sect.mapped
      let free := maps.all fun x => (List.range (x.size / 4096)).all fun i => s.vaFree c.asid (c.base + x.voff + 4096 * i)
      if !free then (0x0A, s)
      else
        match s.placeSects c.bytes maps with
        | none => (0x0A, s)
        | some (t, placed) =>
          match t.relocate c h placed (List.range ((h.body c.bytes 6).length / 16)) with
          | none => (9, s)
          | some t =>
            let t := t.stubLinks placed
            match if c.appol then t.translateAll k c (List.range c.kernels.length) else some (t, c) with
            | none => (0x0B, s)
            | some (t, c) =>
              match t.mapSects c.asid c.base placed with
              | none => (0x0A, s)
              | some t =>
                let ranges := placed.map fun p => (c.base + p.1.voff, p.1.size, p.2)
                (0, { t with codes := t.codes.set k { c with deferred := false, ranges := ranges, uses := s.relocUses c } })

/-- LOAD (R445): its status, its code handle, and the state. -/
def State.loadObject (s : State) (vif asid addr size : Nat) (lazy : Bool) : Nat × Nat × State :=
  let bs := s.physBytes (span addr size)
  if !s.signed vif bs then (8, 0, s)
  else
    match s.parseObject vif asid bs with
    | none => (9, 0, s)
    | some c =>
      let t : State := { (s.modVif vif fun v => { v with measured := v.measured ++ [Config.digest bs] }) with
        codes := s.codes ++ [c] }
      if lazy then (0, c.handle, t)
      else
        match t.install s.codes.length with
        | (0, u) => (0, c.handle, u)
        | (code, _) => (code, 0, s)

/-! The bind service (R446) -/

/-- The name of a linkage entry, by its address. -/
def State.linkName (s : State) (asid va : Nat) : Option (List Byte) :=
  s.codes.findSome? fun c =>
    if c.asid = asid && !c.deferred && c.linkBase ≤ va && va < c.linkBase + 8 * c.links.length && (va - c.linkBase) % 8 = 0
    then c.links[(va - c.linkBase) / 8]? else none

/-- Resolves an entry: the symbol's address, with the object that defines it, or none: the launch is killed. -/
def State.bindEntry (s : State) (asid va : Nat) : Option (Nat × State) :=
  match s.linkName asid va with
  | none => none
  | some name =>
    match indexWhere (fun c : CodeObj => c.asid = asid && c.symbols.any fun p => p.1 = name) s.codes with
    | none => none
    | some k =>
      match s.install k with
      | (0, t) =>
        ((t.codes[k]?).bind fun c => (c.symbolAddr name).map fun a => (a, c.handle)).map fun p =>
          (p.1, { t with codes := t.codes.map fun c =>
            if c.asid = asid && !c.deferred && c.linkBase ≤ va && va < c.linkBase + 8 * c.links.length then
              { c with bound := (c.bound.filter fun b => b.1 ≠ va) ++ [(va, p.2)] }
            else c })
      | _ => none

/-! UNLOAD (R447) -/

/-- The physical address that an address space maps a page's byte to. -/
def State.physOf (s : State) (asid va : Nat) : Option Nat :=
  match s.walkTree asid va with
  | .leaf e _ size => some (leafPA e + va % size)
  | _ => none

/-- Writes the stub's address back into the linkage entries bound to an address inside the object. -/
def State.unbindLinks (s : State) (c : CodeObj) : State :=
  let inside (a : Nat) : Bool := c.ranges.any (fun r => r.1 ≤ a && a < r.1 + r.2.1) ||
    c.translations.any fun t => t.addr ≤ a && a < t.addr + t.len
  (s.codes.filter fun o => o.asid = c.asid).foldl (fun s o =>
    (o.bound.filter fun b => b.2 = c.handle).foldl (fun s b =>
      match s.physOf c.asid b.1 with
      | some pa => if inside (s.numAt pa 8) then s.storeNum pa 8 0x0F000000 else s
      | none => s) s) s

/-- Clears the leaf entries of an object's pages. -/
def State.unmapPages (s : State) (asid va : Nat) : Nat → State
  | 0 => s
  | n + 1 =>
    let t : State := match s.walkTree asid va with
      | .leaf _ ptr _ => s.storeNum ptr 8 0
      | _ => s
    t.unmapPages asid (va + 4096) n

/-- The object is gone: its entries restored, its pages unmapped and given back, the address space's translations
removed (R447). -/
def State.unloadObject (s : State) (k : Nat) : State :=
  match s.codes[k]? with
  | none => s
  | some c =>
    let s := s.unbindLinks c
    let s := c.ranges.foldl (fun s r => s.unmapPages c.asid r.1 (r.2.1 / 4096)) s
    let s : State := { s with
      fwPages := s.fwPages.filter fun t => !(c.ranges.any fun r => r.2.2 = t.1)
      codes := (s.codes.filter fun o => o.handle ≠ c.handle).map fun o =>
        { o with bound := o.bound.filter fun b => b.2 ≠ c.handle } }
    s.invalidate 1 c.asid 0 none

end Sys2Proof.Machine
end

