-- ==== Sys2Proof/Machine/FrontEnd.lean ====
section
/-!
DEFINITION. The front end's queues (R425 to R427), its commands (R428 to R431), launches (R432, R433, R435, R40, R68,
R72), communicator set-up (R414 to R416) and the snapshot copies that precede a write (R454).
-/
namespace Sys2Proof.Machine

/-! Queues (R425 to R427) -/

/-- Hardware queue slots. -/
def queueSlots : Nat := 128

/-- `n` bytes at a place in DRAM or the system range. -/
def State.dramOrHost (s : State) (a n : Nat) : Bool :=
  a + n ≤ s.part.dcap || (isSystem a && isSystem (a + n - 1))

def zeroBytes (bs : List Byte) (off n : Nat) : Bool := ((bs.drop off).take n).all (· = 0)

/-- Where the descriptor of queue `q` of an interface lies. -/
def State.queueDesc (s : State) (vif q : Nat) : Nat := ((s.vifs[vif]?).map fun v => v.qtbase.toNat).getD 0 + 64 * q

/-- The queue that a descriptor describes, read with its last doorbell `DB` at its RDIDX; none when it is malformed,
or in error until software has rewritten it (R425, R426; log 27). -/
def State.readQueue (s : State) (vif q : Nat) : Option QSlot :=
  let a := s.queueDesc vif q
  if !s.dramOrHost a 64 then none
  else
    let bs := s.physBytes (span a 64)
    let base := fieldOf bs 0 8
    let size := fieldOf bs 8 4
    let ok := zeroBytes bs 0x0E 2 && zeroBytes bs 0x15 43 && fieldOf bs 0x0C 1 < 16 && fieldOf bs 0x0D 1 = 1
      && base % 64 = 0 && s.dramOrHost base (64 * size) && 16 ≤ size && size ≤ 65536 && 2 ^ Nat.log2 size = size
      && fieldOf bs 0x14 1 ≠ 2
    if !ok then none
    else some ⟨vif, q, base, size, fieldOf bs 0x0C 1, fieldOf bs 0x10 4, fieldOf bs 0x10 4, s.time⟩

def State.putQueueState (s : State) (q : QSlot) (st : Nat) : State :=
  s.storeNum (s.queueDesc q.vif q.queue + 0x14) 1 st

/-- Differences of indices are modulo 2^32. -/
def idxSub (a b : Nat) : Nat := (a + 2 ^ 32 - b % 2 ^ 32) % 2 ^ 32

/-- The queue has entries that have not been read. -/
def QSlot.unread (q : QSlot) : Bool := q.rdidx ≠ q.wridx

/-- Takes a queue out of its slot: RDIDX is written back, and unread entries wait on the overflow list. An error sets
state 2 and VISTAT.QERR (R426, R465). -/
def State.unmapSlot (s : State) (i : Nat) (error : Bool) : State :=
  match assocFind s.queues i with
  | none => s
  | some q =>
    let t : State := { s with
      queues := assocDel s.queues i
      overflow := if q.unread && !error then s.overflow ++ [⟨q.vif, q.queue, q.wridx, q.dbTime⟩] else s.overflow }
    let t := (t.storeNum (s.queueDesc q.vif q.queue + 0x10) 4 q.rdidx).putQueueState q (if error then 2 else 0)
    if error then t.modVif q.vif fun v => { v with vistat := v.vistat ||| 4 } else t

/-- A doorbell value for a mapped queue: it is taken, or the queue enters state 2 (R426). -/
def State.ring (s : State) (i w now : Nat) : State :=
  match assocFind s.queues i with
  | none => s
  | some q =>
    if idxSub w q.rdidx > q.size || idxSub w q.wridx > q.size then s.unmapSlot i true
    else { s with queues := assocPut s.queues i { q with wridx := w, dbTime := now } }

/-- A free slot. -/
def State.freeSlot (s : State) : Option Nat := lowest queueSlots fun i => (assocFind s.queues i).isNone

/-- Maps a queue into a slot and applies its doorbell. -/
def State.mapSlot (s : State) (i vif q w now : Nat) : State :=
  match s.readQueue vif q with
  | none => s
  | some d => (({ s with queues := assocPut s.queues i d } : State).putQueueState d 1).ring i w now

/-- The first of the overflow list by last doorbell. -/
def firstOverflow : List Overflow → Option Overflow
  | [] => none
  | o :: r =>
    match firstOverflow r with
    | none => some o
    | some p => some (if p.dbTime < o.dbTime then p else o)

/-- Serves the overflow list while slots are free. -/
def State.serveOverflow (s : State) : Nat → State
  | 0 => s
  | fuel + 1 =>
    match s.freeSlot, firstOverflow s.overflow with
    | some i, some o =>
      (({ s with overflow := s.overflow.filter (· ≠ o) } : State).mapSlot i o.vif o.queue o.wridx o.dbTime).serveOverflow fuel
    | _, _ => s

def State.refillSlots (s : State) : State := s.serveOverflow s.overflow.length

/-- The slot whose queue's last doorbell is oldest. -/
def oldestSlot : SMap QSlot → Option (Nat × QSlot)
  | [] => none
  | p :: r =>
    match oldestSlot r with
    | none => some p
    | some q => some (if q.2.dbTime < p.2.dbTime then q else p)

/-- DOORBELL (R426, R427): a store to the doorbell of a queue of the interface. -/
def execDoorbell (queue : Nat) (value : DWord) (s : State) : Result :=
  match s.issuer with
  | .host vif =>
    let w := value.toNat
    if s.stage ≠ 5 || queue ≥ 4096 || w ≥ 2 ^ 32 || vif ≥ s.vifs.length then .next s
    else
      match s.queues.find? fun p => p.2.vif = vif && p.2.queue = queue with
      | some (i, _) => .next (s.ring i w s.time).refillSlots
      | none =>
        let s : State := { s with overflow := s.overflow.filter fun o => !(o.vif = vif && o.queue = queue) }
        if (s.readQueue vif queue).isNone then .next s
        else
          match s.freeSlot with
          | some i => .next ((s.mapSlot i vif queue w s.time).refillSlots)
          | none =>
            match oldestSlot s.queues with
            | none => .next s
            | some (i, _) => .next (((s.unmapSlot i false).mapSlot i vif queue w s.time).refillSlots)
  | _ => .next s

/-- QUEUE_IDLE_UNMAP (R427): no unread entry, and no doorbell for 256 µs. -/
def execQueueIdleUnmap (s : State) : Result :=
  match s.issuer with
  | .queue i =>
    match assocFind s.queues i with
    | none => .next s
    | some q => if !q.unread && q.dbTime + 256000 ≤ s.time then .next (s.unmapSlot i false).refillSlots else .next s
  | _ => .next s

/-! Entries (R428, R429) -/

/-- An entry; `ok` when its unassigned bytes and bits are zero. -/
structure Entry where
  opc : Nat
  barrier : Bool
  lazy : Bool
  arg0 : Nat
  arg1 : Nat
  arg2 : Nat
  signal : SignalRef
  ok : Bool
  deriving DecidableEq, Repr

def Entry.ofBytes (bs : List Byte) : Entry :=
  let fl := fieldOf bs 1 1
  let opc := fieldOf bs 0 1
  { opc := opc, barrier := bitOf fl 0, lazy := bitOf fl 1
    arg0 := fieldOf bs 8 8, arg1 := fieldOf bs 0x10 8, arg2 := fieldOf bs 0x18 8
    signal := ⟨fieldOf bs 0x20 8, BitVec.ofNat 64 (fieldOf bs 0x28 8)⟩
    ok := fl < 4 && (!bitOf fl 1 || opc = 4) && zeroBytes bs 2 6 && zeroBytes bs 0x30 16 }

/-- The next entry of a queue. -/
def State.nextEntry (s : State) (q : QSlot) : Entry :=
  Entry.ofBytes (s.physBytes (span (q.base + 64 * (q.rdidx % q.size)) 64))

/-- A command of the queue that has started is not completed. -/
def State.queueBusy (s : State) (q : QSlot) : Bool :=
  s.cmds.any (fun c => c.vif = q.vif && c.queue = q.queue) ||
    s.launches.any fun l => l.live && l.vif = q.vif && l.queue = q.queue

/-- The next entry may start (R429). -/
def State.startable (s : State) (q : QSlot) : Bool :=
  q.unread && !(s.cmds.any fun c => c.vif = q.vif && c.queue = q.queue && c.opc = 2)
    && (!(s.nextEntry q).barrier || !s.queueBusy q)

/-- How far a slot stands behind the one that was served last at its priority. -/
def State.roundPos (s : State) (prio i : Nat) : Nat :=
  match assocFind s.served prio with
  | none => i
  | some j => (i + 2 * queueSlots - j - 1) % queueSlots

/-- The slot is the one to be served: no other startable queue has a higher priority, or stands before it in its
priority's round (R429). -/
def State.isNextQueue (s : State) (i : Nat) (q : QSlot) : Bool :=
  s.startable q && s.queues.all fun p =>
    p.1 = i || !s.startable p.2 || p.2.prio < q.prio ||
      (p.2.prio = q.prio && s.roundPos q.prio i < s.roundPos q.prio p.1)

/-- The front end starts the next entry of a queue with `f`, when that entry is one that `want` describes. -/
def State.startEntry (s : State) (want : Entry → Bool) (f : State → QSlot → Entry → State) : Result :=
  match s.issuer with
  | .queue i =>
    match assocFind s.queues i with
    | none => .next s
    | some q =>
      let e := s.nextEntry q
      if s.isNextQueue i q && want e then
        let t : State := { s with
          queues := assocPut s.queues i { q with rdidx := (q.rdidx + 1) % 2 ^ 32 }
          served := assocPut s.served q.prio i }
        .next (f t.boundary q e)
      else .next s
  | _ => .next s

/-- The command of an entry that does not complete at once. -/
def QSlot.cmd (q : QSlot) (e : Entry) : Cmd := ⟨q.vif, q.queue, q.rdidx, e.opc, e.arg0, e.arg1, e.arg2, e.signal⟩
def State.begin (s : State) (q : QSlot) (e : Entry) : State := { s with cmds := s.cmds ++ [q.cmd e] }

/-- A command completes (R430). -/
def State.done (s : State) (e : Entry) (code aux : Nat) : State := s.complete e.signal code 0 false aux

/-- Completes a started command. -/
def State.endCmd (s : State) (c : Cmd) (code aux : Nat) : State :=
  ({ s with cmds := s.cmds.filter (· ≠ c) } : State).complete c.signal code 0 false aux

/-- The first started command of an interface that can complete now. -/
def State.cmdOf (s : State) (vif opc : Nat) (p : Cmd → Bool) : Option Cmd :=
  s.cmds.find? fun c => c.vif = vif && c.opc = opc && p c

/-- An entry of a known command. -/
def Entry.is (opc : Nat) (e : Entry) : Bool := e.ok && e.opc = opc

/-- SIGNAL (R428): completes at once. A malformed entry and one of no known command complete with BADCMD in the same
way (log 26). -/
def execSignal (s : State) : Result :=
  s.startEntry (fun e => !e.ok || e.opc = 3 || e.opc = 0 || e.opc > 13) fun s _ e =>
    if e.ok && e.opc = 3 then s.done e 0 0 else s.done e 0x0C 0

/-- WAIT (R428, R429). -/
def execWait (s : State) : Result :=
  s.startEntry (Entry.is 2) fun s q e => if s.recordOk e.arg0 then s.begin q e else s.done e 0x0C 0

/-- WAIT_SATISFIED (R428): the record's VALUE has reached ARG1. -/
def execWaitSatisfied (s : State) : Result :=
  match s.issuer with
  | .host vif =>
    match s.cmdOf vif 2 fun c => c.arg1 ≤ s.numAt (c.arg0 + 8) 8 with
    | none => .next s
    | some c => .next (s.endCmd c 0 0)
  | _ => .next s

/-- QUANTUM (R441). -/
def execQuantum (s : State) : Result :=
  s.startEntry (Entry.is 13) fun s q e => (s.modVif q.vif fun v => { v with quantum := e.arg0 }).done e 0 0

/-- FAULTQ (R448): the ring is installed, and the records that wait are written to it. -/
def execFaultq (s : State) : Result :=
  s.startEntry (Entry.is 12) fun s q e =>
    if e.arg1 = 0 || 2 ^ Nat.log2 e.arg1 ≠ e.arg1 || !s.dramOrHost e.arg0 (32 * e.arg1) then s.done e 0x0C 0
    else ((s.modVif q.vif fun v => { v with faultRing := some (e.arg0, e.arg1), fseq := 0 }).flushFaults q.vif).done e 0 0

/-- RESUME (R448). -/
def execResume (s : State) : Result :=
  s.startEntry (Entry.is 9) fun s _ e => (s.resumeRange (e.arg0 % 256) e.arg1 e.arg2).done e 0 0

/-- The path of an RCB under an interface's root, read afresh (R28, R428). -/
def State.pathUnder (s : State) (vif addr : Nat) : Option (List Rcb) :=
  match s.freshPath 4 addr with
  | some path =>
    let root := ((s.vifs[vif]?).map fun v => v.rootRcb.toNat).getD 0
    if path.any fun r => r.addr = root then some path else none
  | none => none

/-- RCBSYNC (R29): a malformed node leaves what was read before. -/
def execRcbsync (s : State) : Result :=
  s.startEntry (Entry.is 6) fun s q e =>
    match s.pathUnder q.vif e.arg0 with
    | none => s.done e 4 0
    | some path => (s.keepRcbs path).done e 0 0

/-- POOL (R448): the range must be whole pages of DRAM (log 26). -/
def execPool (s : State) : Result :=
  s.startEntry (Entry.is 8) fun s q e =>
    match s.pathUnder q.vif e.arg0 with
    | none => s.done e 4 0
    | some _ =>
      if e.arg1 % 4096 ≠ 0 || e.arg2 % 4096 ≠ 0 || e.arg1 + e.arg2 > s.part.dcap then s.done e 0x0C 0
      else ({ s with pools := s.pools ++ [⟨e.arg0, e.arg1, e.arg2, []⟩] } : State).done e 0 0

/-- The interface owns the ASID (R428). -/
def State.ownsAsid (s : State) (vif asid : Nat) : Bool := (s.vifs[vif]?).any fun v => v.ownsAsid asid

/-- The TLBI of an ASIDSET is performed once no access uses a translation that it removes (R253). -/
def State.asidFree (s : State) (asid : Nat) : Bool := !s.tlbiBusy 4 asid 0 none

/-- ASIDSET (R242, R428): the entry is written at once; the command completes with its TLBI. A root table that is not
4 KiB aligned in DRAM is refused (log 26). -/
def execAsidset (s : State) : Result :=
  match s.issuer with
  | .host vif =>
    match s.cmdOf vif 7 fun c => s.asidFree (c.arg0 % 256) with
    | none => .next s
    | some c => .next ((s.invalidate 4 (c.arg0 % 256) 0 none).endCmd c 0 0)
  | _ =>
    s.startEntry (Entry.is 7) fun s q e =>
      let asid := e.arg0 % 256
      if !s.ownsAsid q.vif asid then s.done e 4 0
      else if e.arg1 % 4096 ≠ 0 || e.arg1 + 4096 > s.part.dcap then s.done e 0x0C 0
      else
        let s : State := { s with asids := if e.arg1 = 0 then assocDel s.asids asid else assocPut s.asids asid e.arg1 }
        if s.asidFree asid then (s.invalidate 4 asid 0 none).done e 0 0 else s.begin q e

/-- LOAD (R445). -/
def execLoad (s : State) : Result :=
  s.startEntry (Entry.is 4) fun s q e =>
    let asid := e.arg2 % 256
    if !s.ownsAsid q.vif asid then s.done e 4 0
    else if !s.dramOrHost e.arg0 e.arg1 then s.done e 9 0
    else
      let (code, handle, t) := s.loadObject q.vif asid e.arg0 e.arg1 e.lazy
      t.boundary.done e code handle

/-- Objects that an object of the list uses through linkage entries that the bind service has set (R447), or through its
relocations (R444), added to it; `fuel` links deep. -/
def State.linkedCodes (s : State) : Nat → List Nat → List Nat
  | 0, hs => hs
  | fuel + 1, hs =>
    s.linkedCodes fuel (hs ++ (s.codes.filter fun c => hs.contains c.handle).flatMap fun c => c.bound.map Prod.snd ++ c.uses).eraseDups

/-- A launch that has not ended uses the object, or an access still uses a translation of its address space, which the
TLBI of its removal waits for (R253, R447). -/
def State.codeInUse (s : State) (handle : Nat) : Bool :=
  (s.launches.any fun l => l.live &&
      (s.linkedCodes s.codes.length (l.codeh :: l.nodes.map Node.codeh)).contains handle)
    || (s.codes.filter fun c => c.handle = handle).any fun c => s.tlbiBusy 1 c.asid 0 none

/-- The index of a loaded object of an interface. -/
def State.codeOf (s : State) (vif handle : Nat) : Option Nat :=
  indexWhere (fun c : CodeObj => c.vif = vif && c.handle = handle) s.codes

/-- UNLOAD (R447): it completes after every launch that uses the object. -/
def execUnload (s : State) : Result :=
  match s.issuer with
  | .host vif =>
    match s.cmdOf vif 5 fun c => !s.codeInUse (c.arg0 % 65536) with
    | none => .next s
    | some c =>
      match s.codeOf vif (c.arg0 % 65536) with
      | none => .next (s.endCmd c 7 0)
      | some k => .next ((s.unloadObject k).endCmd c 0 0)
  | _ =>
    s.startEntry (Entry.is 5) fun s q e =>
      let h := e.arg0 % 65536
      match s.codeOf q.vif h with
      | none => s.done e 7 0
      | some k => if s.codeInUse h then s.begin q e else (s.unloadObject k).done e 0 0

/-! Launches -/

/-- A kernel as a launch or a node names it: its object's index, and its fields with the allotment, tiles and sheet
that the launch takes. -/
structure Chosen where
  obj : Nat
  kernel : Nat
  k : Kernel
  needc : BitVec 8
  appol : Bool
  n : Nat
  v : Nat
  acc : Nat
  sheet : Nat
  deriving DecidableEq, Repr

/-- Chooses a kernel: a status, or the choice; values of 0 take the kernel's, 64 for an Appol allotment (R432, R450). -/
def State.choose (s : State) (asid codeh entry n v acc sheet : Nat) : Nat ⊕ Chosen :=
  match indexWhere (fun c : CodeObj => c.asid = asid && c.handle = codeh) s.codes with
  | none => .inl 7
  | some i =>
    match (s.codes[i]?).bind fun c => (c.kernels[entry]?).map fun k => (c, k) with
    | none => .inl 7
    | some (c, k) =>
      let dn := if c.appol then 64 else k.sreg
      let dv := if c.appol then 64 else k.vreg
      let pick (x d : Nat) := if x = 0 then d else x
      let r : Chosen := ⟨i, entry, k, c.needc, c.appol, pick n dn, pick v dv, pick acc k.acc, pick sheet k.sheet⟩
      let ok := allotOk r.n && allotOk r.v && (c.appol || (k.sreg ≤ r.n && k.vreg ≤ r.v)) && r.acc ≤ 32 && k.acc ≤ r.acc
        && sheetOk r.sheet && k.sheet ≤ r.sheet
      if ok then .inr r else .inl 2

/-- What the launch needs of its kernel's object before it is admitted: its deferred steps, and the translation for
the allotment (R445, R450); a status, or the entry address and the stream's. -/
def State.prepare (s : State) (r : Chosen) : Nat ⊕ (State × Nat × Option Nat) :=
  match s.install r.obj with
  | (0, t) =>
    match t.codes[r.obj]? with
    | none => .inl 7
    | some c =>
      if !c.appol then .inr (t, r.k.code, r.k.mseq)
      else
        match t.translateKernel r.obj c r.kernel r.n r.v with
        | none => .inl 0x0B
        | some (u, c') =>
          match c'.translations.find? fun x => x.kernel = r.kernel && x.nsreg = r.n && x.nvreg = r.v with
          | none => .inl 0x0B
          | some x => .inr (u, x.addr, none)
  | (code, _) => .inl code

/-- Fields of a node table entry before its kernel is chosen (R436). -/
def nodeOk (s : State) (bs : List Byte) : Bool :=
  let f (o n : Nat) := fieldOf bs o n
  zeroBytes bs 0x0F 1 && zeroBytes bs 0x30 16 && f 0x02 2 = 0
    && 8 ≤ f 0x08 2 && f 0x08 2 ≤ 256 && f 0x08 2 % 8 = 0 && 96 ≤ f 0x14 4 && f 0x14 4 % 96 = 0
    && f 0x18 8 + f 0x14 4 * f 0x08 2 ≤ s.part.dcap && f 0x28 8 % 64 = 0

/-- The nodes of a graph, prepared one after another: a status, or the state and the nodes. -/
def State.makeNodes (s : State) (asid contract : Nat) (e : EffRcb) (nodes : Nat) : List Nat → Nat ⊕ (State × List Node)
  | [] => .inr (s, [])
  | i :: rest =>
    let bs := s.physBytes (span (nodes + 64 * i) 64)
    let f (o n : Nat) := fieldOf bs o n
    if !nodeOk s bs then .inl 2
    else
      match s.choose asid (f 0 2) (f 4 4) (f 0x0C 1) (f 0x0D 1) (f 0x0E 1) (f 0x10 4) with
      | .inl c => .inl c
      | .inr r =>
        let need : BlockNeed := ⟨r.sheet, r.acc, 1, r.n, r.v, r.k.mseq.isSome⟩
        if !r.needc.getLsbD contract then .inl 1
        else if !need.fits s e then .inl 5
        else
          match s.prepare r with
          | .inl c => .inl c
          | .inr (t, pc, ms) =>
            match t.makeNodes asid contract e nodes rest with
            | .inl c => .inl c
            | .inr (u, ns) =>
              .inr (u, ⟨f 0 2, f 4 4, BitVec.ofNat 64 pc, ms.map (BitVec.ofNat 64), f 8 2, f 0x0A 2, r.n, r.v, r.acc,
                r.sheet, f 0x14 4, f 0x18 8, f 0x20 8, f 0x28 8⟩ :: ns)

/-- The shape fields of a parameter block lie within R31 and R432. -/
def lpbShape (bs : List Byte) (sheet : Nat) : Bool :=
  let f (o n : Nat) := fieldOf bs o n
  let stage := if f 0x1C 4 = 0 then 0x40000 else f 0x1C 4
  zeroBytes bs 0x60 160 && f 2 2 = 0 && 1 ≤ f 0x08 2 && 1 ≤ f 0x0A 2 && 1 ≤ f 0x0C 1
    && f 0x08 2 * f 0x0A 2 * f 0x0C 1 ≤ 2 ^ 31 && 1 ≤ f 0x0D 1 && f 0x0D 1 ≤ 16 && f 0x11 1 < 8
    && bitsOf (f 0x17 1) 3 1 = 0 && stage % 4096 = 0 && (!bitOf (f 0x11 1) 0 || stage ≤ sheet)
    && (bitOf (f 0x11 1) 2 || f 0x40 8 = 0) && f 0x54 4 ≤ 4096 && f 0x58 8 % 64 = 0 && (f 0x54 4 ≠ 0 || f 0x58 8 = 0)

/-- TRAV and SWZ (R35). -/
def travOk (trav swz : Nat) : Bool := trav ≤ 3 && swz ≤ 6 && (trav < 2 || swz = 0)

/-- The launch that a parameter block describes, started (R432, R433). -/
def lpbLaunch (s : State) (q : QSlot) (lpb asid : Nat) (bs : List Byte) (r : Chosen) (contract pc : Nat)
    (ms : Option Nat) (nodes : List Node) : Launch :=
  let f (o n : Nat) := fieldOf bs o n
  let fl := f 0x11 1
  Launch.fresh {
    st := .running, vif := q.vif, queue := q.queue, cmd := q.rdidx, lpb := lpb, codeh := f 0 2, entry := f 4 4
    kernelPc := BitVec.ofNat 64 pc, mseqPc := ms.map (BitVec.ofNat 64)
    gx := f 8 2, gy := f 0x0A 2, gz := f 0x0C 1, ngrp := f 0x0D 1, trav := f 0x0E 1, swz := f 0x0F 1
    contract := contract, det := bitOf fl 0, gridbar := bitOf fl 1, timed := bitOf fl 2
    nsreg := r.n, nvreg := r.v, taild := f 0x14 2, acc := r.acc, snap := bitOf (f 0x17 1) 0, retry := f 0x17 1 / 16
    sheet := r.sheet, stage := if f 0x1C 4 = 0 then 0x40000 else f 0x1C 4, args := BitVec.ofNat 64 (f 0x20 8)
    rcb := f 0x28 8, asid := asid, signal := ⟨f 0x30 8, BitVec.ofNat 64 (f 0x38 8)⟩, tstart := f 0x40 8
    late := false, seed := BitVec.ofNat 64 (f 0x48 8)
    tvec := if f 0x50 4 = 0 then firmwareTable else BitVec.ofNat 32 (f 0x50 4)
    nodes := nodes, gathers := [], nextBseq := 0, waiting := none, gridGen := 0, units := [], replayable := false
    replays := 0, mapped := [], steps := [] } s.time

/-- The checks of a LAUNCH (R40, R431, R432): a status, or the state and the accepted launch. -/
def State.checkLaunch (s : State) (q : QSlot) (lpb : Nat) (bs : List Byte) : Nat ⊕ (State × Launch × List Rcb) :=
  let f (o n : Nat) := fieldOf bs o n
  match s.launchPath q.vif (f 0x28 8) with
  | none => .inl 4
  | some path =>
    match effPath path with
    | none => .inl 4
    | some e =>
      match s.choose e.asid (f 0 2) (f 4 4) (f 0x12 1) (f 0x13 1) (f 0x16 1) (f 0x18 4) with
      | .inl c => .inl c
      | .inr r =>
        let contract := if f 0x10 1 = 0 then r.k.contract else f 0x10 1
        let need : BlockNeed := ⟨r.sheet, r.acc, f 0x0D 1, r.n, r.v, r.k.mseq.isSome⟩
        let blocks := f 8 2 * f 0x0A 2 * f 0x0C 1
        if !contractOk contract || !r.needc.getLsbD contract then .inl 1
        else if !lpbShape bs r.sheet then .inl 2
        else if !travOk (f 0x0E 1) (f 0x0F 1) then .inl 3
        else if !need.fits s e then .inl 5
        else if bitOf (f 0x11 1) 1 && need.gridBallast e blocks > e.balsize then .inl 6
        else
          match s.prepare r with
          | .inl c => .inl c
          | .inr (t, pc, ms) =>
            match t.makeNodes e.asid contract e (f 0x58 8) (List.range (f 0x54 4)) with
            | .inl c => .inl c
            | .inr (u, nodes) => .inr (u, lpbLaunch s q lpb e.asid bs r contract pc ms nodes, path)

/-- The front end's first reading of nodes that it does not know yet (R29). -/
def State.learnRcbs (s : State) (path : List Rcb) : State :=
  s.keepRcbs (path.filter fun r => (s.rcb? r.addr).isNone)

/-- LAUNCH (R432, R433): the launch is accepted, or refused with the status of a check that fails. A refusal writes STATUS
(R40) where the parameter block names an aligned address in DRAM whose KIND is 4, that of a launch region, and nothing
elsewhere (DESIGN CHOICE, log 86). The launch has started once it is accepted or refused (R429), which is the boundary at
which the state table records it (R467). -/
def execLaunch (s : State) : Result :=
  s.startEntry (Entry.is 1) fun s q e =>
    if e.arg0 % 256 ≠ 0 || !s.dramOrHost e.arg0 256 then s.done e 0x0C 0
    else
      let bs := s.physBytes (span e.arg0 256)
      let rcb := fieldOf bs 0x28 8
      let sg : SignalRef := ⟨fieldOf bs 0x30 8, BitVec.ofNat 64 (fieldOf bs 0x38 8)⟩
      match s.checkLaunch q e.arg0 bs with
      | .inl code =>
        let t := s.complete sg code 0 false 0
        if rcb % 256 = 0 && rcb + 256 ≤ s.part.dcap && s.numAt rcb 1 = 4 then t.writeRcbStatus rcb false (some code)
        else t
      | .inr (t, l, path) =>
        let t := t.learnRcbs path
        (({ t with launches := t.launches ++ [l] } : State).writeRcbStatus l.rcb false (some 0)).boundary

/-- TIMED_LAUNCH_START (R433): the first block may be admitted from the first tick at or after TSTART. -/
def execTimedLaunchStart (s : State) : Result :=
  match s.issuer with
  | .launch lid =>
    match s.launches[lid]? with
    | none => .next s
    | some l =>
      if l.st = .timed && l.tstart ≤ s.time then .next (s.modLaunch lid fun l => { l with st := .running }) else .next s
  | _ => .next s

/-- LAUNCH_COMPLETE (R435, R430): a write-back that faults is reported, and the launch completes after its retry
(R384). -/
def execLaunchComplete (s : State) : Result :=
  match s.issuer with
  | .launch lid =>
    match s.launches[lid]? with
    | none => .next s
    | some l =>
      if !s.launchDone lid l then .next s
      else
        match writeBackAll lid s with
        | (t, []) =>
          let t : State := { (t.release fun u => u = .snapshot lid) with
            chains := t.chains.filter fun c => c.lid ≠ lid
            sharing := t.sharing.filter fun r => r.lid ≠ lid }
          let t := t.modLaunch lid fun l => { l with st := .completed, units := [] }
          .next (((t.complete l.signal 0 0 l.late 0).writeRcbStatus l.rcb false none).writeUse l.rcb)
        | (t, faults) => .next (faults.foldl (fun t f => t.reportWriteBack f.1 f.2) t)
  | _ => .next s

/-- The units that an outstanding operation of a launch is about to write for the first time (R454). -/
def State.unitHeld (s : State) (lid unit : Nat) : Bool :=
  (s.launchBlocks lid).any fun b => b.groups.any fun h => h.outstanding.any fun p =>
    p.body.writes && p.accs.any fun a => a.pas.any fun x => unitOf x = unit

/-- SNAPSHOT_UNIT_COPY (R454): the unit that a held write is about to change is copied aside. -/
def execSnapshotUnitCopy (unit : Nat) (s : State) : Result :=
  match s.issuer with
  | .launch lid => if unitOf unit = unit && s.unitHeld lid unit then .next (s.snapUnit lid unit) else .next s
  | _ => .next s

/-! Communicators (R414 to R416) -/

/-- Records in use. -/
def Comm.used (c : Comm) : Bool := c.live || c.opening
def State.freeComm (s : State) : Option Nat :=
  (List.range 65536).find? fun h => !s.comms.any fun c => c.used && c.handle = h

/-- The outcome of a set-up is written to the descriptor (R414). -/
def State.commStatus (s : State) (desc handle agreed status : Nat) : State :=
  s.storeBytes (desc + 0x18) (leBytes 2 handle ++ leBytes 1 agreed ++ leBytes 1 status)

/-- COMMCREATE (R414, R415): set-up begins, or fails at once with BADDESC or NOREC. -/
def execCommcreate (s : State) : Result :=
  s.startEntry (Entry.is 10) fun s q e =>
    if s.part.dcap < e.arg0 + 64 then s.done e 0x0C 0
    else
      let bs := s.physBytes (span e.arg0 64)
      let f (o n : Nat) := fieldOf bs o n
      let members := (List.range (f 0 2)).map fun i => s.numAt (f 8 8 + 8 * i) 8
      let ok := 1 ≤ f 0 2 && f 0 2 ≤ 2048 && f 2 2 < f 0 2 && f 4 1 % 2 = 0 && f 4 1 < 128 && zeroBytes bs 5 3
        && zeroBytes bs 0x14 4 && zeroBytes bs 0x1C 36
      if !ok then (s.commStatus e.arg0 0 0 2).done e 0 0
      else
        match s.freeComm with
        | none => (s.commStatus e.arg0 0 0 4).done e 0 0
        | some h =>
          if (s.comms.filter Comm.used).length ≥ 256 then (s.commStatus e.arg0 0 0 4).done e 0 0
          else
            let c : Comm :=
              { handle := h, vif := q.vif, desc := e.arg0, cmd := q.rdidx, nrank := f 0 2, rank := f 2 2, allow := f 4 1
                members := members, tag := f 0x10 4, agreed := 0, live := false, opening := true, closing := false
                nextStep := 0, steps := [] }
            ({ s with comms := s.comms ++ [c] } : State).begin q e

/-- Ends a set-up: the descriptor, the record and the command. -/
def State.endSetup (s : State) (ci : Nat) (c : Comm) (agreed status : Nat) : State :=
  let ok := status = 0
  let s : State := { s with comms := s.comms.modify ci fun c => { c with live := ok, opening := false, agreed := agreed } }
  let s := s.commStatus c.desc (if ok then c.handle else 0) agreed status
  match s.cmds.find? fun k => k.vif = c.vif && k.opc = 10 && k.idx = c.cmd && k.arg0 = c.desc with
  | none => s
  | some k => s.endCmd k 0 (if ok then c.handle else 0)

/-- The descriptor names this device at its RANK, and at no other rank (R415). -/
def Comm.namesItself (c : Comm) (podId : Nat) : Bool :=
  c.members[c.rank]? = some podId && c.members.zipIdx.all fun p => p.1 ≠ podId || p.2 = c.rank

/-- An answer differs from the descriptor (R415). -/
def Comm.differs (c : Comm) (a : PeerAnswer) : Bool :=
  a.tag ≠ c.tag || a.nrank ≠ c.nrank || a.allow ≠ c.allow || a.members ≠ c.members || a.ownRank ≠ a.rank

/-- The highest contract that is allowed and that every member carries; the LX9 carries 1 to 6 (R19, R415). -/
def Comm.agree (c : Comm) (answers : List PeerAnswer) : Option Nat :=
  [6, 5, 4, 3, 2, 1].find? fun k => bitOf c.allow k && answers.all fun a => bitOf a.carries k

/-- The status of a set-up and the agreed contract, once every other member has answered. -/
def Comm.outcome (c : Comm) (podId : Nat) (answers : List PeerAnswer) : Nat × Nat :=
  if answers.any c.differs || !c.namesItself podId then (2, 0)
  else if answers.any fun a => !a.hasRecord then (3, 0)
  else match c.agree answers with
    | some k => (0, k)
    | none => (1, 0)

/-- SETUP_EXCHANGE (R415): one answer from every other rank. -/
def execSetupExchange (answers : List PeerAnswer) (s : State) : Result :=
  match s.issuer with
  | .comm ci =>
    match s.comms[ci]? with
    | none => .next s
    | some c =>
      let others := (List.range c.nrank).filter (· ≠ c.rank)
      if c.opening && answers.map PeerAnswer.rank = others then
        let r := c.outcome s.part.podId answers
        .next (s.endSetup ci c r.2 r.1)
      else .next s
  | _ => .next s

/-- COMMCREATE_TIMEOUT (R415): UNREACHABLE. -/
def execCommcreateTimeout (s : State) : Result :=
  match s.issuer with
  | .comm ci =>
    match s.comms[ci]? with
    | none => .next s
    | some c => if c.opening then .next (s.endSetup ci c 0 3) else .next s
  | _ => .next s

/-- The communicator's steps have ended (R416). -/
def Comm.idle (c : Comm) : Bool := c.steps.all fun t => !t.inFlight

/-- Frees a communicator. -/
def State.freeCommAt (s : State) (ci : Nat) : State :=
  { s with comms := s.comms.modify ci fun c => { c with live := false, closing := false } }

/-- COMMDESTROY (R416): once its steps in flight have ended. A handle of no live communicator of the interface
completes with BADCMD (log 26). -/
def execCommdestroy (s : State) : Result :=
  match s.issuer with
  | .host vif =>
    let ready (c : Cmd) : Bool := match s.commOf vif (c.arg0 % 65536) with
      | none => true
      | some ci => (s.comms[ci]?).any Comm.idle
    match s.cmdOf vif 11 ready with
    | none => .next s
    | some c =>
      match s.commOf vif (c.arg0 % 65536) with
      | none => .next (s.endCmd c 0 0)
      | some ci => .next ((s.freeCommAt ci).endCmd c 0 0)
  | _ =>
    s.startEntry (Entry.is 11) fun s q e =>
      match s.commOf q.vif (e.arg0 % 65536) with
      | none => s.done e 0x0C 0
      | some ci =>
        if (s.comms[ci]?).any Comm.idle then (s.freeCommAt ci).done e 0 0
        else ({ s with comms := s.comms.modify ci fun c => { c with closing := true } } : State).begin q e

end Sys2Proof.Machine
end

