-- ==== Sys2Proof/Machine/HostSide.lean ====
section
/-!
DEFINITION. The host side of the ports: interface registers and the aperture (R464 to R466), management requests (R462,
R469, R471, R472), scrubbing and errors (R452, R453), power (R473, R474), the tether's synchronisation (R15), the
takeover of the standby complex (R468), and reset (R475).
-/
namespace Sys2Proof.Machine

/-! Interface registers (R465) -/

/-- What the device answers a host. -/
def State.answer (s : State) (a : Answer) : State := { s with out := s.out ++ [a] }

/-- The link of a port: a host is attached, and the device has not stopped (R462, R473). -/
def State.linkUp (s : State) (port : Nat) : Bool := !s.stopped && s.attached[port]? = some true

/-- A host's access to an interface, over the link of its port. Until the device has enabled its functions every request
completes with Unsupported Request, one of the two statuses that R475 allows. While an aperture request of the interface is
under way, no later one has arrived (R464). -/
def State.overLink (s : State) (v : Nat) (f : Vif → State) : State :=
  match s.vifs[v]? with
  | none => s
  | some w =>
    if !s.linkUp w.port then s
    else if s.stage ≠ 5 then s.answer (.unsupported v)
    else if w.aperture.isSome then s
    else f w

def State.hostAccess (s : State) (f : Nat → Vif → State) : Result :=
  match s.issuer with
  | .host v => .next (s.overLink v (f v))
  | _ => .next s

/-- What an interface's register page reads at an aligned 8-byte offset (R465, R474). -/
def State.interfaceReg (s : State) (n : Nat) (v : Vif) (off : Nat) : DWord :=
  match off with
  | 0x000 => BitVec.ofNat 64 (n + 64 * v.port)
  | 0x008 => v.qtbase
  | 0x010 => v.rootRcb
  | 0x018 => v.asidr
  | 0x020 => v.apctl
  | 0x028 => v.apva
  | 0x030 => v.vistat
  | 0x038 => BitVec.ofNat 64 (s.firmware.running.version % 2 ^ 32 + s.firmware.running.tableVersion % 2 ^ 16 * 2 ^ 32)
  | 0x100 => s.telem.temp
  | 0x108 => s.telem.pwr
  | 0x110 => s.telem.energy
  | 0x118 => s.telem.ecccor
  | 0x120 => s.telem.eccunc
  | 0x128 => s.telem.sigmisn
  | 0x130 => s.telem.replayn
  | 0x138 => s.telem.noreplay
  | _ => 0

/-- A byte of BAR0: the interface registers, then capability space (R17, R464). -/
def State.bar0Byte (s : State) (n : Nat) (v : Vif) (off : Nat) : Byte :=
  if 0x10000 ≤ off then s.physByte (capBase + (off - 0x10000))
  else BitVec.ofNat 8 ((s.interfaceReg n v (off / 8 * 8)).toNat / 256 ^ (off % 8))

/-- A host's read of BAR0 of an interface (R464). -/
def State.hostRead (s : State) (n off len : Nat) : State :=
  s.overLink n fun v =>
    if off + len > 0x20000 then s.answer (.unsupported n)
    else s.answer (.registers n ((span off len).map (s.bar0Byte n v)))

/-- A physical function reads the device's telemetry (R462, R474). -/
def State.readTelemetry (s : State) (port : Nat) : State :=
  if !s.linkUp port || s.stage ≠ 5 then s
  else
    let t := s.telem
    s.answer (.telemetry port [t.temp, t.pwr, t.energy, t.ecccor, t.eccunc, t.sigmisn, t.replayn, t.noreplay])

/-- The slots of an interface's queues. -/
def State.slotsOf (s : State) (v : Nat) : List Nat := (s.queues.filter fun p => p.2.vif = v).map Prod.fst

/-- QTBASE_WRITE (R465): every queue of the interface is unmapped, with RDIDX written back to the old table, then the
base is set, 4 KiB aligned. The queues that wait on the overflow list stay there and are mapped from the new table. -/
def execQtbaseWrite (value : DWord) (s : State) : Result :=
  s.hostAccess fun v _ =>
    let t := (s.slotsOf v).foldl (fun s i => s.unmapSlot i false) s
    (t.modVif v fun w => { w with qtbase := value &&& ~~~0xFFF }).refillSlots

/-- VISTAT_WRITE (R465): bits written as 1 are cleared. -/
def execVistatWrite (value : DWord) (s : State) : Result :=
  s.hostAccess fun v _ => s.modVif v fun w => { w with vistat := w.vistat &&& ~~~value }

/-- VIRESET (R465): every launch of the interface is killed with cause 0. -/
def execVireset (value : DWord) (s : State) : Result :=
  s.hostAccess fun v _ =>
    if value ≠ 1 then s
    else
      ((List.range s.launches.length).filter fun k => (s.launches[k]?).any fun l => l.vif = v).foldl
        (fun s k => s.killOne 0 k) s

/-- A register with `size` bytes from `off` within it replaced. -/
def putBytes64 (old : DWord) (off size : Nat) (value : DWord) : DWord :=
  let n := min size (8 - off)
  let keep := (leBytes 8 old.toNat).zipIdx
  let new := leBytes n value.toNat
  BitVec.ofNat 64 (leNat (keep.map fun p => if off ≤ p.2 && p.2 < off + n then (new[p.2 - off]?).getD 0 else p.1))

/-- APCTL as it is kept: APEN reads 0 while APASID lies outside ASIDR. -/
def Vif.legalApctl (v : Vif) (x : DWord) : DWord :=
  let x := x &&& 0x1FF
  if v.ownsAsid (x.extractLsb' 0 8).toNat then x else x &&& 0xFF

/-- VISTAT.BADW and VISTAT.APFLT. -/
def visBadw : DWord := 1
def visApflt : DWord := 2
def State.raiseVistat (s : State) (v : Nat) (bit : DWord) : State :=
  s.modVif v fun w => { w with vistat := w.vistat ||| bit }

/-- An offset of BAR0 whose register is read-only: VIID, ROOTRCB, ASIDR, FWVER, TELEM, capability space. -/
def roOffset (off : Nat) : Bool :=
  off / 8 = 0 || off / 8 = 2 || off / 8 = 3 || off / 8 = 7 || (0x100 ≤ off && off < 0x140) || (0x10000 ≤ off && off < 0x20000)

/-- VI_REGISTER_WRITE (R464, R465): offsets of BAR0; from 0x2_0000 on they stand for the doorbell page of BAR2, where a
write of a size other than 8 bytes is dropped with BADW. -/
def execViRegisterWrite (offset size : Nat) (value : DWord) (s : State) : Result :=
  s.hostAccess fun v w =>
    if 0x20000 ≤ offset then (if offset < 0x30000 && size ≠ 8 then s.raiseVistat v visBadw else s)
    else if roOffset offset then s.raiseVistat v visBadw
    else if offset / 8 = 4 then
      s.modVif v fun w => { w with apctl := w.legalApctl (putBytes64 w.apctl (offset % 8) size value) }
    else if offset / 8 = 5 then
      s.modVif v fun _ => { w with apva := putBytes64 w.apva (offset % 8) size value &&& ~~~0xFFFFFFFF }
    else s

/-! The aperture (R466) -/

/-- Its translation: never stamp-checked, never parking. -/
def State.apertureSpan (s : State) (w : Vif) (need : Need) (offset len : Nat) : Option Span :=
  let who : Who := ⟨(w.apctl.extractLsb' 0 8).toNat, none, none, 256, 8, none⟩
  match s.translateSpan who need none false (w.apva.toNat + offset) len with
  | .inl _ => none
  | .inr sp => some sp

/-- A fault of a request (R466). -/
def State.apertureFault (s : State) (v : Nat) : State :=
  ((s.raiseVistat v visApflt).modVif v fun w => { w with aperture := none }).answer (.unsupported v)

/-- The piece of a request that holds byte `a` is read or written (R146, R466), and with the last one the request completes.
A read of poisoned data counts as a fault; a write that covers a poisoned word whole stores it whole (R452). -/
def State.aperturePiece (s : State) (v : Nat) (k : ApertureWork) (a : Nat) : State :=
  let left (x : Nat) : Bool := k.got.all fun q => q.1 ≠ x
  let (t, new) : State × List (Nat × Byte) :=
    match k.data with
    | none =>
      let pas := k.pas.filter fun x => x / 4 = a / 4 && left x
      (s, pas.zip (s.physBytes pas))
    | some bs =>
      let mends := s.mends k.pas a
      let cells := (k.pas.zip bs).filter fun q => (q.1 / 4 = a / 4 || (mends && s.eccWord q.1 = s.eccWord a)) && left q.1
      (s.putPhys cells, cells)
  if k.data.isNone && s.poisoned (new.map Prod.fst) then s.apertureFault v
  else
    let got := k.got ++ new
    if k.pas.all fun x => got.any fun q => q.1 = x then
      (t.modVif v fun w => { w with aperture := none }).answer
        (.aperture v (if k.data.isNone then k.pas.map fun x => (assocFind got x).getD 0 else []))
    else t.modVif v fun w => { w with aperture := some { k with got := got } }

/-- A request begins: translated at once, it is performed piece by piece (R146), one that is a single piece at once. -/
def State.apertureBegin (s : State) (v : Nat) (w : Vif) (need : Need) (offset len : Nat) (data : Option (List Byte)) : State :=
  if !w.apctl.getLsbD 8 || offset + len > 2 ^ 32 then s.answer (.unsupported v)
  else
    match s.apertureSpan w need offset len with
    | none => s.apertureFault v
    | some sp =>
      let t := sp.uses.foldl (fun s t => s.markUse data.isSome t) s
      let k : ApertureWork := ⟨(w.apctl.extractLsb' 0 8).toNat, w.apva.toNat + offset, sp.pas, data, []⟩
      let first := (sp.pas[0]?).getD 0
      if sp.pas.all fun x => x / 4 = first / 4 then t.aperturePiece v k first
      else t.modVif v fun w => { w with aperture := some k }

/-- APERTURE_ACCESS (R466): the host waits for its answer, in `out` (log 18). -/
def execApertureAccess (offset : Nat) (req : ApertureReq) (s : State) : Result :=
  match req with
  | .read n => s.hostAccess fun v w => s.apertureBegin v w .load offset n none
  | .write bs => s.hostAccess fun v w => s.apertureBegin v w .store offset bs.length (some bs)
  | .piece a =>
    match s.issuer with
    | .host v =>
      match (s.vifs[v]?).bind Vif.aperture with
      | some k => .next (s.aperturePiece v k a)
      | none => .next s
    | _ => .next s

/-! Management requests (R462) -/

/-- The port of a function. -/
def State.portOf (s : State) : Requester → Nat
  | .physical p => p
  | .virtual v => ((s.vifs[v]?).map Vif.port).getD 2

/-- A request of a function whose host is attached; `f` decides. -/
def State.request (s : State) (f : Requester → State) : Result :=
  match s.issuer with
  | .function fn => if s.stage = 5 && s.linkUp (s.portOf fn) then .next (f fn) else .next s
  | _ => .next s

/-- Neither complex is verified: the device exposes its physical functions alone (R470). -/
def State.halted (s : State) : Bool := s.stage ≠ 5 && !s.firmware.okA && !s.firmware.okB

/-- A physical function of a device without verified firmware reads at an offset of BAR0's layout: VISTAT and capability space
read zero, and it exposes nothing else (R470). -/
def State.physicalRead (s : State) (port offset len : Nat) : State :=
  let within (lo n : Nat) : Bool := lo ≤ offset && offset + len ≤ lo + n
  if s.halted && s.linkUp port && (within 0x30 8 || within 0x10000 0x10000) then
    s.answer (.unverified port (List.replicate len 0))
  else s

/-- A request to the root of trust, which answers the physical functions of a device without verified firmware too
(R470, R472). -/
def State.attest (s : State) (f : Requester → State) : Result :=
  match s.issuer with
  | .function (.physical p) =>
    if s.halted && s.linkUp p then .next (f (.physical p)) else s.request f
  | _ => s.request f

/-- A request that only the management owner may make (R462). -/
def State.ownerRequest (s : State) (f : Requester → State) : Result :=
  s.request fun fn => if fn = .physical s.firmware.owner then f fn else s.answer (.denied fn)

/-- SET_POWER_LIMIT (R473): 600 W to 2400 W; another value is refused (log 28). -/
def execSetPowerLimit (watts : Nat) (s : State) : Result :=
  s.ownerRequest fun fn =>
    if 600 ≤ watts && watts ≤ 2400 then ({ s with powerLimit := watts } : State).answer (.accepted fn)
    else s.answer (.denied fn)

/-- The other interfaces on a port. -/
def State.onPort (s : State) (vif port : Nat) : Nat :=
  (s.vifs.zipIdx.filter fun p => p.2 ≠ vif && p.1.port = port).length

/-- FIRMWARE_CONFIGURATION (R462): the placement of an interface on a port, which has at most 63 (R461). -/
def execFirmwareConfiguration (vif newPort : Nat) (s : State) : Result :=
  s.ownerRequest fun fn =>
    if newPort < 2 && vif < s.vifs.length && s.onPort vif newPort < 63 then (s.modVif vif fun v => { v with port := newPort }).answer (.accepted fn)
    else s.answer (.denied fn)

/-- A physical function manages the keys of the interfaces on its own port (R462, R471). -/
def State.keyRequest (s : State) (vif : Nat) (f : Requester → Vif → State) : Result :=
  s.request fun fn =>
    match fn, s.vifs[vif]? with
    | .physical p, some v => if v.port = p then f fn v else s.answer (.denied fn)
    | _, _ => s.answer (.denied fn)

/-- KEY_ENROLL (R471): up to 8 keys; a key of the same identifier is replaced. -/
def execKeyEnroll (vif : Nat) (key : Word) (body : List Byte) (s : State) : Result :=
  s.keyRequest vif fun fn v =>
    let rest := v.keys.filter fun k => k.1 ≠ key
    if rest.length ≥ 8 then s.answer (.denied fn)
    else (s.modVif vif fun v => { v with keys := rest ++ [(key, body)] }).answer (.accepted fn)

/-- KEY_REMOVE (R471): objects already loaded stay. -/
def execKeyRemove (vif : Nat) (key : Word) (s : State) : Result :=
  s.keyRequest vif fun fn _ =>
    (s.modVif vif fun v => { v with keys := v.keys.filter fun k => k.1 ≠ key }).answer (.accepted fn)

/-- The active complex hands the device to the other one, which has read the last state table: an entry recorded as started
is not started again (R468, R469). -/
def State.takeOver (s : State) : State :=
  let rd (i : Nat) (q : QSlot) : QSlot :=
    match assocFind s.firmware.table.queues i with
    | some r => if r.vif = q.vif && r.queue = q.queue then { q with rdidx := r.rdidx } else q
    | none => q
  { s with
    queues := s.queues.map fun p => (p.1, rd p.1 p.2)
    firmware := { s.firmware with activeB := !s.firmware.activeB } }

/-- The standby complex with an image that it has booted; the log keeps its digest (R472). -/
def Firmware.boot (f : Firmware) (img : FwImage) (d : List Byte) : Firmware :=
  { f with
    imageA := if f.activeB then img else f.imageA
    imageB := if f.activeB then f.imageB else img
    okA := f.okA || f.activeB
    okB := f.okB || !f.activeB
    measured := f.measured ++ [.digest d] }

/-- LIVE_UPDATE (R469): an image that is verified (R470) boots on the standby complex; it becomes active if it can import
the present state table, else the standby returns to its old image. -/
def execLiveUpdate (addr size : Nat) (s : State) : Result :=
  s.ownerRequest fun fn =>
    if addr + size > s.part.dcap then s.answer (.refusedUpdate fn)
    else
      let image := s.physBytes (span addr size)
      match Config.firmwareImage image with
      | none => s.answer (.refusedUpdate fn)
      | some (security, version, table) =>
        if security < s.part.rollback then s.answer (.refusedUpdate fn)
        else
          let d := Config.digest image
          let fw := s.firmware.boot ⟨true, security, version, table, some d⟩ d
          if Config.importsTable image s.firmware.running.tableVersion then
            (({ s.boundary with firmware := { fw with table := s.tableNow } } : State).takeOver).answer (.accepted fn)
          else
            ({ s with firmware := { s.firmware with measured := fw.measured } } : State).answer (.refusedUpdate fn)

/-- The digest that an entry of the log stands for. -/
def Measured.bytes : Measured → List Byte
  | .made b => Config.bootDigest b
  | .digest d => d

/-- The measurement log that a function reads (R472, R462): the firmware's entries, and those of the function; a physical
function reads the whole device's. -/
def State.measureLog (s : State) (fn : Requester) : List (List Byte) :=
  s.firmware.measured.map Measured.bytes ++
    match fn with
    | .physical _ => s.vifs.flatMap Vif.measured
    | .virtual v => ((s.vifs[v]?).map Vif.measured).getD []

/-- GET_MEASUREMENTS (R472). -/
def execGetMeasurements (s : State) : Result :=
  s.attest fun fn => s.answer (.measurements fn (s.measureLog fn) (Config.signLog 0 (s.measureLog fn)))

/-- VENDOR_MEASUREMENT_BLOCK (R472). -/
def execVendorMeasurementBlock (s : State) : Result :=
  s.attest fun fn => s.answer (.measurements fn (s.measureLog fn) (Config.signLog 1 (s.measureLog fn)))

/-- HEARTBEAT_TIMEOUT (R468): the standby complex, if its image is verified, takes over from the last state table. -/
def execHeartbeatTimeout (s : State) : Result :=
  match s.issuer with
  | .device =>
    if s.stage = 5 && (if s.firmware.activeB then s.firmware.okA else s.firmware.okB) then .next s.takeOver else .next s
  | _ => .next s

/-! Errors and scrubbing (R451 to R453) -/

/-- An uncorrectable error counts in ECCUNC. -/
def State.countUnc (s : State) : State := { s with telem := { s.telem with eccunc := s.telem.eccunc + 1 } }

/-- The outcome of scrubbing some code words: an address, and whether its error is uncorrectable (log 15). -/
def State.scrub (s : State) (words : List (Nat × Bool)) (size : Nat) (p : Nat → Bool) : State :=
  (words.filter fun w => p w.1 && w.1 % size = 0).foldl (fun s w =>
    if w.2 then
      ({ s with poison := if s.poison.contains w.1 then s.poison else s.poison ++ [w.1] } : State).countUnc
    else { s with telem := { s.telem with ecccor := s.telem.ecccor + 1 } }) s

/-- DRAM_REFRESH_SCRUB (R453). -/
def execDramRefreshScrub (words : List (Nat × Bool)) (s : State) : Result :=
  match s.issuer with
  | .device => .next (s.scrub words 32 fun a => s.isDram a || isBacked a)
  | _ => .next s

/-- SHEET_SCRUB (R453): the words of one core's slice. -/
def execSheetScrub (words : List (Nat × Bool)) (s : State) : Result :=
  match s.issuer with
  | .core c => .next (s.scrub words 8 fun a => s.isSheet a && (a - sheetBase) / sheetSlice = c)
  | _ => .next s

/-- An error that is found outside a scrub (R451, R452). -/
def State.upset (s : State) : Upset → State
  | .corrected => { s with telem := { s.telem with ecccor := s.telem.ecccor + 1 } }
  | .register g c => (s.modGroup g fun h => { h with bad := c :: h.bad }).countUnc
  | .xa g => (s.modGroup g fun h => { h with xaBad := true }).countUnc
  | .tile bid name key => (s.modBlock bid fun b => { b with badTiles := (name, key) :: b.badTiles }).countUnc

/-! Power (R473, R474) -/

/-- POWER_WINDOW (R473, R474): the average power of a window of 1 ms, which the device keeps at or below the limit. -/
def execPowerWindow (watts : Nat) (s : State) : Result :=
  match s.issuer with
  | .device =>
    if watts ≤ s.powerLimit then
      .next { s with telem := { s.telem with
        pwr := BitVec.ofNat 64 watts
        energy := s.telem.energy + BitVec.ofNat 64 watts } }
    else .next s
  | _ => .next s

/-- Every launch is lost. -/
def State.loseLaunches (s : State) : State :=
  (List.range s.launches.length).foldl (fun s k =>
    if (s.launches[k]?).any Launch.live then
      ((s.removeBlocks k).abortSteps k).modLaunch k fun l => { l with st := .killed, units := [] }
    else s) s

/-- The junction temperature reaches `celsius` (R473): at 115 °C the device stops and its links go down; from 105 °C on it
throttles further, and no result depends on it. -/
def State.heat (s : State) (celsius : Nat) : State :=
  let temp (t : State) : State := { t with telem := { t.telem with temp := BitVec.ofNat 64 celsius } }
  if 115 ≤ celsius then temp { s.loseLaunches with stopped := true }
  else temp { s with throttled := 105 ≤ celsius }

/-- THERMAL_THROTTLE (R473). -/
def execThermalThrottle (celsius : Nat) (s : State) : Result :=
  match s.issuer with
  | .device => .next (s.heat celsius)
  | _ => .next s

/-- THERMAL_SHUTDOWN (R473): at 115 °C the device stops. -/
def execThermalShutdown (celsius : Nat) (s : State) : Result :=
  match s.issuer with
  | .device => if celsius < 115 then .next s else .next (s.heat celsius)
  | _ => .next s

/-! The tether (R15) -/

/-- TETHER_SYNC_LOST (R15): the clock runs on; TSYNC reads 0. -/
def execTetherSyncLost (s : State) : Result :=
  match s.issuer with
  | .device => .next { s with tsync := false }
  | _ => .next s

/-- TETHER_SYNC_REGAINED (R15). -/
def execTetherSyncRegained (s : State) : Result :=
  match s.issuer with
  | .device => .next { s with tsync := true }
  | _ => .next s

/-! Reset (R475) -/

/-- The part with its retired cores fused off and the logical numbers assigned again (R7, R23). -/
def Part.without (p : Part) (retired : BitVec 256) : Part :=
  let keep := (List.range p.ncore).filter fun c => !retired.getLsbD c
  let cpos := keep.filterMap fun c => p.cpos[c]?
  { p with
    ncore := keep.length
    dieCores := (List.range 8).map fun d => (cpos.filter fun w => w.toNat % 8 = d).length
    lmaps := keep.filterMap fun c => p.lmaps[c]?
    cpos := cpos }

/-- A complex may run its image: both signatures verify, and its security version is not below the fused counter (R470). -/
def FwImage.verified (i : FwImage) (p : Part) : Bool := i.signed && p.rollback ≤ i.security

/-- The images that run once bring-up has verified them; those that fail stay halted (R470, R472). -/
def Firmware.verify (f : Firmware) (p : Part) (owner : Nat) : Firmware :=
  let a := f.imageA.verified p
  let b := f.imageB.verified p
  let log (ok second : Bool) (i : FwImage) : List Measured :=
    if ok then [(i.digest.map Measured.digest).getD (.made second)] else []
  { f with
    activeB := !a && b
    okA := a
    okB := b
    table := StateTable.reset
    measured := log a false f.imageA ++ log b true f.imageB
    owner := owner }

/-- POWER_ON_RESET (R470, R475): the first stage of bring-up, in which the firmware is verified; the host's memory, tether
time (R12), the fused configuration, the hosts' attachment and the firmware images stay; firmware writes its RCBs for the
part as it is then (R26). The management owner is port 0's
function, or the one that the fused configuration names while port 0 is not attached (R462). -/
def execPowerOnReset (s : State) : Result :=
  match s.issuer with
  | .device =>
    let part := s.part.without s.cretire
    let r := State.reset
    let rcbs := Rcb.root part :: (List.range 64).map (Rcb.interface part)
    .next { r with
      turn := s.turn
      issuer := s.issuer
      fresh := s.fresh
      time := s.time
      stage := 1
      attached := s.attached
      hostErrs := s.hostErrs
      part := part
      mem := Memory.putAt (s.mem.filter fun p => isSystem p.1) (rcbs.flatMap Rcb.cells)
      rcbs := rcbs
      firmware := s.firmware.verify part (if s.attached[0]? = some true then 0 else part.ownerAlone) }
  | _ => .next s

/-- Bring-up goes from a stage to the next: the active complex, where there is one, trains the memory interfaces and tests
the lanes, fills capability space, brings up the tether links, and the functions are enabled (R475). -/
def State.bringUp (s : State) : State :=
  if s.stage < 5 && !s.stopped && (s.firmware.okA || s.firmware.okB) then { s with stage := s.stage + 1 } else s

end Sys2Proof.Machine
end

