-- ==== Sys2Proof/Machine/Dispatch.lean ====
section
/-!
DEFINITION. The meaning of each row of the opcode table, one arm for each.
-/
namespace Sys2Proof.Machine

def exec (i : Instr) (s : State) : Host.Outcome State Fault Refusal :=
  match i with
  | .nop f => Sys2Proof.Machine.execNop f s
  | .smov f => Sys2Proof.Machine.execSmov f s
  | .smovi f => Sys2Proof.Machine.execSmovi f s
  | .smoviB64 f => Sys2Proof.Machine.execSmoviB64 f s
  | .sadd f => Sys2Proof.Machine.execSadd f s
  | .saddc f => Sys2Proof.Machine.execSaddc f s
  | .saddcC f => Sys2Proof.Machine.execSaddcC f s
  | .ssub f => Sys2Proof.Machine.execSsub f s
  | .ssubb f => Sys2Proof.Machine.execSsubb f s
  | .ssubbC f => Sys2Proof.Machine.execSsubbC f s
  | .smul f => Sys2Proof.Machine.execSmul f s
  | .smulh f => Sys2Proof.Machine.execSmulh f s
  | .sand f => Sys2Proof.Machine.execSand f s
  | .sor f => Sys2Proof.Machine.execSor f s
  | .sxor f => Sys2Proof.Machine.execSxor f s
  | .sandn f => Sys2Proof.Machine.execSandn f s
  | .sshl f => Sys2Proof.Machine.execSshl f s
  | .sshr f => Sys2Proof.Machine.execSshr f s
  | .ssra f => Sys2Proof.Machine.execSsra f s
  | .smin f => Sys2Proof.Machine.execSmin f s
  | .smax f => Sys2Proof.Machine.execSmax f s
  | .sset f => Sys2Proof.Machine.execSset f s
  | .ssel f => Sys2Proof.Machine.execSsel f s
  | .sclz f => Sys2Proof.Machine.execSclz f s
  | .sffs f => Sys2Proof.Machine.execSffs f s
  | .spopc f => Sys2Proof.Machine.execSpopc f s
  | .saddp f => Sys2Proof.Machine.execSaddp f s
  | .slea f => Sys2Proof.Machine.execSlea f s
  | .ixset f => Sys2Proof.Machine.execIxset f s
  | .kmov f => Sys2Proof.Machine.execKmov f s
  | .kand f => Sys2Proof.Machine.execKand f s
  | .kor f => Sys2Proof.Machine.execKor f s
  | .kxor f => Sys2Proof.Machine.execKxor f s
  | .kandn f => Sys2Proof.Machine.execKandn f s
  | .knot f => Sys2Proof.Machine.execKnot f s
  | .kpopc f => Sys2Proof.Machine.execKpopc f s
  | .kffs f => Sys2Proof.Machine.execKffs f s
  | .bra f => Sys2Proof.Machine.execBra f s
  | .brc f => Sys2Proof.Machine.execBrc f s
  | .bsplit f => Sys2Proof.Machine.execBsplit f s
  | .bjoin f => Sys2Proof.Machine.execBjoin f s
  | .call f => Sys2Proof.Machine.execCall f s
  | .calli f => Sys2Proof.Machine.execCalli f s
  | .callt f => Sys2Proof.Machine.execCallt f s
  | .ret f => Sys2Proof.Machine.execRet f s
  | .exit f => Sys2Proof.Machine.execExit f s
  | .yield f => Sys2Proof.Machine.execYield f s
  | .bbar f => Sys2Proof.Machine.execBbar f s
  | .gbar f => Sys2Proof.Machine.execGbar f s
  | .trap f => Sys2Proof.Machine.execTrap f s
  | .eret f => Sys2Proof.Machine.execEret f s
  | .sigset f => Sys2Proof.Machine.execSigset f s
  | .srd f => Sys2Proof.Machine.execSrd f s
  | .srdTimelo f => Sys2Proof.Machine.execSrdTimelo f s
  | .srdTimehi f => Sys2Proof.Machine.execSrdTimehi f s
  | .swr f => Sys2Proof.Machine.execSwr f s
  | .swrGstat f => Sys2Proof.Machine.execSwrGstat f s
  | .brk f => Sys2Proof.Machine.execBrk f s
  | .clauseHeader f => Sys2Proof.Machine.execClauseHeader f s
  | .vmov f => Sys2Proof.Machine.execVmov f s
  | .vmovi f => Sys2Proof.Machine.execVmovi f s
  | .vadd f => Sys2Proof.Machine.execVadd f s
  | .vsub f => Sys2Proof.Machine.execVsub f s
  | .vmul f => Sys2Proof.Machine.execVmul f s
  | .vmulh f => Sys2Proof.Machine.execVmulh f s
  | .vmad f => Sys2Proof.Machine.execVmad f s
  | .vabsd f => Sys2Proof.Machine.execVabsd f s
  | .vmin f => Sys2Proof.Machine.execVmin f s
  | .vmax f => Sys2Proof.Machine.execVmax f s
  | .vand f => Sys2Proof.Machine.execVand f s
  | .vor f => Sys2Proof.Machine.execVor f s
  | .vxor f => Sys2Proof.Machine.execVxor f s
  | .vandn f => Sys2Proof.Machine.execVandn f s
  | .vshl f => Sys2Proof.Machine.execVshl f s
  | .vshr f => Sys2Proof.Machine.execVshr f s
  | .vsra f => Sys2Proof.Machine.execVsra f s
  | .vrot f => Sys2Proof.Machine.execVrot f s
  | .vclz f => Sys2Proof.Machine.execVclz f s
  | .vffs f => Sys2Proof.Machine.execVffs f s
  | .vpopc f => Sys2Proof.Machine.execVpopc f s
  | .vbrev f => Sys2Proof.Machine.execVbrev f s
  | .vbfe f => Sys2Proof.Machine.execVbfe f s
  | .vbfi f => Sys2Proof.Machine.execVbfi f s
  | .vset f => Sys2Proof.Machine.execVset f s
  | .vsel f => Sys2Proof.Machine.execVsel f s
  | .vsat f => Sys2Proof.Machine.execVsat f s
  | .vpack f => Sys2Proof.Machine.execVpack f s
  | .vunpk f => Sys2Proof.Machine.execVunpk f s
  | .vshfl f => Sys2Proof.Machine.execVshfl f s
  | .vshfi f => Sys2Proof.Machine.execVshfi f s
  | .vbcast f => Sys2Proof.Machine.execVbcast f s
  | .vcmprs f => Sys2Proof.Machine.execVcmprs f s
  | .vlane f => Sys2Proof.Machine.execVlane f s
  | .vrdln f => Sys2Proof.Machine.execVrdln f s
  | .vwrln f => Sys2Proof.Machine.execVwrln f s
  | .vred f => Sys2Proof.Machine.execVred f s
  | .fadd f => Sys2Proof.Machine.execFadd f s
  | .fsub f => Sys2Proof.Machine.execFsub f s
  | .fmul f => Sys2Proof.Machine.execFmul f s
  | .ffma f => Sys2Proof.Machine.execFfma f s
  | .fmin f => Sys2Proof.Machine.execFmin f s
  | .fmax f => Sys2Proof.Machine.execFmax f s
  | .fabs f => Sys2Proof.Machine.execFabs f s
  | .fneg f => Sys2Proof.Machine.execFneg f s
  | .fcpsn f => Sys2Proof.Machine.execFcpsn f s
  | .fset f => Sys2Proof.Machine.execFset f s
  | .fclass f => Sys2Proof.Machine.execFclass f s
  | .frnd f => Sys2Proof.Machine.execFrnd f s
  | .fcvt f => Sys2Proof.Machine.execFcvt f s
  | .fcvti f => Sys2Proof.Machine.execFcvti f s
  | .icvtf f => Sys2Proof.Machine.execIcvtf f s
  | .fdot2 f => Sys2Proof.Machine.execFdot2 f s
  | .xclr f => Sys2Proof.Machine.execXclr f s
  | .xadd f => Sys2Proof.Machine.execXadd f s
  | .xmadd f => Sys2Proof.Machine.execXmadd f s
  | .xrnd f => Sys2Proof.Machine.execXrnd f s
  | .xscan f => Sys2Proof.Machine.execXscan f s
  | .xrd f => Sys2Proof.Machine.execXrd f s
  | .xwr f => Sys2Proof.Machine.execXwr f s
  | .xstat f => Sys2Proof.Machine.execXstat f s
  | .ex2f f => Sys2Proof.Machine.execEx2f f s
  | .ex2r f => Sys2Proof.Machine.execEx2r f s
  | .lg2f f => Sys2Proof.Machine.execLg2f f s
  | .lg2r f => Sys2Proof.Machine.execLg2r f s
  | .rcpf f => Sys2Proof.Machine.execRcpf f s
  | .rcpr f => Sys2Proof.Machine.execRcpr f s
  | .rsqf f => Sys2Proof.Machine.execRsqf f s
  | .rsqr f => Sys2Proof.Machine.execRsqr f s
  | .sqtf f => Sys2Proof.Machine.execSqtf f s
  | .sqtr f => Sys2Proof.Machine.execSqtr f s
  | .divf f => Sys2Proof.Machine.execDivf f s
  | .divr f => Sys2Proof.Machine.execDivr f s
  | .sinf f => Sys2Proof.Machine.execSinf f s
  | .sinr f => Sys2Proof.Machine.execSinr f s
  | .cosf f => Sys2Proof.Machine.execCosf f s
  | .cosr f => Sys2Proof.Machine.execCosr f s
  | .tnhf f => Sys2Proof.Machine.execTnhf f s
  | .tnhr f => Sys2Proof.Machine.execTnhr f s
  | .sigf f => Sys2Proof.Machine.execSigf f s
  | .sigr f => Sys2Proof.Machine.execSigr f s
  | .qscl f => Sys2Proof.Machine.execQscl f s
  | .qzp f => Sys2Proof.Machine.execQzp f s
  | .qcvt f => Sys2Proof.Machine.execQcvt f s
  | .dqcvt f => Sys2Proof.Machine.execDqcvt f s
  | .kbpack f => Sys2Proof.Machine.execKbpack f s
  | .kbunpk f => Sys2Proof.Machine.execKbunpk f s
  | .rngk f => Sys2Proof.Machine.execRngk f s
  | .rngkB64 f => Sys2Proof.Machine.execRngkB64 f s
  | .rng f => Sys2Proof.Machine.execRng f s
  | .rngf f => Sys2Proof.Machine.execRngf f s
  | .ld f => Sys2Proof.Machine.execLd f s
  | .lds f => Sys2Proof.Machine.execLds f s
  | .ldb f => Sys2Proof.Machine.execLdb f s
  | .st f => Sys2Proof.Machine.execSt f s
  | .sts f => Sys2Proof.Machine.execSts f s
  | .stb f => Sys2Proof.Machine.execStb f s
  | .atom f => Sys2Proof.Machine.execAtom f s
  | .acas f => Sys2Proof.Machine.execAcas f s
  | .atoms f => Sys2Proof.Machine.execAtoms f s
  | .acass f => Sys2Proof.Machine.execAcass f s
  | .prfm f => Sys2Proof.Machine.execPrfm f s
  | .sgjoin f => Sys2Proof.Machine.execSgjoin f s
  | .sgleave f => Sys2Proof.Machine.execSgleave f s
  | .sgqry f => Sys2Proof.Machine.execSgqry f s
  | .pfmap f => Sys2Proof.Machine.execPfmap f s
  | .pfpark f => Sys2Proof.Machine.execPfpark f s
  | .tlbi f => Sys2Proof.Machine.execTlbi f s
  | .accessPerform ser => Sys2Proof.Machine.execAccessPerform ser s
  | .cpys f => Sys2Proof.Machine.execCpys f s
  | .cpyt f => Sys2Proof.Machine.execCpyt f s
  | .cpye f => Sys2Proof.Machine.execCpye f s
  | .cpwp f => Sys2Proof.Machine.execCpwp f s
  | .cpwait f => Sys2Proof.Machine.execCpwait f s
  | .cpcan f => Sys2Proof.Machine.execCpcan f s
  | .cpqry f => Sys2Proof.Machine.execCpqry f s
  | .mbar f => Sys2Proof.Machine.execMbar f s
  | .mwait f => Sys2Proof.Machine.execMwait f s
  | .marrw f => Sys2Proof.Machine.execMarrw f s
  | .atov f => Sys2Proof.Machine.execAtov f s
  | .vtoa f => Sys2Proof.Machine.execVtoa f s
  | .mset f => Sys2Proof.Machine.execMset f s
  | .msetHi f => Sys2Proof.Machine.execMsetHi f s
  | .madd f => Sys2Proof.Machine.execMadd f s
  | .mbnz f => Sys2Proof.Machine.execMbnz f s
  | .mbra f => Sys2Proof.Machine.execMbra f s
  | .mwaitb f => Sys2Proof.Machine.execMwaitb f s
  | .marrb f => Sys2Proof.Machine.execMarrb f s
  | .malloc f => Sys2Proof.Machine.execMalloc f s
  | .mfree f => Sys2Proof.Machine.execMfree f s
  | .mzero f => Sys2Proof.Machine.execMzero f s
  | .mma f => Sys2Proof.Machine.execMma f s
  | .mmas f => Sys2Proof.Machine.execMmas f s
  | .mmaz f => Sys2Proof.Machine.execMmaz f s
  | .mmag f => Sys2Proof.Machine.execMmag f s
  | .mdrn f => Sys2Proof.Machine.execMdrn f s
  | .mdrna f => Sys2Proof.Machine.execMdrna f s
  | .mend f => Sys2Proof.Machine.execMend f s
  | .tmload f => Sys2Proof.Machine.execTmload f s
  | .tmstep f => Sys2Proof.Machine.execTmstep f s
  | .tmmask f => Sys2Proof.Machine.execTmmask f s
  | .tmqry f => Sys2Proof.Machine.execTmqry f s
  | .tmsave f => Sys2Proof.Machine.execTmsave f s
  | .sample f => Sys2Proof.Machine.execSample f s
  | .sargmx f => Sys2Proof.Machine.execSargmx f s
  | .tkbeg f => Sys2Proof.Machine.execTkbeg f s
  | .tkend f => Sys2Proof.Machine.execTkend f s
  | .tkwait f => Sys2Proof.Machine.execTkwait f s
  | .tkpass f => Sys2Proof.Machine.execTkpass f s
  | .cllred f => Sys2Proof.Machine.execCllred f s
  | .reductionStepRun step offers => Sys2Proof.Machine.execReductionStepRun step offers s
  | .cllqry f => Sys2Proof.Machine.execCllqry f s
  | .contq f => Sys2Proof.Machine.execContq f s
  | .twait f => Sys2Proof.Machine.execTwait f s
  | .nemit f => Sys2Proof.Machine.execNemit f s
  | .nodeGatherTimer node => Sys2Proof.Machine.execNodeGatherTimer node s
  | .blockAdmit cand core => Sys2Proof.Machine.execBlockAdmit cand core s
  | .blockReadmit core => Sys2Proof.Machine.execBlockReadmit core s
  | .parkedFaultRetry p => Sys2Proof.Machine.execParkedFaultRetry p s
  | .preempt cores => Sys2Proof.Machine.execPreempt cores s
  | .snapshotUnitCopy unit => Sys2Proof.Machine.execSnapshotUnitCopy unit s
  | .doorbell queue value => Sys2Proof.Machine.execDoorbell queue value s
  | .qtbaseWrite value => Sys2Proof.Machine.execQtbaseWrite value s
  | .vistatWrite value => Sys2Proof.Machine.execVistatWrite value s
  | .vireset value => Sys2Proof.Machine.execVireset value s
  | .viRegisterWrite offset size value => Sys2Proof.Machine.execViRegisterWrite offset size value s
  | .apertureAccess offset req => Sys2Proof.Machine.execApertureAccess offset req s
  | .setPowerLimit watts => Sys2Proof.Machine.execSetPowerLimit watts s
  | .powerWindow watts => Sys2Proof.Machine.execPowerWindow watts s
  | .thermalThrottle celsius => Sys2Proof.Machine.execThermalThrottle celsius s
  | .thermalShutdown celsius => Sys2Proof.Machine.execThermalShutdown celsius s
  | .keyEnroll vif key body => Sys2Proof.Machine.execKeyEnroll vif key body s
  | .keyRemove vif key => Sys2Proof.Machine.execKeyRemove vif key s
  | .liveUpdate addr size => Sys2Proof.Machine.execLiveUpdate addr size s
  | .dramRefreshScrub words => Sys2Proof.Machine.execDramRefreshScrub words s
  | .sheetScrub words => Sys2Proof.Machine.execSheetScrub words s
  | .illegalOpcode w => Sys2Proof.Machine.execIllegalOpcode w s
  | .illegalMatrixWord w => Sys2Proof.Machine.execIllegalMatrixWord w s
  | .setupExchange answers => Sys2Proof.Machine.execSetupExchange answers s
  | .stepAbort step => Sys2Proof.Machine.execStepAbort step s
  | .firmwareConfiguration vif newPort => Sys2Proof.Machine.execFirmwareConfiguration vif newPort s
  | .pageWalk => Sys2Proof.Machine.execPageWalk s
  | .copyStart => Sys2Proof.Machine.execCopyStart s
  | .copyChunk => Sys2Proof.Machine.execCopyChunk s
  | .copyResume => Sys2Proof.Machine.execCopyResume s
  | .matrixWordDone => Sys2Proof.Machine.execMatrixWordDone s
  | .gangPartRun => Sys2Proof.Machine.execGangPartRun s
  | .ticketRelease => Sys2Proof.Machine.execTicketRelease s
  | .tetherMemberLost => Sys2Proof.Machine.execTetherMemberLost s
  | .twaitExpiry => Sys2Proof.Machine.execTwaitExpiry s
  | .pendingToActive => Sys2Proof.Machine.execPendingToActive s
  | .activeSetExchange => Sys2Proof.Machine.execActiveSetExchange s
  | .blockSwapOut => Sys2Proof.Machine.execBlockSwapOut s
  | .parktExpiry => Sys2Proof.Machine.execParktExpiry s
  | .coreRetire => Sys2Proof.Machine.execCoreRetire s
  | .quantumExpiry => Sys2Proof.Machine.execQuantumExpiry s
  | .launchComplete => Sys2Proof.Machine.execLaunchComplete s
  | .timedLaunchStart => Sys2Proof.Machine.execTimedLaunchStart s
  | .queueIdleUnmap => Sys2Proof.Machine.execQueueIdleUnmap s
  | .launch => Sys2Proof.Machine.execLaunch s
  | .wait => Sys2Proof.Machine.execWait s
  | .waitSatisfied => Sys2Proof.Machine.execWaitSatisfied s
  | .signal => Sys2Proof.Machine.execSignal s
  | .load => Sys2Proof.Machine.execLoad s
  | .unload => Sys2Proof.Machine.execUnload s
  | .rcbsync => Sys2Proof.Machine.execRcbsync s
  | .asidset => Sys2Proof.Machine.execAsidset s
  | .pool => Sys2Proof.Machine.execPool s
  | .resume => Sys2Proof.Machine.execResume s
  | .commcreate => Sys2Proof.Machine.execCommcreate s
  | .commcreateTimeout => Sys2Proof.Machine.execCommcreateTimeout s
  | .commdestroy => Sys2Proof.Machine.execCommdestroy s
  | .faultq => Sys2Proof.Machine.execFaultq s
  | .quantum => Sys2Proof.Machine.execQuantum s
  | .getMeasurements => Sys2Proof.Machine.execGetMeasurements s
  | .vendorMeasurementBlock => Sys2Proof.Machine.execVendorMeasurementBlock s
  | .heartbeatTimeout => Sys2Proof.Machine.execHeartbeatTimeout s
  | .tetherSyncLost => Sys2Proof.Machine.execTetherSyncLost s
  | .tetherSyncRegained => Sys2Proof.Machine.execTetherSyncRegained s
  | .powerOnReset => Sys2Proof.Machine.execPowerOnReset s

end Sys2Proof.Machine
end

