-- ==== Sys2Proof/Machine/Firmware.lean ====
section
/-!
DEFINITION. Firmware's trap handlers (R218, R446; log 12): the first-touch handler of the firmware trap table, and the
bind service behind TRAP 1. Each runs whole in one step, since the manual gives its effect and not its code.
-/
namespace Sys2Proof.Machine

/-- The slot stands at an entry of firmware's trap table (R446). -/
def State.inFirmware (_s : State) (c : Ctx) : Bool :=
  c.h.sup && 0x0F010000 ≤ c.sl.pc.toNat && c.sl.pc.toNat < 0x0F020000

/-- The first-touch handler (R255 to R258): PFMAP on the faulting page, then ERET, or PFPARK when no page could be
mapped. -/
def State.firstTouchHandler (s : State) (c : Ctx) : State :=
  let va := s.frameNum c.g c.h 0x10 8
  match s.mapPage c.b.lid va with
  | (t, 0, _) => t.leaveHandler c.g none
  | (t, 1, _) => t.leaveHandler c.g none
  | (t, _, _) => t.leaveHandler c.g c.h.trapped

/-- The bind service (R446): the address of the symbol that the entry at s2:s3 names, in s6:s7. -/
def State.bindService (s : State) (c : Ctx) : State :=
  let va := ofWords [c.h.cell (.s 2), c.h.cell (.s 3)]
  match s.bindEntry c.l.asid va with
  | none => s.killGroup c.g trapSWTRAP
  | some (addr, t) =>
    (t.modGroup c.g fun h => h.setCells ([RegCell.s 6, .s 7].zip (wordsOf 2 addr))).leaveHandler c.g none

/-- The handler that a slot stands at. An entry without a handler kills the launch (R30). -/
def State.firmwareRun (s : State) (c : Ctx) : State :=
  if !s.mayIssue c || !c.sl.canIssue then s
  else
    let code := (c.sl.pc.toNat - 0x0F010000) / 64
    if code = trapPGFLT then s.firstTouchHandler c
    else if code = trapSWTRAP && s.frameNum c.g c.h 0x04 4 = 1 then s.bindService c
    else s.killGroup c.g code

end Sys2Proof.Machine
end

