-- ==== Sys2Proof/Machine/Placed.lean ====
section
/-!
DEFINITION. A program placed in the device without a host: one launch of one block of one group on core 0, with its page
tables, its clause and its stream (log 5). It stands for LOAD, LAUNCH and BLOCK_ADMIT.
-/
namespace Sys2Proof.Machine

/-- Addresses of the placed program's tables, and of its page, whose virtual address is the same. -/
def placedRoot : Nat := 0x1000
def placedPage : Nat := 0x20000

/-- The tables that map the page, and the page's first words. -/
def placedMem (m : Memory) (ws : List DWord) : Memory :=
  let entry (m : Memory) (a : Nat) (e : Nat) : Memory := m.putNum a 8 e
  let m := entry m placedRoot (0x2000 + 1)
  let m := entry m 0x2000 (0x3000 + 1)
  let m := entry m 0x3000 (0x4000 + 1)
  let m := entry m (0x4000 + 8 * 2) (0x4100 + 1)
  let m := entry m 0x4100 (placedPage + 0x5F)
  m.putBytes placedPage (ws.flatMap fun w => leBytes 8 w.toNat)

/-- The launch of the placed program. -/
def placedLaunch : Launch where
  st := .running
  vif := 0
  queue := 0
  cmd := 0
  lpb := 0
  codeh := 0
  entry := 0
  kernelPc := BitVec.ofNat 64 placedPage
  mseqPc := none
  gx := 1
  gy := 1
  gz := 1
  ngrp := 1
  trav := 0
  swz := 0
  contract := 5
  det := false
  gridbar := false
  timed := false
  nsreg := 64
  nvreg := 64
  taild := 16
  acc := 0
  snap := false
  retry := 0
  sheet := 0x10000
  stage := 0x40000
  args := 0
  rcb := 0x10000
  asid := 1
  signal := ⟨0, 0⟩
  tstart := 0
  late := false
  seed := 0
  tvec := firmwareTable
  nodes := []
  gathers := []
  nextBseq := 1
  waiting := none
  gridGen := 0
  units := []
  replayable := false
  replays := 0
  mapped := []
  steps := []

/-- The group of the placed program: slot A at `pc`, in the clause `c`. -/
def placedGroup (pc : DWord) (c : Option Clause) : Group :=
  (Group.start placedLaunch pc allLanes []).modSlot .a fun sl => { sl with clause := c }

/-- The block of the placed program. -/
def placedBlock (lid : Nat) (g : Group) (q : Option Sequencer) : Block :=
  { Block.blank lid none 0 0 (0, 0, 0) with
    slots := [0]
    shareLen := 0x10000
    groups := [g]
    seqr := q }

/-- The device with the placed program, and who moves next. -/
def State.place (s : State) (ws : List DWord) (g : Group) (q : Option Sequencer) (next : Party) : State :=
  let s := s.modCore 0 fun c => { c with active := ⟨s.blocks.length, 0⟩ :: c.active }
  { s with
    turn := [.issue next]
    mem := placedMem s.mem ws
    asids := assocPut s.asids 1 placedRoot
    launches := s.launches ++ [placedLaunch]
    blocks := s.blocks ++ [placedBlock s.launches.length g q] }

/-- A clause of one instruction: its header and the word. -/
def clauseOfOne (w : DWord) : Clause where
  hdr := BitVec.ofNat 64 placedPage
  cls := (w.extractLsb' 61 3).toNat
  words := [w]
  pos := 0
  sck := false
  sig := 0xFFFF
  whole := true

/-- A word placed so that the next step fetches it: a header at the slot's PC, an instruction in a clause of its own, a
matrix-stream word at the sequencer's PC. -/
def State.placeWord (s : State) (w : DWord) : State :=
  let pc : DWord := BitVec.ofNat 64 placedPage
  let g : GRef := ⟨s.blocks.length, 0⟩
  let matrix := match decodeClauseWord w, decodeMatrix w with
    | .illegalOpcode _, .illegalMatrixWord _ => false
    | .illegalOpcode _, _ => true
    | _, _ => false
  if isHeader w then s.place [w] (placedGroup pc none) none (.slot g .a)
  else if matrix then
    s.place [w] (placedGroup pc none) (some (Sequencer.start 0 (Block.blank 0 none 0 0 (0, 0, 0)) 1 pc))
      (.block s.blocks.length)
  else
    s.place [headerOf 1 (w.extractLsb' 61 3), w] (placedGroup (pc + 8) (some (clauseOfOne w))) none (.slot g .a)

end Sys2Proof.Machine
end

