-- ==== Sys2Proof/Machine/Step.lean ====
section
/-!
DEFINITION. One step of the device: one move of one party (log 2), and State.withFetchWord, the state in which a given
word is the next to run (log 5).
-/
namespace Sys2Proof.Machine

/-- A party acts with what it has fetched. -/
def runFetched (p : Party) (dec : DWord → Instr) : Fetched → Result
  | .word w s => exec (dec w) { s with issuer := p }
  | .header w s => exec (decodeHeader w) { s with issuer := p }
  | .done s => .next s

/-- One move. -/
def State.act (s : State) : Actor → Result
  | .issue (.slot g x) =>
    match s.ctxOf g x with
    | none => .next s
    | some c =>
      if s.inFirmware c then .next (s.firmwareRun c)
      else runFetched (.slot g x) decodeInstr (s.slotWord c)
  | .issue (.block bid) => runFetched (.block bid) decodeMatrix (s.seqrWord bid)
  | .issue _ => .next s
  | .event p i => if isEvent i then exec i { s with issuer := p } else .next s
  | .hostStore cells => .next (s.hostStores cells)
  | .hostErrors addrs => .next { s with hostErrs := addrs.filter isSystem }
  | .hostRead v off len => .next (s.hostRead v off len)
  | .telemetryRead p => .next (s.readTelemetry p)
  | .physicalRead p off len => .next (s.physicalRead p off len)
  | .attach p on => .next { s with attached := s.attached.set p on }
  | .upset u => .next (s.upset u)
  | .bringUp => .next s.bringUp

/-- A reset of the device (R475). -/
def isReset : Actor → Bool
  | .event .device .powerOnReset => true
  | _ => false

/-- One step: who moves acts, and time goes on. A device that has shut down does nothing until the host resets it
(R473). -/
def step (s : State) : Result :=
  let (a, t) := s.nextActor
  if s.stopped && !isReset a then .fault .shutDown else tickResult (t.act a)

/-- The device with a word placed where the next step fetches its next instruction (log 5): the word's bits above
`nbits` are zero. -/
def State.withFetchWord (s : State) (nbits w : Nat) : State :=
  s.placeWord (BitVec.ofNat 64 (w % 2 ^ (min nbits 64)))

end Sys2Proof.Machine
end

