-- ==== Sys2Proof/Safety.lean ====
section
/-!
DEFINITION. The terms in which statements speak: sound tables, a safe step, an instruction that ends quietly and whose
checks pass, and what stays as it was.
-/
namespace Sys2Proof.Machine

/-- Every table of a group is in canonical form. -/
def Group.wf (g : Group) : Bool :=
  assocWf 0 g.s && assocWf 0 g.sb && assocWf 0 g.v && assocWf 0 g.vb && assocWf 0 g.ix

/-- A step that neither faults nor refuses. -/
def Safe (s : State) : Prop := ∃ t, step s = .next t

/-- Slot c.x of group c.g issues, and nothing but the instruction itself happens at its end: no FPEXC is pending (R297),
no single step is armed (R227), and its clause carries no signature (R82). -/
structure Quiet (s : State) (c : Ctx) : Prop where
  issues : s.ctx? = some c
  fpx : c.sl.fpx = none
  step : c.h.step = .off
  sck : ∀ k, c.sl.clause = some k → k.sck = false

/-- Every check of R108 passes for the plan p, whose fields name the operands os, the scoreboard does not hold the
instruction back (R98, R101), and nothing that it reads holds an uncorrectable error (R452). -/
structure Passes (c : Ctx) (p : Plan) (os : List Opnd) : Prop where
  legal : p.legal = true
  named : p.uses.map (fun u => (resolve c.ix u.want u.field).map (Opnd.shift u.above)) = os.map some
  mode : p.priv = true → c.h.sup = true
  exist : ∀ o ∈ os, o.inBounds c.nS c.nV c.h.sup = true
  free : c.h.busy (c.touchedCells p (p.uses.zip os)) = false
  fresh : c.h.sbchk.getLsbD 0 = true → ∀ x ∈ c.readCells p (p.uses.zip os), c.h.stale c.x x = false
  sound : c.readsBad p (p.uses.zip os) = false

/-- The word at which the slot issues is the last of its clause (R79). -/
def Ctx.lastWord (c : Ctx) : Bool := c.sl.clause.all fun k => k.words.length ≤ k.pos + 1

/-- The issuing slot past its instruction: the signature updated with `op`, the PC at `next`, and the clause one word
further or ended (R79, R82, R99). -/
def State.ended (s : State) (c : Ctx) (op : BitVec 10) (stl : BitVec 4) (next : DWord) : State :=
  (s.modSlot c.g c.x fun sl => (sl.retire ⟨op, stl, false, next, none⟩).1).clauseGoesOn c c.lastWord

/-- The issuing group with a fixed-latency effect, the slot past the instruction. -/
def State.withEffect (s : State) (c : Ctx) (iword : DWord) (op : BitVec 10) (stl : BitVec 4) (lat : Nat) (e : Eff) : State :=
  (s.modGroup c.g fun h => h.applyEff c.x iword lat e).ended c op stl (c.sl.pc + 8)

/-- What a core holds but for the slots in the middle of a clause. -/
def Core.sets (k : Core) : List GRef × List (GRef × Nat) × Nat × List Nat := (k.active, k.pending, k.lastExchange, k.gondola)

/-- The two states hold the same memory, byte for byte, the same poisoned words, launches and copies, the same sets of groups
in every core, and the same groups but for the one at g. -/
structure SameElsewhere (g : GRef) (s t : State) : Prop where
  mem : t.mem = s.mem
  poison : t.poison = s.poison
  launches : t.launches = s.launches
  copies : t.copies = s.copies
  cores : t.cores.map Core.sets = s.cores.map Core.sets
  groups : ∀ k, k ≠ g → t.group? k = s.group? k

end Sys2Proof.Machine
end

