-- ==== Sys2Proof/Safety/Tables.lean ====
section
/-!
DEFINITION. The tables of the manual and the terms that the statements speak of.
-/
namespace Sys2Proof.Machine

/-! Scalar registers -/

/-- A row of the scalar ALU table of R203 with the latencies of R207: the word's fields and opcode, the form, the
latencies at 32 and 64 bits, and the result on operands of width w read as bit vectors; B and C are given as 32 bits
too. -/
structure ScalarRow where
  f : WordS
  op : BitVec 10
  form : ScalarForm
  lat32 : Nat
  lat64 : Nat
  value : (w : Nat) → BitVec w → BitVec w → Word → Word → Nat

/-- The comparisons of SSET and VSET (R203, R277): 0 eq, 1 ne, 2 lt, 3 le, 4 gt, 5 ge. -/
def compared (signed : Bool) (cc : Nat) {w : Nat} (a b : BitVec w) : Bool :=
  match cc with
  | 0 => a == b
  | 1 => a != b
  | 2 => if signed then a.slt b else a.ult b
  | 3 => if signed then a.sle b else a.ule b
  | 4 => if signed then b.slt a else b.ult a
  | _ => if signed then b.sle a else b.ule a

/-- The rows of R203. -/
def scalarRow : Instr → Option ScalarRow
  | .smov f => some ⟨f, 0x002, form1, 2, 3, fun _ a _ _ _ => a.toNat⟩
  | .sadd f => some ⟨f, 0x004, form2, 2, 3, fun _ a b _ _ => (a + b).toNat⟩
  | .saddc f => some ⟨f, 0x005, form3, 2, 3, fun w a b _ c => (a + b + BitVec.ofNat w (c.toNat % 2)).toNat⟩
  | .saddcC f => some ⟨f, 0x005, formCarry, 2, 3, fun w a b _ c =>
      if 2 ^ w ≤ a.toNat + b.toNat + c.toNat % 2 then 1 else 0⟩
  | .ssub f => some ⟨f, 0x006, form2, 2, 3, fun _ a b _ _ => (a - b).toNat⟩
  | .ssubb f => some ⟨f, 0x007, form3, 2, 3, fun w a b _ c => (a - b - BitVec.ofNat w (c.toNat % 2)).toNat⟩
  | .ssubbC f => some ⟨f, 0x007, formCarry, 2, 3, fun _ a b _ c => if a.toNat < b.toNat + c.toNat % 2 then 1 else 0⟩
  | .smul f => some ⟨f, 0x008, { form2 with lat32 := 4, lat64 := 6 }, 4, 6, fun _ a b _ _ => (a * b).toNat⟩
  | .smulh f => some ⟨f, 0x009, { formSN with lat32 := 4, lat64 := 6 }, 4, 6, fun w a b _ _ =>
      if tySigned f.ty.toNat then (BitVec.ofInt w (a.toInt * b.toInt / 2 ^ w)).toNat else a.toNat * b.toNat / 2 ^ w⟩
  | .sand f => some ⟨f, 0x00A, form2, 2, 3, fun _ a b _ _ => (a &&& b).toNat⟩
  | .sor f => some ⟨f, 0x00B, form2, 2, 3, fun _ a b _ _ => (a ||| b).toNat⟩
  | .sxor f => some ⟨f, 0x00C, form2, 2, 3, fun _ a b _ _ => (a ^^^ b).toNat⟩
  | .sandn f => some ⟨f, 0x00D, form2, 2, 3, fun _ a b _ _ => (a &&& ~~~b).toNat⟩
  | .sshl f => some ⟨f, 0x00E, formShift, 2, 3, fun _ a _ n _ => (a <<< n.toNat).toNat⟩
  | .sshr f => some ⟨f, 0x00F, formShift, 2, 3, fun _ a _ n _ => (a >>> n.toNat).toNat⟩
  | .ssra f => some ⟨f, 0x010, formShift, 2, 3, fun _ a _ n _ => (a.sshiftRight n.toNat).toNat⟩
  | .smin f => some ⟨f, 0x011, formSN, 2, 3, fun _ a b _ _ =>
      if compared (tySigned f.ty.toNat) 3 a b then a.toNat else b.toNat⟩
  | .smax f => some ⟨f, 0x012, formSN, 2, 3, fun _ a b _ _ =>
      if compared (tySigned f.ty.toNat) 3 a b then b.toNat else a.toNat⟩
  | .sset f => some ⟨f, 0x013,
      { form2 with
        dOne := true
        subs := fun cc => cc ≤ 5
        types := fun t cc => tyScalar t && (cc < 2 || tyInt32 t) }, 2, 3,
      fun _ a b _ _ => if compared (tySigned f.ty.toNat) f.sub.toNat a b then 1 else 0⟩
  | .ssel f => some ⟨f, 0x014, form3, 2, 3, fun _ a b _ c => if c ≠ 0 then a.toNat else b.toNat⟩
  | .sclz f => some ⟨f, 0x015, formCount, 3, 3, fun w a _ _ _ =>
      ((List.range w).reverse.takeWhile fun i => !a.getLsbD i).length⟩
  | .sffs f => some ⟨f, 0x016, formCount, 3, 3, fun w a _ _ _ =>
      ((List.range w).takeWhile fun i => !a.getLsbD i).length⟩
  | .spopc f => some ⟨f, 0x017, formCount, 3, 3, fun w a _ _ _ => (List.range w).countP fun i => a.getLsbD i⟩
  | .saddp f => some ⟨f, 0x018, { formShift with types := fun t _ => t = tB64, lat32 := 3 }, 3, 3,
      fun w a _ n _ => (a + n.signExtend w).toNat⟩
  | .slea f => some ⟨f, 0x019, { formShift with types := fun t _ => t = tB64, srcs := 3, lat32 := 3 }, 3, 3,
      fun w a _ n c => (a + (n.signExtend w) <<< (c.toNat % 64)).toNat⟩
  | _ => none

/-- A row of R206: the word's fields and opcode, whether B is a source, and the resulting mask. -/
structure MaskRow where
  f : WordS
  op : BitVec 10
  two : Bool
  value : Lanes → Lanes → Lanes

/-- The mask instructions that write a mask (R206). -/
def maskRow : Instr → Option MaskRow
  | .kmov f => some ⟨f, 0x01B, false, fun a _ => a⟩
  | .kand f => some ⟨f, 0x01C, true, fun a b => a &&& b⟩
  | .kor f => some ⟨f, 0x01D, true, fun a b => a ||| b⟩
  | .kxor f => some ⟨f, 0x01E, true, fun a b => a ^^^ b⟩
  | .kandn f => some ⟨f, 0x01F, true, fun a b => a &&& ~~~b⟩
  | .knot f => some ⟨f, 0x020, false, fun a _ => ~~~a⟩
  | _ => none

/-! Special registers -/

/-- The special registers that SRD reads by their index, but for TIMELO and TIMEHI, with their values (R198): the placing
(R34), the good lanes and passes (R21, R41), the contract (R157), CMIXCTL and FPCTL as supervisor mode makes them read (R218),
GSTAT, the stream counters (R129), the trap registers, SIGREG, SBCHK and DBGSEL (R199 to R201). -/
def specialValues (s : State) (c : Ctx) : List (Nat × Nat) :=
  let maps := (s.part.lmaps[c.b.core]?).getD (0, 0)
  let pipe := (c.b.slots[c.g.gid]?).getD 0 % 2
  let good := (List.range 32).countP fun j => (if pipe = 0 then maps.1 else maps.2).getLsbD j
  let counter (n : Nat) : Nat := (c.h.outstanding.countP fun p => p.q = some n && p.st ≠ .passed) % 256
  let counters (n : Nat) : Nat := counter n + 2 ^ 8 * counter (n + 1) + 2 ^ 16 * counter (n + 2) + 2 ^ 24 * counter (n + 3)
  [(0x000, c.g.gid), (0x001, if c.b.node.isSome then 1 else c.l.ngrp), (0x002, c.b.bseq), (0x003, c.b.bx), (0x004, c.b.by_),
    (0x005, c.b.bz), (0x010, c.b.core), (0x011, maps.1.toNat), (0x012, maps.2.toNat), (0x013, (95 + good) / good),
    (0x014, pipe), (0x020, c.l.contract)] ++
  [(0x021, if c.h.sup then (c.h.cmixctl ||| 1).toNat else c.h.cmixctl.toNat),
    (0x022, if c.h.sup then 0 else c.h.fpctl.toNat), (0x023, c.h.gstat.toNat), (0x040, counters 0), (0x041, counters 4),
    (0x050, c.h.tframe.toNat), (0x051, c.h.tvec.toNat), (0x052, c.h.tcode.toNat), (0x060, c.sl.sig.toNat),
    (0x061, c.h.sbchk.toNat), (0x070, c.h.dbgsel.toNat)]

/-- What SWR of a register of R198 leaves in the group, by index (R199 to R202, R226). -/
def swrWritten (ix : Nat) (h : Group) (v : Word) : Option Group :=
  match ix with
  | 0x021 => some { h with cmixctl := v &&& 0x1 }
  | 0x022 => some { h with fpctl := v &&& 0x71F }
  | 0x023 => some { h with gstat := h.gstat &&& ~~~v }
  | 0x061 => some { h with sbchk := v &&& 0x1 }
  | 0x050 => some { h with tframe := v &&& 0xFFFFFE00 }
  | 0x051 => some { h with tvec := v }
  | 0x070 => some { h with dbgsel := v &&& 0x7 }
  | _ => none

/-- The registers that SWR writes in user mode too. -/
def swrAnyMode (ix : Nat) : Bool := [0x021, 0x022, 0x023, 0x061].contains ix

/-! The vector engine -/

/-- A row of R273 to R275, R277 to R279 for an instruction that treats each element alone: its fields, opcode, number of
sources, legality beyond the unused fields, latency at types of up to 32 bits and at 64 bits, and the resulting element on
elements of width w. -/
structure ElementRow where
  f : WordV
  op : BitVec 10
  sources : Nat
  legal : Bool
  lat : Nat
  lat64 : Nat
  value : (w : Nat) → BitVec w → BitVec w → BitVec w → Nat

/-- A sum or difference of elements, clamped to the type's range (R273). -/
def clampedTo (signed : Bool) (w : Nat) (x : Int) : Nat :=
  let lo : Int := if signed then -2 ^ (w - 1) else 0
  let hi : Int := if signed then 2 ^ (w - 1) - 1 else 2 ^ w - 1
  (BitVec.ofInt w (max lo (min x hi))).toNat

/-- An element as an integer of the type. -/
def elementInt (signed : Bool) {w : Nat} (a : BitVec w) : Int := if signed then a.toInt else a.toNat

/-- A shift count: bits [31:0] of a 64-bit element, else the element (R274). -/
def countOf {w : Nat} (b : BitVec w) : Nat := if w = 64 then b.toNat % 2 ^ 32 else b.toNat

/-- The rows of R273 to R275, VSEL and VSAT. -/
def elementRow : Instr → Option ElementRow
  | .vadd f => some ⟨f, 0x083, 2, fields2.withCf.ok f && (if f.c = 1 then tyInt f.ty.toNat else f.c = 0 && tyBits f.ty.toNat), 4, 6,
      fun w a b _ =>
        if f.c = 1 then clampedTo (tySigned f.ty.toNat) w (elementInt (tySigned f.ty.toNat) a + elementInt (tySigned f.ty.toNat) b)
        else (a + b).toNat⟩
  | .vsub f => some ⟨f, 0x084, 2, fields2.withCf.ok f && (if f.c = 1 then tyInt f.ty.toNat else f.c = 0 && tyBits f.ty.toNat), 4, 6,
      fun w a b _ =>
        if f.c = 1 then clampedTo (tySigned f.ty.toNat) w (elementInt (tySigned f.ty.toNat) a - elementInt (tySigned f.ty.toNat) b)
        else (a - b).toNat⟩
  | .vmul f => some ⟨f, 0x085, 2, fields2.ok f && tyBits f.ty.toNat, 6, 10, fun _ a b _ => (a * b).toNat⟩
  | .vmulh f => some ⟨f, 0x086, 2, fields2.ok f && tyInt f.ty.toNat, 6, 10, fun w a b _ =>
      (BitVec.ofInt w (elementInt (tySigned f.ty.toNat) a * elementInt (tySigned f.ty.toNat) b / 2 ^ w)).toNat⟩
  | .vmad f => some ⟨f, 0x087, 3, fields3.ok f && tyBits f.ty.toNat, 6, 10, fun _ a b c => (a * b + c).toNat⟩
  | .vabsd f => some ⟨f, 0x088, 2, fields2.ok f && tyInt f.ty.toNat, 4, 6, fun w a b _ =>
      (elementInt (tySigned f.ty.toNat) a - elementInt (tySigned f.ty.toNat) b).natAbs % 2 ^ w⟩
  | .vmin f => some ⟨f, 0x089, 2, fields2.ok f && tyInt f.ty.toNat, 4, 6, fun _ a b _ =>
      if compared (tySigned f.ty.toNat) 3 a b then a.toNat else b.toNat⟩
  | .vmax f => some ⟨f, 0x08A, 2, fields2.ok f && tyInt f.ty.toNat, 4, 6, fun _ a b _ =>
      if compared (tySigned f.ty.toNat) 3 a b then b.toNat else a.toNat⟩
  | .vand f => some ⟨f, 0x08B, 2, fields2.ok f && tyBits f.ty.toNat, 4, 6, fun _ a b _ => (a &&& b).toNat⟩
  | .vor f => some ⟨f, 0x08C, 2, fields2.ok f && tyBits f.ty.toNat, 4, 6, fun _ a b _ => (a ||| b).toNat⟩
  | .vxor f => some ⟨f, 0x08D, 2, fields2.ok f && tyBits f.ty.toNat, 4, 6, fun _ a b _ => (a ^^^ b).toNat⟩
  | .vandn f => some ⟨f, 0x08E, 2, fields2.ok f && tyBits f.ty.toNat, 4, 6, fun _ a b _ => (a &&& ~~~b).toNat⟩
  | .vshl f => some ⟨f, 0x08F, 2, fields2.ok f && tyBits f.ty.toNat, 4, 6, fun _ a b _ => (a <<< countOf b).toNat⟩
  | .vshr f => some ⟨f, 0x090, 2, fields2.ok f && tyBits f.ty.toNat, 4, 6, fun _ a b _ => (a >>> countOf b).toNat⟩
  | .vsra f => some ⟨f, 0x091, 2, fields2.ok f && tyBits f.ty.toNat, 4, 6, fun _ a b _ => (a.sshiftRight (countOf b)).toNat⟩
  | .vrot f => some ⟨f, 0x092, 2, fields2.ok f && tyBits f.ty.toNat, 4, 6, fun _ a b _ => (a.rotateLeft (countOf b)).toNat⟩
  | .vclz f => some ⟨f, 0x093, 1, fields1.ok f && tyBits f.ty.toNat, 4, 6, fun w a _ _ =>
      ((List.range w).reverse.takeWhile fun i => !a.getLsbD i).length⟩
  | .vffs f => some ⟨f, 0x094, 1, fields1.ok f && tyBits f.ty.toNat, 4, 6, fun w a _ _ =>
      ((List.range w).takeWhile fun i => !a.getLsbD i).length⟩
  | .vpopc f => some ⟨f, 0x095, 1, fields1.ok f && tyBits f.ty.toNat, 4, 6, fun w a _ _ =>
      (List.range w).countP fun i => a.getLsbD i⟩
  | .vbrev f => some ⟨f, 0x096, 1, fields1.ok f && tyBits f.ty.toNat, 4, 6, fun _ a _ _ => a.reverse.toNat⟩
  | .vsel f => some ⟨f, 0x09A, 3, fields3.ok f && tyBits f.ty.toNat, 4, 6, fun _ a b c => if c ≠ 0 then a.toNat else b.toNat⟩
  | .vsat f => some ⟨f, 0x09B, 1, fields1.withCf.ok f && (f.ty = 5 || f.ty = 6) && 1 ≤ f.c && f.c ≤ 4, 4, 6, fun w a _ _ =>
      let lo : Int := if f.c = 1 then -128 else if f.c = 3 then -32768 else 0
      let hi : Int := if f.c = 1 then 127 else if f.c = 2 then 255 else if f.c = 3 then 32767 else 65535
      (BitVec.ofInt w (max lo (min (elementInt (tySigned f.ty.toNat) a) hi))).toNat⟩
  | .vmov f => some ⟨f, 0x081, 1, fields1.ok f && f.ty.toNat ≤ 17, 4, 6, fun _ a _ _ => a.toNat⟩
  | _ => none

/-- A number from its bits. -/
def numberOf (w : Nat) (p : Nat → Bool) : Nat := (((List.range w).filter p).map fun i => 2 ^ i).sum

/-- A mask's lanes after a comparison under KM and Z (R271). -/
def maskUnder (c : Ctx) (km : BitVec 3) (z : BitVec 1) (old : Lanes) (v : Nat → Bool) : Lanes :=
  lanesOf fun j =>
    if (c.active km).getLsbD j then v j else (!(c.exec.getLsbD j && z = 1)) && old.getLsbD j

/-- A mask as the registers hold it, a result included that R99 does not show yet. -/
def heldMask (c : Ctx) (m : Nat) : Lanes :=
  let w (i : Nat) : Word := c.h.cell (sCell c.h.sup c.x (104 + 3 * m + i))
  lanesOfWords (w 0) (w 1) (w 2)

/-- Lane i of an operand as another lane reads it; 0 from 96 on (R280 to R284). -/
def lane96 (c : Ctx) (o : Opnd) (i : Nat) : Nat := if i < 96 then c.lane o i else 0

/-- The operations of VRED on the elements of the active set, and their values for none (R285). -/
def reduced (op : Nat) (signed : Bool) (w : Nat) (xs : List (BitVec w)) : BitVec w :=
  let pick (less : Bool) (a b : BitVec w) : BitVec w := if compared signed 3 a b = less then a else b
  match op with
  | 0 => xs.foldl (· + ·) 0
  | 1 => xs.foldl (pick true) (if signed then BitVec.intMax w else BitVec.allOnes w)
  | 2 => xs.foldl (pick false) (if signed then BitVec.intMin w else 0)
  | 3 => xs.foldl (· &&& ·) (BitVec.allOnes w)
  | 4 => xs.foldl (· ||| ·) 0
  | _ => xs.foldl (· ^^^ ·) 0

/-! Floating point -/

/-- A lane's elements delivered, and the union of their conditions (R172). -/
def deliveredLane (t : Nat) (v : Nat → Delivered) : Delivered :=
  ⟨laneOf t fun e => (v e).enc, (List.range (tyElems t)).foldl (fun a e => a ||| (v e).cond) 0⟩

/-- The effect of lane results with conditions on a vector register under KM and Z (R85, R172, R268). -/
def deliveredEff (c : Ctx) (d : Opnd) (km : BitVec 3) (z : BitVec 1) (v : Nat → Delivered) : Eff :=
  { writes := c.vput d km z fun j => (v j).enc
    conds := (laneList (c.active km)).map fun j => (j, (v j).cond) }

/-- A value rounded to the format (R169 to R171), with its conditions, and invalid besides (R172). -/
def roundedTo (k : FF) (m : Mode) (fl : Bool) (v : Val) (invalid : Bool) : Delivered :=
  ⟨(k.ofVal m fl v).enc, (k.ofVal m fl v).cond ||| (if invalid then 1 else 0)⟩

/-- Infinities of opposite signs, and an infinity against a zero (R172). -/
def opposed (a b : Val) : Bool := a.isInf && b.isInf && a.isNeg != b.isNeg
def zeroTimesInf (a b : Val) : Bool := (a.isInf && b.isZero) || (a.isZero && b.isInf)

/-- A row of R287 to R289 and R304: fields, opcode, the fields it uses, number of sources, latency, and an element's
result from the format, the rounding mode, the flush, the launch's contract and the sources' encodings. -/
structure FloatRow where
  f : WordV
  op : BitVec 10
  fields : VFields
  sources : Nat
  legal : Bool
  lat : Nat
  value : FF → Mode → Bool → Nat → Nat → Nat → Nat → Delivered

/-- FMIN and FMAX of operands as read (R287). -/
def extremeOf (greatest : Bool) (k : FF) (fl : Bool) (x y : Nat) : Delivered :=
  let a := k.read fl x
  let b := k.read fl y
  if a.isSnan || b.isSnan then ⟨k.nan, 1⟩
  else if a.isNan && b.isNan then ⟨k.nan, 0⟩
  else
    let takesB := if a.isNan then true else if b.isNan then false else if greatest then a.below b else b.below a
    ⟨k.enc .rne false (if takesB then b else a), 0⟩

/-- The class of an encoding, one bit of ten (R289). -/
def classOf (k : FF) (x : Nat) : Nat :=
  let neg := x.testBit (k.bits - 1)
  let sub := k.expField x = 0
  match k.value x with
  | .nan s => if s then 0x100 else 0x200
  | .inf _ => if neg then 0x001 else 0x080
  | .zero _ => if neg then 0x008 else 0x010
  | .fin _ => if neg then (if sub then 0x004 else 0x002) else (if sub then 0x020 else 0x040)

/-- The rows of R287 and R289. -/
def floatRow : Instr → Option FloatRow
  | .fadd f => some ⟨f, 0x101, fields2.rounds, 2, tyFloat f.ty.toNat, latFp f, fun k m fl _ x y _ =>
      let a := k.read fl x
      let b := k.read fl y
      roundedTo k m fl (Val.sum [a, b]) (a.isSnan || b.isSnan || opposed a b)⟩
  | .fsub f => some ⟨f, 0x102, fields2.rounds, 2, tyFloat f.ty.toNat, latFp f, fun k m fl _ x y _ =>
      let a := k.read fl x
      let b := (k.read fl y).neg
      roundedTo k m fl (Val.sum [a, b]) (a.isSnan || b.isSnan || opposed a b)⟩
  | .fmul f => some ⟨f, 0x103, fields2.rounds, 2, tyFloat f.ty.toNat, latFp f, fun k m fl _ x y _ =>
      let a := k.read fl x
      let b := k.read fl y
      roundedTo k m fl (a.mul b) (a.isSnan || b.isSnan || zeroTimesInf a b)⟩
  | .ffma f => some ⟨f, 0x104, fields3.rounds, 3, tyFloat f.ty.toNat, latFp f, fun k m fl _ x y z =>
      let a := k.read fl x
      let b := k.read fl y
      let c := k.read fl z
      roundedTo k m fl (Val.sum [a.mul b, c])
        (a.isSnan || b.isSnan || c.isSnan || zeroTimesInf a b || opposed (a.mul b) c)⟩
  | .fmin f => some ⟨f, 0x105, fields2, 2, tyFloat f.ty.toNat, latFp f, fun k _ fl _ x y _ => extremeOf false k fl x y⟩
  | .fmax f => some ⟨f, 0x106, fields2, 2, tyFloat f.ty.toNat, latFp f, fun k _ fl _ x y _ => extremeOf true k fl x y⟩
  | .fabs f => some ⟨f, 0x107, fields1, 1, tyFloat f.ty.toNat, if tyWide f.ty.toNat then 6 else 4, fun k _ _ _ x _ _ =>
      ⟨x &&& (2 ^ (k.bits - 1) - 1), 0⟩⟩
  | .fneg f => some ⟨f, 0x108, fields1, 1, tyFloat f.ty.toNat, if tyWide f.ty.toNat then 6 else 4, fun k _ _ _ x _ _ =>
      ⟨x ^^^ 2 ^ (k.bits - 1), 0⟩⟩
  | .fcpsn f => some ⟨f, 0x109, fields2, 2, tyFloat f.ty.toNat, if tyWide f.ty.toNat then 6 else 4, fun k _ _ _ x y _ =>
      ⟨(x &&& (2 ^ (k.bits - 1) - 1)) ||| (y &&& 2 ^ (k.bits - 1)), 0⟩⟩
  | .fclass f => some ⟨f, 0x10B, fields1, 1, tyFloat f.ty.toNat, if tyWide f.ty.toNat then 6 else 4, fun k _ _ _ x _ _ =>
      ⟨classOf k x, 0⟩⟩
  | .frnd f => some ⟨f, 0x10C, fields1.rounds, 1, tyFloat f.ty.toNat, latFp f, fun k m fl _ x _ _ =>
      match k.read fl x with
      | .fin y => ⟨k.enc .rne false (Val.ofDy (Dy.ofInt (y.toInt m)) y.isNeg), 0⟩
      | v => ⟨k.enc .rne false v, if v.isSnan then 1 else 0⟩⟩
  | _ => none

/-- The function of a function pair's opcode, and whether it is the F form (R304). -/
def functionRow : Instr → Option (WordV × BitVec 10 × Fn × Bool)
  | .ex2f f => some (f, 0x181, .ex2, true)
  | .ex2r f => some (f, 0x182, .ex2, false)
  | .lg2f f => some (f, 0x183, .lg2, true)
  | .lg2r f => some (f, 0x184, .lg2, false)
  | .rcpf f => some (f, 0x185, .rcp, true)
  | .rcpr f => some (f, 0x186, .rcp, false)
  | .rsqf f => some (f, 0x187, .rsq, true)
  | .rsqr f => some (f, 0x188, .rsq, false)
  | .sqtf f => some (f, 0x189, .sqt, true)
  | .sqtr f => some (f, 0x18A, .sqt, false)
  | .divf f => some (f, 0x18B, .div, true)
  | .divr f => some (f, 0x18C, .div, false)
  | .sinf f => some (f, 0x18D, .sin, true)
  | .sinr f => some (f, 0x18E, .sin, false)
  | .cosf f => some (f, 0x18F, .cos, true)
  | .cosr f => some (f, 0x190, .cos, false)
  | .tnhf f => some (f, 0x191, .tnh, true)
  | .tnhr f => some (f, 0x192, .tnh, false)
  | .sigf f => some (f, 0x193, .sig, true)
  | .sigr f => some (f, 0x194, .sig, false)
  | _ => none

/-- The latencies of R301. -/
def functionLatency (fn : Fn) (fast : Bool) : Nat :=
  match fn, fast with
  | .div, true => 14
  | _, true => 12
  | .div, false => 24
  | .sqt, false => 24
  | _, false => 20

/-- The special results of R305, with the conditions raised, of functions of one operand. -/
def specialResult (fn : Fn) (k : FF) : Val → Option (Nat × Nat)
  | .nan s => some (k.nan, if s then 1 else 0)
  | .inf n =>
    match fn with
    | .ex2 => some (if n then 0 else k.inf false, 0)
    | .lg2 => some (if n then (k.nan, 1) else (k.inf false, 0))
    | .rcp => some (if n then k.signBit else 0, 0)
    | .rsq => some (if n then (k.nan, 1) else (0, 0))
    | .sqt => some (if n then (k.nan, 1) else (k.inf false, 0))
    | .sin => some (k.nan, 1)
    | .cos => some (k.nan, 1)
    | .tnh => some (k.bias * 2 ^ k.frac + (if n then k.signBit else 0), 0)
    | .sig => some (if n then 0 else k.bias * 2 ^ k.frac, 0)
    | .div => none
  | .zero n =>
    match fn with
    | .lg2 => some (k.inf true, 2)
    | .rcp => some (k.inf n, 2)
    | .rsq => some (k.inf n, 2)
    | .sqt => some (if n then k.signBit else 0, 0)
    | .tnh => some (if n then k.signBit else 0, 0)
    | _ => none
  | .fin x =>
    match fn with
    | .lg2 => if x.num < 0 then some (k.nan, 1) else none
    | .rsq => if x.num < 0 then some (k.nan, 1) else none
    | .sqt => if x.num < 0 then some (k.nan, 1) else none
    | _ => none

/-- The special results of division, as IEEE 754 has them (R305). -/
def divisionSpecial (k : FF) : Val → Val → Option (Nat × Nat)
  | .nan s, .nan t => some (k.nan, if s || t then 1 else 0)
  | .nan s, _ => some (k.nan, if s then 1 else 0)
  | _, .nan t => some (k.nan, if t then 1 else 0)
  | .inf _, .inf _ => some (k.nan, 1)
  | .zero _, .zero _ => some (k.nan, 1)
  | .inf p, y => some (k.inf (p != y.isNeg), 0)
  | x, .inf q => some (if x.isNeg != q then k.signBit else 0, 0)
  | .fin x, .zero q => some (k.inf (x.isNeg != q), 2)
  | .zero p, .fin y => some (if p != y.isNeg then k.signBit else 0, 0)
  | .fin _, .fin _ => none

/-- One as an encoding, with a sign. -/
def oneCode (k : FF) (neg : Bool) : Nat := k.bias * 2 ^ k.frac + (if neg then k.signBit else 0)

/-- A magnitude of the format denotes this number. -/
def denotes (k : FF) (n : Nat) (y : Dy) : Prop := ((k.value n).dy.sub y).num = 0

/-- The sign of x - |f(a, b)| for a magnitude x, for the functions that arithmetic undoes (R304). -/
def excess (fn : Fn) (a b x : Dy) : Int :=
  match fn with
  | .rcp => ((x.mul a.abs).sub ⟨1, 0⟩).num
  | .rsq => (((x.mul x).mul a).sub ⟨1, 0⟩).num
  | .sqt => ((x.mul x).sub a).num
  | _ => ((x.mul b.abs).sub a.abs).num

/-- The magnitude n of the format is the one to which the mode rounds a number of this sign, where `beyond x` has the sign of x
less its magnitude (R86, R169): to nearest, on a tie the even encoding; towards zero; away from zero. -/
def RoundedTo (k : FF) (m : Mode) (neg : Bool) (beyond : Dy → Int) (n : Nat) : Prop :=
  let at_ (i : Nat) : Dy := (k.value i).dy
  let away := (m = .rup && !neg) || (m = .rdn && neg)
  if m = .rne then
    ∀ i, i ≤ k.maxFin → i ≠ n →
      let mid := ((at_ i).add (at_ n)).scale (-1)
      (i < n → beyond mid ≤ 0) ∧ (n < i → 0 ≤ beyond mid) ∧ (beyond mid = 0 → n % 2 = 0)
  else if away then 0 ≤ beyond (at_ n) ∧ (n ≠ 0 → beyond (at_ (n - 1)) < 0)
  else beyond (at_ n) ≤ 0 ∧ (n < k.maxFin → 0 < beyond (at_ (n + 1)))

/-- The comparisons of FSET (R288): whether the condition holds, and whether it is invalid. -/
def floatCompared (cc : Nat) (a b : Val) : Bool × Bool :=
  let unordered := a.isNan || b.isNan
  let zeros := a.isZero && b.isZero
  let less := !unordered && !zeros && a.below b
  let greater := !unordered && !zeros && b.below a
  let equal := !unordered && !less && !greater
  let holds := match cc with
    | 0 => equal
    | 1 => !equal
    | 2 => less
    | 3 => less || equal
    | 4 => greater
    | 5 => greater || equal
    | 6 => unordered
    | _ => !unordered
  (holds, a.isSnan || b.isSnan || (unordered && cc ∈ [2, 3, 4, 5]))

/-- An integer's value as the format rounds it (R173). -/
def integerVal (signed : Bool) {w : Nat} (x : BitVec w) : Val :=
  if x = 0 then .zero false else .fin ⟨elementInt signed x, 0⟩

/-- FCVTI on a value: clamped to the type with invalid, else rounded, inexact where that changed it (R173). -/
def toIntegerOf (m : Mode) (signed : Bool) (w : Nat) (v : Val) : Delivered :=
  let lo : Int := if signed then -2 ^ (w - 1) else 0
  let hi : Int := if signed then 2 ^ (w - 1) - 1 else 2 ^ w - 1
  let bits (i : Int) : Nat := (BitVec.ofInt w i).toNat
  match v with
  | .nan _ => ⟨0, 1⟩
  | .inf n => ⟨bits (if n then lo else hi), 1⟩
  | .zero _ => ⟨0, 0⟩
  | .fin x =>
    if x.toInt m < lo then ⟨bits lo, 1⟩ else if hi < x.toInt m then ⟨bits hi, 1⟩
    else ⟨bits (x.toInt m), if x.rest 0 = 0 then 0 else 16⟩

/-! The exact accumulator -/

/-- An addend in units of 2^-298, rounded to nearest when it is no multiple, and the status it sets (R190). -/
def addendUnits (v : Val) : Int :=
  match v with
  | .fin x => if x.num < 0 then -(x.roundAt (-298) .rne : Int) else x.roundAt (-298) .rne
  | _ => 0
def addendStatus (v : Val) : BitVec 5 :=
  match v with
  | .nan _ => 0b00001
  | .inf n => if n then 0b00100 else 0b00010
  | .zero _ => 0
  | .fin x => (if x.rest (-298) = 0 then 0 else 0b10000) ||| (if 2 ^ 639 ≤ (addendUnits v).natAbs then 0b01000 else 0)

/-- xa and its status after an exact sum of addends (R190). -/
def accumulated (xa : BitVec 640) (st : BitVec 5) (l : List Val) : BitVec 640 × BitVec 5 :=
  let total := xa.toInt + (l.map addendUnits).sum
  (BitVec.ofInt 640 total,
   (l.map addendStatus).foldr (· ||| ·) (st ||| (if -2 ^ 639 ≤ total ∧ total < 2 ^ 639 then 0 else 0b01000)))

/-- xa rounded to a format (R191). -/
def accumulatorRounded (k : FF) (fl : Bool) (xa : BitVec 640) (st : BitVec 5) : Nat :=
  if st.getLsbD 0 || st.getLsbD 3 || (st.getLsbD 1 && st.getLsbD 2) then k.nan
  else if st.getLsbD 1 then k.inf false
  else if st.getLsbD 2 then k.inf true
  else if xa = 0 then 0
  else k.enc .rne fl (.fin ⟨xa.toInt, -298⟩)

/-- The elements of the lanes of the active set, as addends read under the contract (R295). -/
def addendsOf (c : Ctx) (km : BitVec 3) (t : Nat) (v : Nat → Nat → Val) : List Val :=
  (laneList (c.active km)).flatMap fun j => (List.range (tyElems t)).map fun e => v j e

/-! Quantisation -/

/-- The control value of R309 is defined for a target, with SEL of 0 to 2 where a zero point is kept. -/
def controlDefined (v : Nat) : Bool :=
  let qf := v / 256
  v < 4096 && !v.testBit 7 && qf ∈ [2, 3, 7, 8, 9, 10] && !(qf ∈ [8, 10] && v / 32 % 4 = 3)

/-- qmax of R310 by target, and qh for a block of zero range. -/
def targetMax (qf : Nat) : Nat := ([0, 0, 448, 57344, 0, 0, 0, 127, 255, 7, 15][qf]?).getD 0
def targetHalf (qf : Nat) : Nat := if qf = 8 then 127 else if qf = 10 then 7 else targetMax qf

/-- s is the least integer with x ≤ q · 2^s, for a positive x. -/
def LeastExponent (x : Dy) (q : Nat) (s : Int) : Prop := Dy.le x ⟨q, s⟩ = true ∧ Dy.le x ⟨q, s - 1⟩ = false

/-- mn and mx are the least and the greatest of some values, zeros for none. -/
def Extremes (l : List Dy) (mn mx : Dy) : Prop :=
  (l = [] ∧ mn = Dy.zero ∧ mx = Dy.zero) ∨ (mn ∈ l ∧ mx ∈ l ∧ ∀ x ∈ l, Dy.le mn x = true ∧ Dy.le x mx = true)

/-- The finite values of the active lanes of block k (R310). -/
def finiteValues (c : Ctx) (km : BitVec 3) (a : Opnd) (k : Nat) : List Dy :=
  (((laneList (c.active km)).filter fun j => j / 16 = k).map fun j => FF.f32.read c.flush (c.lane a j)).filterMap fun v =>
    if v.isNan || v.isInf then none else some v.dy

/-- The exponent of a block with the extremes mn and mx (R310). -/
def BlockExponent (qf : Nat) (mn mx : Dy) (s : Int) : Prop :=
  ∃ e : Int, s = max (-127) (min e 127) ∧
    (if (mx.sub mn).num = 0 then
      if mn.num = 0 then e = 0 else LeastExponent mn.abs (targetHalf qf) e
    else if qf = 8 ∨ qf = 10 then
      LeastExponent ((if mx.num < 0 then Dy.zero else mx).sub (if mn.num < 0 then mn else Dy.zero)) (targetMax qf) e
    else LeastExponent (if Dy.lt mn.abs mx.abs then mx.abs else mn.abs) (targetMax qf) e)

/-- The zero point of a block (R312). -/
def BlockZero (qf : Nat) (mn mx : Dy) (s : Int) (z : Nat) : Prop :=
  if (mx.sub mn).num = 0 then z = if mn.num = 0 then 0 else if qf = 8 then 128 else 8
  else (z : Int) = max 0 (min (((if mn.num < 0 then mn else Dy.zero).neg.scale (-s)).toInt .rne) (targetMax qf))

/-- A lane with byte i replaced. -/
def withByte (x i v : Nat) : Nat :=
  ((BitVec.ofNat 32 x &&& ~~~(0xFF#32 <<< (8 * i))) ||| (BitVec.ofNat 32 v <<< (8 * i))).toNat

/-- What QSCL and QZP raise (R310): ZRANGE for an active block of zero range, invalid in each lane with a NaN or infinity. -/
def rangeRaises (c : Ctx) (km : BitVec 3) (a : Opnd) (mn mx : Nat → Dy) : Nat × List (Nat × Nat) :=
  (if (List.range 6).any fun k =>
      ((mx k).sub (mn k)).num = 0 && (laneList (c.active km)).any fun j => j / 16 = k then 0x400 else 0,
   (laneList (c.active km)).map fun j =>
    (j, if (FF.f32.read c.flush (c.lane a j)).isNan || (FF.f32.read c.flush (c.lane a j)).isInf then 1 else 0))

/-- The scale and the zero point that a lane holds (R309, R313). -/
def scaleIn (x v : Nat) : Int := (x / 256 ^ (v / 32 % 4) % 256 : Nat) - 127
def zeroIn (x v : Nat) : Nat := if v / 256 ∈ [8, 10] then x / 256 ^ (v / 32 % 4 + 1) % 256 else 0

/-- An integer code, saturated and masked to its width (R309, R313). -/
def integerCode (qf : Nat) (i : Int) : Nat :=
  let lo : Int := if qf = 7 then -128 else if qf = 9 then -8 else 0
  let w := if qf = 9 ∨ qf = 10 then 4 else 8
  (BitVec.ofInt w (max lo (min i (targetMax qf)))).toNat

/-- qcvt of R313 for a value x, a scale s, a zero point z and the lane's index i in its block. -/
def quantised (v : Nat) (fl : Bool) (x : Val) (s : Int) (z i : Nat) : Delivered :=
  let qf := v / 256
  let ph := v % 16
  let dithered := v.testBit 4
  if qf = 2 ∨ qf = 3 then
    let k : FF := if qf = 2 then .e4m3 else .e5m2
    let signOf (n : Bool) : Nat := if n then 0x80 else 0
    match x with
    | .nan _ => ⟨k.nan, 1⟩
    | .inf n => ⟨k.maxFin + signOf n, 1⟩
    | .zero n => ⟨signOf n, 0⟩
    | .fin y =>
      let r := if dithered then k.dither fl (.fin (y.scale (-s))) i ph else k.enc .rne fl (.fin (y.scale (-s)))
      ⟨if (k.value r).isInf then k.maxFin + signOf (k.sign r) else r, 0⟩
  else
    match x with
    | .nan _ => ⟨if qf = 9 ∨ qf = 10 then z % 16 else z, 1⟩
    | .inf n => ⟨integerCode qf (if n then -2 ^ 20 else 2 ^ 20), 1⟩
    | .zero _ => ⟨integerCode qf z, 0⟩
    | .fin y =>
      let m := y.scale (-s)
      let n : Nat := (m.abs.add ⟨2 * (bitRev 4 ((i + ph) % 16) : Nat) + 1, -5⟩).quo 0
      ⟨integerCode qf ((if dithered then (if y.num < 0 then -(n : Int) else n) else m.toInt .rne) + z), 0⟩

/-- The value of a code (R314). -/
def dequantised (v : Nat) (fl : Bool) (code : Nat) (s : Int) (z : Nat) : Nat :=
  let qf := v / 256
  let scaled (x : Val) : Val := match x with | .fin y => .fin (y.scale s) | w => w
  if qf = 2 ∨ qf = 3 then FF.f32.enc .rne fl (scaled ((if qf = 2 then FF.e4m3 else FF.e5m2).value (code % 256)))
  else
    let w := if qf = 9 ∨ qf = 10 then 4 else 8
    let i : Int := (if qf = 7 ∨ qf = 9 then (BitVec.ofNat w code).toInt else code % 2 ^ w) - z
    FF.f32.enc .rne fl (if i = 0 then .zero false else .fin ⟨i, s⟩)

/-- The words of a packed block, and its magnitude bits, by type (R315, R316). -/
def blockWords (t : Nat) : Nat := if t = 18 then 5 else if t = 19 then 3 else 2
def blockMag (t : Nat) : Nat := if t = 18 then 7 else if t = 19 then 4 else 2

/-- Magnitude and sign bits of element i of a block (R165). -/
def blockMagOf (k : Kite) (blk i : Nat) : Nat := blk / 2 ^ (16 + i * (k.mag + 1)) % 2 ^ k.mag
def blockSignOf (k : Kite) (blk i : Nat) : Nat := blk / 2 ^ (16 + i * (k.mag + 1) + k.mag) % 2

/-! Random numbers -/

/-- The six rounds of R321 on 32-bit words: x, y and the two halves of the key. -/
def mixRounds : Nat → Word × Word × Word × Word → Word × Word × Word × Word
  | 0, w => w
  | r + 1, (x, y, a, b) =>
    let p : DWord := x.setWidth 64 * 0xCB5A4F27
    mixRounds r (p.extractLsb' 32 32 ^^^ y ^^^ a, p.extractLsb' 0 32, b, a + 0x6A09E667)

/-- A draw of key K, stream n and counter c (R321). -/
def drawn (K : DWord) (n c : Nat) : Nat :=
  (mixRounds 6 (BitVec.ofNat 32 c, BitVec.ofNat 32 n, K.extractLsb' 0 32, K.extractLsb' 32 32)).1.toNat

/-- The effect of a draw in the lanes of the active set: each lane's value, its counter one further, RNGWRAP for a counter
that wraps (R322, R323). -/
def drawEff (c : Ctx) (f : WordV) (d a : Opnd) (v : Nat → Nat) : Eff :=
  { writes := c.vput d f.km f.z v ++ c.vput a f.km f.z fun j => (c.lane a j + 1) % 2 ^ 32
    gstat := if (laneList (c.active f.km)).any fun j => c.lane a j = 0xFFFFFFFF then 0x100 else 0 }

/-! Control flow -/

/-- The slot past its instruction, its PC at `next`, in a state in which the instruction has had its other effects. -/
def State.onward (s : State) (c : Ctx) (op : BitVec 10) (stl : BitVec 4) (next : DWord) : State := s.ended c op stl next

/-- A word's address `disp` words on from the instruction (R91). -/
def wordsOn (c : Ctx) {n : Nat} (disp : BitVec n) : DWord := c.sl.pc + 8 * disp.signExtend 64

/-- The conditions of R91: 1 to 4 on a scalar, 5 to 7 on a mask against EXEC. -/
def branchTaken (c : Ctx) (cc : Nat) (a : Opnd) : Bool :=
  let v : Word := BitVec.ofNat 32 (c.scalar a)
  let m := c.kmask a &&& c.exec
  match cc with
  | 1 => v = 0
  | 2 => v ≠ 0
  | 3 => v.msb
  | 4 => !v.msb
  | 5 => m ≠ 0
  | 6 => m = 0
  | _ => m = c.exec

/-- The link pair written: the address of the word after the call (R209). -/
def State.linked (s : State) (c : Ctx) (l : Opnd) : State :=
  s.modGroup c.g fun h => h.setCells (c.sput l (c.sl.pc + 8).toNat)

/-- A slot that runs a path: its PC, the lanes it owns, EXEC and its rejoin point, outside any clause (R192, R213). -/
structure RunsPath (sl : Slot) (pc : DWord) (own exec : Lanes) (rj : DWord) : Prop where
  st : sl.st = .running
  pc : sl.pc = pc
  own : sl.own = own
  exec : sl.exec = exec
  rj : sl.rj = rj
  clause : sl.clause = none
  shadows : sl.shadows = []

/-! Traps -/

/-- The state code that a trap frame records: a wait is abandoned and counts as running (R193, R220). -/
def recordedCode (sl : Slot) : Nat :=
  match sl.st with
  | .empty => 0
  | .atJoin _ => 2
  | _ => 1

/-- The fields of the trap frame (R219) of a group with nothing outstanding: offset, size and value. -/
def frameField (h : Group) (x : SlotId) (t : TrapInfo) : List (Nat × Nat × Nat) :=
  let bit (b : Bool) (k : Nat) : Nat := if b then 2 ^ k else 0
  [(0x000, 1, t.code),
   (0x001, 1, bit (x = .b) 0 + bit t.lanes.isSome 1 + bit t.matrix 2 + bit t.sstep 3 + bit h.slotA.arrived.isSome 4
      + bit h.slotB.arrived.isSome 5),
   (0x002, 1, t.clidx), (0x003, 1, (t.lanes.map lowLane).getD 0xFF), (0x004, 4, t.arg), (0x008, 8, t.pc.toNat),
   (0x010, 8, t.fva), (0x018, 8, t.iword.toNat), (0x020, 12, (t.lanes.getD 0).toNat), (0x02C, 4, h.depth),
   (0x030, 8, h.slotA.pc.toNat), (0x038, 8, h.slotB.pc.toNat), (0x040, 12, h.slotA.exec.toNat),
   (0x04C, 12, h.slotA.own.toNat), (0x058, 12, h.slotB.exec.toNat), (0x064, 12, h.slotB.own.toNat),
   (0x070, 8, h.slotA.rj.toNat), (0x078, 8, h.slotB.rj.toNat), (0x080, 1, recordedCode h.slotA),
   (0x081, 1, recordedCode h.slotB), (0x082, 2, 0), (0x084, 4, 0), (0x088, 4, 0), (0x08C, 4, h.fpctl.toNat),
   (0x090, 4, h.cmixctl.toNat), (0x094, 4, (h.slot x).sig.toNat), (0x098, 1, (h.cell (.ix 0)).toNat),
   (0x099, 1, (h.cell (.ix 1)).toNat), (0x09A, 1, (h.cell (.ix 2)).toNat), (0x09B, 1, (h.cell (.ix 3)).toNat),
   (0x09C, 4, h.gstat.toNat), (0x0A0, 96, 0), (0x100, 256, 256 ^ 256 - 1)]

/-- A field of the trap frame as ERET reads it. -/
def State.framed (s : State) (c : Ctx) (off n : Nat) : Nat := s.privNum c.g ((c.h.tframe.extractLsb' 9 23).toNat * 512 + off) n

/-- A slot that ERET restores (R223). -/
structure Restored (sl : Slot) (st : Nat) (pc : DWord) (own exec : Lanes) (rj : DWord) (sig : BitVec 16) : Prop where
  vacant : st = 0 ∨ own = 0 → sl.st = .empty ∧ sl.own = 0
  path : st ≠ 0 → own ≠ 0 → sl.pc = pc ∧ sl.own = own ∧ sl.exec = exec &&& own ∧ sl.rj = rj ∧ sl.clause = none
  running : st ≠ 0 → own ≠ 0 → st ≠ 2 → sl.st = .running
  waits : st ≠ 0 → own ≠ 0 → st = 2 → ∃ o, sl.st = .atJoin o
  sig : sl.sig = sig

/-- Slot c.x of group c.g issues; no single step is armed (R227), and its clause carries no signature (R82). A floating-point
trap may be pending. -/
structure Steady (s : State) (c : Ctx) : Prop where
  issues : s.ctx? = some c
  step : c.h.step = .off
  sck : ∀ k, c.sl.clause = some k → k.sck = false

/-- The signature after an instruction with opcode op (R82). -/
def signatureAfter (sig : BitVec 16) (op : BitVec 10) (j : Bool) : BitVec 16 :=
  (List.range 11).foldl (fun s i =>
    let fb := s.getLsbD 15 != (if i = 10 then j else op.getLsbD (9 - i))
    if fb then s <<< 1 ^^^ 0x1021 else s <<< 1) sig

/-! Memory instructions -/

/-- The slot has an operation translated (R230): the next instruction's place in program order is taken. -/
def State.walking (s : State) (c : Ctx) (p : Pend) : State :=
  (s.modGroup c.g fun h => { h with ser := h.ser + 1 }).modSlot c.g c.x fun sl => { sl with walk := some p }

/-- An operation without lanes to translate is outstanding, and the slot past it (R126, R127). -/
def State.outstandingNow (s : State) (c : Ctx) (p : Pend) (op : BitVec 10) (stl : BitVec 4) : State :=
  (s.modGroup c.g fun h => { h with ser := h.ser + 1, pend := insertPend p h.pend }).onward c op stl (c.sl.pc + 8)

/-- An access of one lane before its translation; lane 96 for the forms that act once. -/
def lanePart (lane va len : Nat) (dst : List RegCell) (data cmp : Nat) (misal : Bool) : LaneAcc :=
  ⟨lane, va, len, [], dst, data, cmp, false, misal⟩

/-- A 64-bit address plus OFF in units of n bytes, plus `more` (R229, R236). -/
def addressOf (base : Nat) (off : BitVec 5) (n more : Nat) : Nat :=
  (BitVec.ofNat 64 base + off.signExtend 64 * BitVec.ofNat 64 n + BitVec.ofNat 64 more).toNat

/-- A row of R233 to R236: the word's fields and opcode, what it checks besides, its data operand and address operand,
whether it stores, and its accesses from the two operands. -/
structure AccessRow where
  f : WordM
  op : BitVec 10
  ok : Bool
  data : Use
  addr : Use
  store : Bool
  accs : Ctx → Opnd → Opnd → List LaneAcc

/-- LD, LDS, LDB, ST, STS and STB. -/
def accessRow : Instr → Option AccessRow
  | .ld f =>
    let n := 2 ^ f.w.toNat
    some ⟨f, 0x201, accessOk f false, Use.dst (Want.vreg (regsOf n)) f.d, Use.src (Want.vors 2) f.a, false, fun c d a =>
      (laneList (c.active f.km)).map fun j =>
        let va := addressOf (c.lane a j) f.off n (match a with | .s _ _ => n * j | _ => 0)
        lanePart j va n (d.cells c.h.sup c.x [j]) 0 0 (va % asBytes f.as ≠ 0)⟩
  | .st f =>
    let n := 2 ^ f.w.toNat
    some ⟨f, 0x204, accessOk f true, Use.src (Want.vdata (regsOf n)) f.d, Use.src (Want.vors 2) f.a, true, fun c d a =>
      (laneList (c.active f.km)).map fun j =>
        let va := addressOf (c.lane a j) f.off n (match a with | .s _ _ => n * j | _ => 0)
        lanePart j va n [] (storeData c d n j) 0 (va % asBytes f.as ≠ 0)⟩
  | .lds f =>
    let n := 2 ^ f.w.toNat
    some ⟨f, 0x202, accessOk f false, Use.dst (Want.sreg (regsOf n)) f.d, Use.src (Want.sreg 2) f.a, false, fun c d a =>
      let va := addressOf (c.scalar a) f.off n 0
      [lanePart 96 va n (d.cells c.h.sup c.x [0]) 0 0 (va % asBytes f.as ≠ 0)]⟩
  | .sts f =>
    let n := 2 ^ f.w.toNat
    some ⟨f, 0x205, accessOk f true, Use.src (Want.sdata (regsOf n)) f.d, Use.src (Want.sreg 2) f.a, true, fun c d a =>
      let va := addressOf (c.scalar a) f.off n 0
      [lanePart 96 va n [] (storeData c d n 0) 0 (va % asBytes f.as ≠ 0)]⟩
  | .ldb f =>
    some ⟨f, 0x203, f.w = 2 && f.as = 0 && f.sem ≠ 2, Use.dst (Want.vreg 4) f.d, Use.src (Want.vsonly 2) f.a, false, fun c d a =>
      (laneList (c.active f.km)).flatMap fun j => (List.range 4).map fun i =>
        lanePart j (addressOf (c.scalar a) f.off 1536 (384 * i + 4 * j)) 4 ((d.cells c.h.sup c.x [j])[i]?).toList 0 0
          (addressOf (c.scalar a) f.off 1536 0 % 128 ≠ 0)⟩
  | .stb f =>
    some ⟨f, 0x206, f.w = 2 && f.as = 0 && f.sem ≠ 1, Use.src (Want.vreg 4) f.d, Use.src (Want.vsonly 2) f.a, true, fun c d a =>
      (laneList (c.active f.km)).flatMap fun j => (List.range 4).map fun i =>
        lanePart j (addressOf (c.scalar a) f.off 1536 (384 * i + 4 * j)) 4 [] (c.lane d j / 2 ^ (32 * i) % 2 ^ 32) 0
          (addressOf (c.scalar a) f.off 1536 0 % 128 ≠ 0)⟩
  | _ => none

/-- ATOM, ACAS, ATOMS and ACASS: fields, opcode, compare-and-swap, scalar. -/
def atomicRow : Instr → Option (WordMA × BitVec 10 × Bool × Bool)
  | .atom f => some (f, 0x207, false, false)
  | .acas f => some (f, 0x208, true, false)
  | .atoms f => some (f, 0x209, false, true)
  | .acass f => some (f, 0x20A, true, true)
  | _ => none

/-- The faults that a walk meets, in ascending lane order. -/
def walkFaults (s : State) (c : Ctx) (p : Pend) : List LaneFault :=
  (p.accs.map fun a => s.walkAcc (s.whoLane c.g a.lane) p c.l.contract c.h.miss a).filterMap fun r =>
    match r with | .inl f => some f | .inr _ => none

/-- Bytes of a table, and of what a leaf maps, `n` levels below the root (R243). -/
def tableBytes : Nat → Nat
  | 3 => 256
  | 4 => 128
  | _ => 4096
def leafBytes : Nat → Nat
  | 0 => 2 ^ 39
  | 1 => 2 ^ 30
  | 2 => 2 ^ 21
  | 3 => 2 ^ 16
  | _ => 2 ^ 12

/-- The entry at `at_` is a valid pointer to the table at `next`, of `size` bytes in DRAM (R244). -/
def tablePointer (s : State) (at_ next size : Nat) : Prop :=
  s.numAt at_ 8 = next + 1 ∧ next % size = 0 ∧ next + size ≤ s.part.dcap ∧ next < 2 ^ 52 ∧ s.poisoned [at_] = false

/-- The walk for va comes to the entry at `ptr`, `n` levels below the root table (R243). -/
def walkReaches (s : State) (root va : Nat) : Nat → Nat → Prop
  | 0, ptr => ptr = root + 8 * (va / 2 ^ 39)
  | n + 1, ptr => ∃ up t, walkReaches s root va n up ∧ tablePointer s up t (tableBytes (n + 1)) ∧
      ptr = t + 8 * (va / leafBytes (n + 1) % (tableBytes (n + 1) / 8))

/-- The result of an atomic operation on words (R88, R238); that of FADD is rounded to nearest under the contract's
subnormal rule (R239). -/
def atomicResult (contract aop : Nat) {w : Nat} (old b : BitVec w) : BitVec w :=
  let k : FF := if w = 64 then .f64 else .f32
  let rd (x : BitVec w) : Val := k.read (vecFlush contract) x.toNat
  match aop with
  | 0 => old + b
  | 1 => old &&& b
  | 2 => old ||| b
  | 3 => old ^^^ b
  | 4 => if old.sle b then old else b
  | 5 => if old.sle b then b else old
  | 6 => if old.ule b then old else b
  | 7 => if old.ule b then b else old
  | 8 => b
  | _ => BitVec.ofNat w (roundedTo k .rne (vecFlush contract) (Val.sum [rd old, rd b]) false).enc

/-- A group's operation that may be performed, translated and with no piece performed yet, in a launch without snapshots, on
ordinary memory without poison, with nothing staged. -/
structure Performs (s : State) (g : GRef) (h : Group) (p : Pend) : Prop where
  group : s.group? g = some h
  found : h.pend.find? (fun q => q.ser = p.ser) = some p
  ready : s.performable g p = true
  clean : s.poison = []
  sound : s.mem.wf = true
  snap : ∀ l, s.launchOf g.bid = some l → l.snap = false
  plain : ∀ a ∈ p.accs, a.staged = false ∧ a.pas.length = a.len ∧ a.len ≠ 0 ∧
    ∀ x ∈ a.pas, isCap x = false ∧ x < firmwareKey 0
  whole : p.got = []
  reserve : ∀ b, s.block? g.bid = some b → b.staged = []
  links : ∀ b, s.block? g.bid = some b → ∀ k ∈ b.groups, ∀ a ∈ k.pend ++ k.aside, a.behind = []

/-- A cell of a vector register names one of the 96 lanes. -/
def cellOk : RegCell → Bool
  | .v _ j => j < 96
  | .vb _ j => j < 96
  | _ => true

/-! Copies -/

/-- CPYS, CPYT and CPYE (R330): fields, opcode, tile form, what the form asks of XF and CH. -/
def copyRow : Instr → Option (WordC × BitVec 10 × Bool × Bool)
  | .cpys f => some (f, 0x281, false, (f.xf = 0 || f.xf = 3) && f.ch = 0)
  | .cpyt f => some (f, 0x282, true, f.xf.toNat ≤ 3 && f.ch = 0)
  | .cpye f => some (f, 0x283, false, (f.xf = 0 || f.xf = 3) && (f.ch.toNat ≤ 23 || f.ch = 31))
  | _ => none

/-- The status word of R342 for a handle that names no copy, and by state. -/
def statusOf : Option Copy → Nat
  | none => 0
  | some k =>
    let cause := match k.st with | .paused => k.cause | .stopped => k.cause | _ => 0
    (match k.st with | .armed => 1 | .running => 2 | .paused => 3 | .done => 4 | .stopped => 5)
      + 2 ^ 8 * cause + (if k.late then 2 ^ 12 else 0) + (if k.cmixs then 2 ^ 13 else 0)

/-- The copy that a handle names (R326, R340). -/
def named (s : State) (c : Ctx) (handle : Nat) : Option Copy := (s.copyOf c.g c.h handle).bind fun k => s.copies[k]?

/-- What the handle instructions check (R340). -/
def handlePlan (c : Ctx) (op : BitVec 10) (f : WordC) (h : Opnd) (uses : List Use) : Plan :=
  ⟨clauseWord op f.bits, f.desc = 0 && f.q = 0 && f.pm = 0 && f.x = 0 && f.xf = 0 && f.ch = 0 && f.ty = 0 && f.ru = 0 &&
    c.scalar h < 4096, false, uses, [], 0⟩

/-- A copy of a live launch whose home lets it run (R338). -/
structure InFlight (s : State) (cid : Nat) (k : Copy) (b : Block) (h : Group) (l : Launch) : Prop where
  party : s.issuer = .copy cid
  copy : s.copies[cid]? = some k
  home : s.copyHome k = some (b, h, l)

/-! Numbered barriers and tiles -/

/-- What ATOV and VTOA check (R357): the block has a sequencer and the tiles are bound; an f64 move names an even tile. -/
def tilePlan (c : Ctx) (op : BitVec 10) (f : WordX) (ok : Bool) (uses : List Use) : Plan :=
  ⟨clauseWord op f.bits, (f.ty = 0 || f.ty = 15) && f.q = 0 && f.pm = 0 && f.x = 0 && f.cnt.toNat < 2 && ruOk f.ru 0b100 &&
    (f.ty ≠ 15 || f.bar.toNat % 2 = 0) && c.b.seqr.isSome && (c.b.tile? f.bar.toNat).isSome &&
    (f.ty ≠ 15 || (c.b.tile? (f.bar.toNat + 1)).isSome) && ok, false, uses, c.maskCells 7, c.exec⟩

/-- Word (r, c) of a bound tile. -/
def tileWord (b : Block) (n r c : Nat) : Word := assocGet 0 ((b.tile? n).getD []) (64 * r + c)

/-- The tiles that a move names: one, or an f64 pair, low words in the even tile (R355, R357). -/
def movedTiles (f : WordX) : List Nat := if f.ty = 15 then [f.bar.toNat, f.bar.toNat + 1] else [f.bar.toNat]

/-! Clauses -/

/-- The opcodes of R76: BRA to BJOIN, CALL to EXIT, YIELD, BBAR, GBAR, TRAP, ERET and BRK. -/
def clauseEnders : List Nat :=
  [0x023, 0x024, 0x025, 0x026, 0x027, 0x028, 0x029, 0x02A, 0x02B, 0x02C, 0x02D, 0x02E, 0x02F, 0x030, 0x034]

/-- A header and the words behind it, of which R77 traps none. -/
structure SoundClause (f : WordH) (ws : List DWord) : Prop where
  mark : f.mark = 0x3F
  rsv : f.rsv = 0
  sig : f.sck = 0 → f.sig = 0
  word : ∀ (i : Nat) (w : DWord), ws[i]? = some w →
    let op := (w >>> 54).toNat
    op / 16 ≠ 0x3F ∧ (op / 128 = f.cls.toNat ∨ (1 ≤ op ∧ op ≤ 0x21)) ∧ (op ∈ clauseEnders → i + 1 = ws.length)

/-! The matrix stream -/

/-- The sequencer c executes a word. -/
structure Sequences (s : State) (c : SCtx) : Prop where
  party : s.issuer = .block c.bid
  ctx : s.sctxOf c.bid = some c

/-- The block's sequencer context replaced, and nothing else. -/
def State.withSeqr (s : State) (c : SCtx) (q : Sequencer) : State := s.modBlock c.bid fun b => { b with seqr := some q }

/-- The context one word on, or at another word (R106). -/
def SCtx.past (c : SCtx) : Sequencer := { c.q with pc := c.q.pc + 8, taken := false }
def SCtx.jump (c : SCtx) (imm : Word) : DWord := c.q.pc + 8 * imm.signExtend 64

/-- The context of block b has gone past its word, and holds its registers as they were. -/
structure SeqrPast (c : SCtx) (b : Block) (q : Sequencer) : Prop where
  at_ : b.seqr = some q
  pc : q.pc = c.q.pc + 8
  taken : q.taken = false
  h : q.h = c.q.h
  ended : q.ended = c.q.ended
  groups : b.groups = c.b.groups

/-- The tiles that TMASK names (R105). -/
def tmaskNames (f : WordMT) (n : Nat) : Bool := n < 16 && f.tmask.getLsbD n

/-- How many of TMASK's tiles are not bound. -/
def unboundNames (c : SCtx) (f : WordMT) : Nat :=
  ((List.range 16).filter fun n => tmaskNames f n && (c.b.tile? n).isNone).length

/-- MMA, MMAS and MMAZ with what R359, R360 and R362 require of their fields. -/
def mmaRow : Instr → Option (WordMM × BitVec 8)
  | .mma f => some (f, 0x0A)
  | .mmas f => some (f, 0x0B)
  | .mmaz f => some (f, 0x0C)
  | _ => none

/-- The value of element k of a line of floating-point elements, and of integers less the line's zero point (R359 to R361). -/
def lineValue (d : List (Nat × Byte)) (g : FF) (flush : Bool) (base stride l k : Nat) : Val :=
  g.read flush (readNum d ((base + l * stride) % 2 ^ 64 + k * (g.bits / 8)) (g.bits / 8))
def lineInteger (d : List (Nat × Byte)) (sg : Bool) (w base stride l k : Nat) : Int :=
  let byte := readNum d ((base + l * stride) % 2 ^ 64 + k * w / 8) 1
  let e := if w = 4 then byte / 16 ^ (k % 2) % 16 else byte
  if sg ∧ 2 ^ (w - 1) ≤ e then (e : Int) - 2 ^ w else e

/-- Products in groups of g, each added to the accumulator and rounded (R176). -/
def groupedProducts (g : Nat) (step : Nat → List Val → Nat) : Nat → Nat → List Val → Nat
  | 0, acc, _ => acc
  | n + 1, acc, ps => if ps = [] then acc else groupedProducts g step n (step acc (ps.take g)) (ps.drop g)

/-- The block's barriers once its sequencer or gang port has arrived at one of them; 0 is none (R349, R350). -/
def Block.barsAfter (b : Block) (bar : Nat) : List Barrier := if bar = 0 then b.bars else (b.arrive bar none).bars

/-- floor(|x| / 2^u) (R176). -/
def floorAt (x : Dy) (u : Int) : Nat :=
  if u ≤ x.exp then x.num.natAbs * 2 ^ (x.exp - u).toNat else x.num.natAbs / 2 ^ (u - x.exp).toNat

/-- A product truncated towards zero to the grid 2^u; it keeps its sign (R170, R176). -/
def onGrid (u : Int) : Val → Val
  | .fin x => if floorAt x u = 0 then .zero (decide (x.num < 0)) else .fin ⟨x.num.sign * floorAt x u, u⟩
  | v => v

/-- The virtual address of byte j of row r of a drain (R368). -/
def rowByte (d : MWork) (r j : Nat) : Nat := (d.hA + r * d.hSA) % 2 ^ 64 + j

/-- The bits of element (r, c) that MDRN writes in a floating-point format (R174, R179, R369). -/
def drainCode (d : MWork) (contract : Nat) (g : FF) (r c : Nat) : Nat :=
  let flush := matFlushOut contract
  match g with
  | .f32 => d.word 0 r c
  | .f64 => d.word 0 r c + 2 ^ 32 * d.word 1 r c
  | g =>
    let v := FF.f32.value (d.word 0 r c)
    if d.di then g.dither flush v (c % 16) d.phase else g.enc .rne flush v

/-- Block q of row r that MDRN writes in a Kite format (R316, R370). -/
def drainBlock (d : MWork) (contract : Nat) (k : Kite) (r q : Nat) : Packed :=
  kbpack (fun i => FF.f32.read (vecFlush contract) (d.word 0 r (16 * q + i))) k.mag d.emax d.di d.phase

/-- The escapes of a row, and of the rows before it (R370). -/
def rowEscapeCount (d : MWork) (contract : Nat) (k : Kite) (r : Nat) : Nat :=
  ((List.range 4).map fun q => ((List.range 16).filter fun i => (drainBlock d contract k r q).esc.contains i).length).sum
def escapeCount (d : MWork) (contract : Nat) (k : Kite) (r : Nat) : Nat :=
  ((List.range r).map (rowEscapeCount d contract k)).sum

/-- The number that MDRNA stores for element (r, c) over `old` (R170, R179, R369, R371). -/
def addedOnStore (d : MWork) (contract : Nat) (g : FF) (old r c : Nat) : Nat :=
  let fi := matFlushIn contract
  let acc := if g = .f64 then FF.f64.read fi (d.word 0 r c + 2 ^ 32 * d.word 1 r c) else FF.f32.read fi (d.word 0 r c)
  if d.int then (old + d.word 0 r c) % 2 ^ 32 else g.enc .rne (matFlushOut contract) (Val.sum [g.read fi old, acc])

/-- The drain d has gone on to the next band, or, `over_`, has ended: ZT makes the tile zero, and the drain arrives. -/
structure DrainMoved (s t : State) (c : SCtx) (d : MWork) (ds : List MWork) (over_ : Bool) : Prop where
  at_ : ∃ (b : Block) (q : Sequencer), t.block? c.bid = some b ∧ b.seqr = some q ∧
    q.drains = (if over_ then ds else { d with mrp := d.mrp + 1 } :: ds) ∧
    b.bars = (if over_ then c.b.barsAfter d.arr else c.b.bars) ∧
    ∀ n, b.tile? n =
      if over_ = true ∧ d.zt = true ∧ n ∈ d.named ∧ (c.b.tile? n).isSome = true then some [] else c.b.tile? n

/-- The oldest drain of the sequencer, ready to write: its destination is ordinary memory without errors, each address has
one place and each place one address, and its launch keeps no snapshot. -/
structure DrainReady (s : State) (c : SCtx) (d : MWork) (ds : List MWork) : Prop where
  seq : Sequences s c
  none : c.q.work = none
  first : c.q.drains = d :: ds
  ready : d.ready = true
  runs : c.runs = true
  clean : s.poison = []
  staged : c.b.staged = []
  snap : c.l.snap = false
  mem : s.mem.wf = true
  named : ∀ x ∈ d.dest, ∀ y ∈ d.dest, x.1 = y.1 ↔ x.2 = y.2
  plain : ∀ x ∈ d.dest, isCap x.2 = false ∧ x.2 < firmwareKey 0

/-- Address `va` stands for the place `pa`, and the rows of the drain's band after row r do not write there. -/
def lastWritten (d : MWork) (r va pa : Nat) : Prop :=
  (va, pa) ∈ d.dest ∧ ∀ r' j, r < r' → r' / 8 = d.mrp → j < d.rowLen → rowByte d r' j ≠ va

/-! Token masks, sampling, tickets -/

/-- The lanes of an operation on records: each lane's record, argument and status register (R386). -/
def recordLanes (c : Ctx) (d a : Opnd) (arg : Nat → Nat) : List BridleLane :=
  (laneList c.exec).map fun j => ⟨j, c.lane a j, arg j, ((d.cells c.h.sup c.x [j]).head?).getD (.v 0 j)⟩

/-- TMSTEP, TMMASK, TMQRY and TMSAVE (R386, R389 to R391): fields, opcode, what the form asks of B and C, whether B is a
vector source or a vector pair, RU, and the operation. -/
structure RecordRow where
  f : WordY
  op : BitVec 10
  ok : Bool
  more : List Use
  body : BridleOp
  narrow : Bool

def recordRow : Instr → Option RecordRow
  | .tmstep f => some ⟨f, 0x382, f.c = 0 && ruOk f.ru 0b110, [Use.src (Want.vsrc tB32) f.b], .step, true⟩
  | .tmmask f => some ⟨f, 0x383, (f.c = 0x180 || f.c = 0x181) && ruOk f.ru 0b110, [Use.src (Want.vreg 2) f.b], .mask (f.c = 0x181), false⟩
  | .tmqry f => some ⟨f, 0x384, f.b = 0 && f.c = 0 && ruOk f.ru 0b100, [], .query, false⟩
  | .tmsave f => some ⟨f, 0x385, f.b = 0 && (f.c = 0x180 || f.c = 0x181) && ruOk f.ru 0b100, [], .save (f.c = 0x181), false⟩
  | _ => none

/-- The bits of TMLOAD's control value (R388): INIT, and SLIM of 1 to 4,096 with it and 0 without. -/
def loadControl (v : Nat) : Bool :=
  let slim := v / 2 ^ 16 % 2 ^ 13
  v % 2 ^ 16 < 2 && v / 2 ^ 29 = 0 && (if v % 2 = 1 then 1 ≤ slim && slim ≤ 4096 else slim = 0)

/-- The descriptor of SAMPLE and SARGMX (R395) as eight registers hold it. -/
def sampleFields (v topk key : Nat) (draws : Bool) : SampleDesc :=
  let f (lo n : Nat) : Nat := v / 2 ^ lo % 2 ^ n
  ⟨f 0 64, f 64 64, f 128 32, f 160 32, f 192 21, f 216 1 = 1, f 224 32, topk, draws, key⟩
def sampleFits (v : Nat) : Bool :=
  let d := sampleFields v 0 0 false
  1 ≤ d.vocab && d.vocab ≤ 2 ^ 20 && v / 2 ^ 213 % 8 = 0 && v / 2 ^ 217 % 128 = 0 && d.lstr % (if d.bf then 2 else 4) = 0

/-- An instruction of the Bridle or the sampler issues: with lanes, its slot has them walked; with an empty EXEC it is an
ordering point (R126, R230, R392). -/
def State.issuesWhole (s : State) (c : Ctx) (w : DWord) (f : WordY) (op : BitVec 10) (body : Body) : State :=
  if c.exec = 0 then s.outstandingNow c (c.pend w (orderY f .p4) 0 [] .order) op f.stl
  else s.walking c (c.pend w (orderY f .p4) c.exec [] body)

/-- Word k of a transition entry, and whether the entry sets a bit that R377 marks zero. -/
def entryWord (bs : List Byte) (k : Nat) : Nat := leNat ((bs.drop (4 * k)).take 4)
def entryMalformed (bs : List Byte) : Bool := entryWord bs 2 / 8 % 2 ^ 13 ≠ 0 || entryWord bs 3 / 2 ^ 20 % 2 ^ 12 ≠ 0

/-- A record that the Bridle of the core's die has bound (R381): `b` as it stands, on a valid image, and the state in which
its use is noted. -/
structure BoundHere (s u : State) (who : Who) (va lid use : Nat) (b : Bound) (i : Image) : Prop where
  at_ : ∃ sp, s.translateSpan who .load none false va 256 = .inr sp ∧ sp.pas.head? = some b.pa
  bound : s.bound? b.pa = some b
  here : b.bridle = who.die
  image : Image.ofBytes b.image b.header = some i
  noted : u = s.modBound b.pa fun _ =>
    { b with lastUse := use, lids := if b.lids.contains lid then b.lids else b.lids ++ [lid] }

/-- The status word of R385 for a record of legal mask m. -/
def recordStatus (code m : Nat) (acc : Bool) (b : Bound) : Nat :=
  code + (if acc then 2 ^ 4 else 0) + (if m = 0 then 2 ^ 5 else 0) + (if b.ended then 2 ^ 6 else 0) + 2 ^ 8 * b.depth

/-- The 256 bytes and the stack of a record (R380). -/
structure RecordLayout (b : Bound) (bs : List Byte) : Prop where
  length : bs.length = 256 + 2 * b.depth
  image : fieldOf bs 0x00 8 = b.image % 2 ^ 64
  state : fieldOf bs 0x08 4 = b.state % 2 ^ 32
  depth : fieldOf bs 0x0C 4 = b.depth % 2 ^ 32
  slim : fieldOf bs 0x10 4 = b.slim % 2 ^ 32
  flags : fieldOf bs 0x14 4 = if b.ended then 1 else 0
  steps : fieldOf bs 0x18 4 = b.steps % 2 ^ 32
  lasttok : fieldOf bs 0x1C 4 = b.lasttok % 2 ^ 32
  zero : fieldOf bs 0x20 224 = 0
  stack : ∀ k, k < b.depth → fieldOf bs (0x100 + 2 * k) 2 = ((b.stack[k]?).getD 0) % 2 ^ 16

/-- What the four ticket instructions check (R410). -/
def ticketPlan (op : BitVec 10) (f : WordY) : Plan :=
  ⟨clauseWord op f.bits, f.b = 0 && f.c = 0 && ruOk f.ru 0b100, false, [Use.dst (Want.sreg 1) f.d, Use.src (Want.ssrc tB32) f.a], [], 0⟩

/-! Time, queries, work graphs and collectives -/

/-- The checks of a reduction descriptor (R417), against the number of ranks of its communicator. -/
def reductionFits (d : RedDesc) (n : Nat) : Bool :=
  let w := redWidth d.ty
  let dl := (if d.kind = 1 then d.count / n else d.count) * w
  d.ctl % 16 ≤ 2 && d.ctl / 2 ^ 6 % 4 = 0 && d.ctl / 2 ^ 13 % 8 = 0 && 5 ≤ d.ty && d.ty ≤ 12 && 1 ≤ d.count &&
    d.count ≤ 2 ^ 28 && (d.timed || d.time = 0) && (d.kind = 0 || d.count % n = 0) &&
    (d.dst + dl ≤ d.src || d.src + d.count * w ≤ d.dst || (d.src = d.dst && dl = d.count * w))

/-- A round of tree_reduce (R181): each pair of neighbours is summed and rounded to the accumulator's format, and an odd last value
is passed on. -/
def PairedUp (acc : FF) (fo : Bool) (x y : List Val) : Prop :=
  y.length = (x.length + 1) / 2 ∧
    (∀ (i : Nat) a b, x[2 * i]? = some a → x[2 * i + 1]? = some b →
      y[i]? = some (acc.value (roundedTo acc .rne fo (Val.sum [a, b]) false).enc)) ∧
    (x.length % 2 = 1 → y[x.length / 2]? = x[x.length - 1]?)

/-! Admission and scheduling -/

/-- A group as it starts (R434, R199 to R201, R221): ARGS in s0:s1, every other register zero, slot A at the entry with EXEC
and OWN of all lanes, RKEY the seed. -/
structure StartsFresh (l : Launch) (h : Group) : Prop where
  s0 : assocGet 0 h.s 0 = l.args.setWidth 32
  s1 : assocGet 0 h.s 1 = (l.args >>> 32).setWidth 32
  rest : ∀ n, 2 ≤ n → assocGet 0 h.s n = 0
  zero : h.sb = [] ∧ h.v = [] ∧ h.vb = [] ∧ h.ix = [] ∧ h.xa = 0 ∧ h.xaStat = 0 ∧ h.depth = 0 ∧ h.pend = [] ∧ h.aside = []
  path : h.slotA.st = .running ∧ h.slotA.pc = l.kernelPc ∧ h.slotA.exec = allLanes ∧ h.slotA.own = allLanes ∧ h.slotB.st = .empty
  special : h.rkey = l.seed ∧ h.tvec = l.tvec ∧ h.tframe = 0xFFFFFE00 ∧ h.cmixctl = 0 ∧ h.fpctl = 0x300 ∧ h.gstat = 0 ∧ h.sbchk = 0 ∧
    h.tcode = 0 ∧ h.dbgsel = 0

/-- A node block's group as it starts (R438): NARGS, the first record's virtual address and the record count in s0 to s4, every
other register zero, slot A at the node's entry with EXEC and OWN of as many lanes as there are records. -/
structure BatchFresh (l : Launch) (n : Node) (segment count : Nat) (h : Group) : Prop where
  args : assocGet 0 h.s 0 = BitVec.ofNat 32 n.nargs ∧ assocGet 0 h.s 1 = BitVec.ofNat 32 (n.nargs / 2 ^ 32)
  records : let va := n.bufva + 96 * n.rsz * segment
    assocGet 0 h.s 2 = BitVec.ofNat 32 va ∧ assocGet 0 h.s 3 = BitVec.ofNat 32 (va / 2 ^ 32)
  s4 : assocGet 0 h.s 4 = BitVec.ofNat 32 count
  rest : ∀ k, 5 ≤ k → assocGet 0 h.s k = 0
  zero : h.sb = [] ∧ h.v = [] ∧ h.vb = [] ∧ h.ix = [] ∧ h.xa = 0 ∧ h.depth = 0 ∧ h.pend = [] ∧ h.aside = []
  path : h.slotA.st = .running ∧ h.slotA.pc = n.kernelPc ∧ h.slotB.st = .empty
  lanes : ∀ k, k < 96 → h.slotA.exec.getLsbD k = decide (k < count) ∧ h.slotA.own.getLsbD k = decide (k < count)
  special : h.rkey = l.seed ∧ h.tvec = l.tvec ∧ h.tframe = 0xFFFFFE00 ∧ h.cmixctl = 0 ∧ h.gstat = 0 ∧ h.sbchk = 0

/-- The state in which the next block of a launch's grid is admitted: for its first block the front end has just read the
launch's RCB and the others on its path, which are well formed (R29). -/
structure AdmitsFrom (s u : State) (l : Launch) : Prop where
  later : l.nextBseq ≠ 0 → u = s
  first : l.nextBseq = 0 → ∃ path, s.launchPath l.vif l.rcb = some path ∧ u = s.keepRcbs path ∧ u.refusal l = none

/-- Nothing of the block's groups is in flight, on its walk or waiting for a ticket. -/
def Block.idleOps (b : Block) : Prop :=
  ∀ h ∈ b.groups, h.pend = [] ∧ h.aside = [] ∧ h.slotA.abandoned = none ∧ h.slotB.abandoned = none ∧ h.slotA.walk = none ∧
    h.slotB.walk = none

/-- No copy has a chunk in progress. -/
def State.noChunk (s : State) : Prop := ∀ k ∈ s.copies, k.work = none

/-- The registers and the program counters of a block's groups. -/
def Block.contexts (b : Block) :=
  b.groups.map fun h => (h.s, h.sb, h.v, h.vb, h.ix, h.xa, h.slotA.pc, h.slotA.exec, h.slotB.pc, h.slotB.exec)

/-- The block of index `bid` has come from one place to another with its registers, tiles and barriers as they were. -/
structure Moved (s t : State) (bid : Nat) (place : Place) : Prop where
  at_ : ∀ b, s.block? bid = some b → ∃ b', t.block? bid = some b' ∧ b'.place = place ∧ b'.core = b.core ∧
    b'.contexts = b.contexts ∧ b'.tiles = b.tiles ∧ b'.bars = b.bars

/-- The cores have changed places with their gondolas (R440, R442): the blocks that ran on one are in its gondola, and those
that were in it run; the slice of the partition that comes in begins. -/
structure ChangedPlaces (s t : State) (cores : List Nat) (into : Option Nat) : Prop where
  out : ∀ c ∈ cores, ∀ bid b, s.block? bid = some b → b.core = c → b.place = .resident →
    Moved s t bid .preempted ∧ ∃ k, t.cores[c]? = some k ∧ bid ∈ k.gondola
  back : ∀ c ∈ cores, ∀ k, s.cores[c]? = some k → ∀ bid ∈ k.gondola, Moved s t bid .resident
  slice : ∀ v w, into = some v → s.vifs[v]? = some w → ∃ w', t.vifs[v]? = some w' ∧ w'.sliceStart = s.time
  mem : t.mem = s.mem

/-- The cores are apart, and the blocks on them have nothing in flight; those of a gondola are paused on their own core. -/
structure MayChange (s : State) (cores : List Nat) : Prop where
  apart : cores.Nodup
  core : ∀ c ∈ cores, c < s.cores.length
  idle : ∀ b ∈ s.blocks, b.core ∈ cores → b.idleOps ∧
    ∀ h ∈ b.groups, h.slotA.park = none ∧ h.slotB.park = none
  held : ∀ c ∈ cores, ∀ k, s.cores[c]? = some k → k.gondola.Nodup ∧
    ∀ bid ∈ k.gondola, ∃ b, s.block? bid = some b ∧ b.core = c ∧ b.place = .preempted
  chunks : s.noChunk

/-- Launch `lid` needs core c (R440, R441): a group of its in the core's gondola could go on, or a candidate of its that fits
nowhere would fit there once the core's contexts have changed places. -/
def NeedsCore (s : State) (lid c : Nat) : Prop :=
  (∃ k bid b gid, s.cores[c]? = some k ∧ bid ∈ k.gondola ∧ s.block? bid = some b ∧ b.lid = lid ∧ gid < b.groups.length ∧
    s.groupReady ⟨bid, gid⟩ = true) ∨
  ∃ d ∈ s.candsOf lid, s.fitsSomewhere d = false ∧ ((s.exchangeCore c).fit d c).isSome = true

/-! Queues and commands -/

/-- Slot i is the one to be served, and the next entry of its queue q holds this command, without reserved bits (R426, R428,
R429). -/
structure QueueTurn (s : State) (i : Nat) (q : QSlot) (opc flags arg0 arg1 arg2 : Nat) (sg : SignalRef) : Prop where
  party : s.issuer = .queue i
  slot : assocFind s.queues i = some q
  turn : s.isNextQueue i q = true
  code : s.numAt (q.base + 64 * (q.rdidx % q.size)) 1 = opc
  flag : s.numAt (q.base + 64 * (q.rdidx % q.size) + 1) 1 = flags
  flagOk : flags < 2 ∨ (flags < 4 ∧ opc = 4)
  zeroLow : ∀ k < 6, s.physByte (q.base + 64 * (q.rdidx % q.size) + 2 + k) = 0
  zeroHigh : ∀ k < 16, s.physByte (q.base + 64 * (q.rdidx % q.size) + 0x30 + k) = 0
  a0 : s.numAt (q.base + 64 * (q.rdidx % q.size) + 8) 8 = arg0
  a1 : s.numAt (q.base + 64 * (q.rdidx % q.size) + 0x10) 8 = arg1
  a2 : s.numAt (q.base + 64 * (q.rdidx % q.size) + 0x18) 8 = arg2
  signal : s.numAt (q.base + 64 * (q.rdidx % q.size) + 0x20) 8 = sg.addr
  value : s.numAt (q.base + 64 * (q.rdidx % q.size) + 0x28) 8 = sg.value.toNat

/-- The entry has been read: RDIDX is one further, the slot is the last one served at its priority, and the state table is as
at this command boundary (R467). -/
def State.entryRead (s : State) (i : Nat) (q : QSlot) : State :=
  State.boundary { s with queues := assocPut s.queues i { q with rdidx := (q.rdidx + 1) % 2 ^ 32 }
                          served := assocPut s.served q.prio i }

/-- A started command. -/
def QSlot.started (q : QSlot) (opc arg0 arg1 arg2 : Nat) (sg : SignalRef) : Cmd := ⟨q.vif, q.queue, q.rdidx, opc, arg0, arg1, arg2, sg⟩

/-- The shape fields of a launch parameter block, and the sheet budget that the launch has, lie within R31 and R432. -/
def BlockShape (bs : List Byte) (sheet : Nat) : Prop :=
  let f (o n : Nat) : Nat := leNat ((bs.drop o).take n)
  let stage := if f 0x1C 4 = 0 then 0x40000 else f 0x1C 4
  f 0x02 2 = 0 ∧ (∀ o b, 0x60 ≤ o → bs[o]? = some b → b = 0) ∧
    1 ≤ f 0x08 2 ∧ 1 ≤ f 0x0A 2 ∧ 1 ≤ f 0x0C 1 ∧ f 0x08 2 * f 0x0A 2 * f 0x0C 1 ≤ 2 ^ 31 ∧ 1 ≤ f 0x0D 1 ∧ f 0x0D 1 ≤ 16 ∧
    f 0x11 1 < 8 ∧ f 0x17 1 / 2 % 8 = 0 ∧ stage % 4096 = 0 ∧ (f 0x11 1 % 2 = 1 → stage ≤ sheet) ∧
    (f 0x11 1 / 4 % 2 = 0 → f 0x40 8 = 0) ∧ f 0x54 4 ≤ 4096 ∧ f 0x58 8 % 64 = 0 ∧ (f 0x54 4 = 0 → f 0x58 8 = 0)

/-- The allotments, tiles and sheet budget that a launch asks for, 0 taking the kernel's (R31, R432). -/
def AsksOk (k : Kernel) (n v acc sheet : Nat) : Prop :=
  let of (x d : Nat) : Nat := if x = 0 then d else x
  (∀ x ∈ [of n k.sreg, of v k.vreg], 8 ≤ x ∧ x ≤ 128 ∧ x % 8 = 0) ∧ k.sreg ≤ of n k.sreg ∧ k.vreg ≤ of v k.vreg ∧
    of acc k.acc ≤ 32 ∧ k.acc ≤ of acc k.acc ∧ of sheet k.sheet ≤ 0x600000 ∧ of sheet k.sheet % 4096 = 0 ∧ k.sheet ≤ of sheet k.sheet

/-- The status of a parameter block that names the kernel k of the object c, under a region of effective values e. -/
def KernelChecks (s : State) (bs : List Byte) (c : CodeObj) (k : Kernel) (e : EffRcb) (status : Nat ⊕ (State × Launch × List Rcb)) : Prop :=
  let f (o n : Nat) : Nat := leNat ((bs.drop o).take n)
  let asks := AsksOk k (f 0x12 1) (f 0x13 1) (f 0x16 1) (f 0x18 4)
  let of (x d : Nat) : Nat := if x = 0 then d else x
  let contract := of (f 0x10 1) k.contract
  let need : BlockNeed :=
    ⟨of (f 0x18 4) k.sheet, of (f 0x16 1) k.acc, f 0x0D 1, of (f 0x12 1) k.sreg, of (f 0x13 1) k.vreg, k.mseq.isSome⟩
  let carried := 1 ≤ contract ∧ contract ≤ 6 ∧ c.needc.getLsbD contract = true
  let shape := BlockShape bs (of (f 0x18 4) k.sheet)
  let traversal := f 0x0E 1 ≤ 3 ∧ f 0x0F 1 ≤ 6 ∧ (2 ≤ f 0x0E 1 → f 0x0F 1 = 0)
  (¬ asks → status = .inl 2) ∧
  (asks → ¬ carried → status = .inl 1) ∧
  (asks → carried → ¬ shape → status = .inl 2) ∧
  (asks → carried → shape → ¬ traversal → status = .inl 3) ∧
  (asks → carried → shape → traversal → need.fits s e = false → status = .inl 5) ∧
  (asks → carried → shape → traversal → need.fits s e = true → f 0x11 1 / 2 % 2 = 1 →
    e.balsize < need.gridBallast e (f 0x08 2 * f 0x0A 2 * f 0x0C 1) → status = .inl 6)

/-! The host, management and power -/

/-- A host's access to interface v, on a port whose link is up, of a device that has come up (R462, R475), with no aperture
request of the interface under way (R464, R466). -/
structure HostAccess (s : State) (v : Nat) (w : Vif) : Prop where
  party : s.issuer = .host v
  up : s.stage = 5
  vif : s.vifs[v]? = some w
  link : s.linkUp w.port = true
  idle : w.aperture = none

/-- Bytes off to off + size - 1 of a register replaced (R464). -/
def bytesInto (old : DWord) (off size : Nat) (value : DWord) : DWord :=
  BitVec.ofNat 64 ((List.range 8).map fun i =>
    256 ^ i * (if off ≤ i ∧ i < off + size then value.toNat / 256 ^ (i - off) % 256 else old.toNat / 256 ^ i % 256)).sum

/-- The interface registers as a host reads them (R465). -/
def bar0Rows (s : State) (n : Nat) (w : Vif) : List (Nat × Nat) :=
  [(0x00, n + 64 * w.port), (0x08, w.qtbase.toNat), (0x10, w.rootRcb.toNat), (0x18, w.asidr.toNat), (0x20, w.apctl.toNat),
   (0x28, w.apva.toNat), (0x30, w.vistat.toNat), (0x38, s.firmware.running.version % 2 ^ 32 + s.firmware.running.tableVersion % 2 ^ 16 * 2 ^ 32),
   (0x40, 0), (0x100, s.telem.temp.toNat), (0x108, s.telem.pwr.toNat), (0x110, s.telem.energy.toNat), (0x118, s.telem.ecccor.toNat),
   (0x120, s.telem.eccunc.toNat), (0x128, s.telem.sigmisn.toNat), (0x130, s.telem.replayn.toNat), (0x138, s.telem.noreplay.toNat)]

/-- Bytes of one aligned 4-byte unit. -/
def OneUnit (pas : List Nat) : Prop := ∀ a ∈ pas, ∀ b ∈ pas, a / 4 = b / 4

/-- What a request at the aperture leaves as its work, or answers when all its bytes `pas` are done: `got` are those that are,
and a read answers with their values. -/
def apertureGoesOn (s : State) (v : Nat) (k : ApertureWork) (got : List (Nat × Byte)) : State :=
  if k.pas.all fun x => got.any fun q => q.1 = x then
    { s.modVif v (fun w => { w with aperture := none }) with
      out := s.out ++ [.aperture v (if k.data.isNone then k.pas.map fun x => (assocFind got x).getD 0 else [])] }
  else s.modVif v fun w => { w with aperture := some { k with got := got } }

/-! Barrier counts -/

/-- What an event that adds k to the count of a barrier leaves when its target is tgt: while CNTB ≥ TGT and TGT > 0, CNTB
falls by TGT and GEN rises by one; with TGT 0 the arrival completes exactly one generation (R350). -/
def Counted (tgt k : Nat) (x y : Barrier) : Prop :=
  if tgt = 0 then y.gen = (x.gen + 1) % 2 ^ 32
  else y.cnt = (x.cnt + k) % tgt ∧ y.gen = (x.gen + (x.cnt + k) / tgt) % 2 ^ 32

/-- Barrier bar of block bid has counted k, and every other barrier of the block is as it was. -/
def BarCounted (tgt k bar : Nat) (b b' : Block) : Prop :=
  (∀ x, b.bars[bar - 1]? = some x → x.gen < 2 ^ 32 → ∃ y, b'.bars[bar - 1]? = some y ∧ Counted tgt k x y) ∧
    ∀ i, i ≠ bar - 1 → b'.bars[i]? = b.bars[i]?

/-! Encoding -/

/-- The sequence of words in which an instruction's word stands (R73, R105). -/
def streamOf : Instr → Stream
  | .mset _ | .msetHi _ | .madd _ | .mbnz _ | .mbra _ | .mwaitb _ | .marrb _ | .malloc _ | .mfree _ | .mzero _ => .matrix
  | .mma _ | .mmas _ | .mmaz _ | .mmag _ | .mdrn _ | .mdrna _ | .mend _ | .illegalMatrixWord _ => .matrix
  | _ => .clause

/-! What register instructions leave -/

/-- Nothing but the cells listed, the flags listed and the issuing slot's place in its clause has changed. -/
structure LeavesRest (c : Ctx) (s t : State) (k : Group) (written : List RegCell) (flags : Nat) : Prop where
  elsewhere : SameElsewhere c.g s t
  cells : ∀ r, cellOk r = true → r ∉ written → k.cell r = c.h.cell r
  other : k.slot (SlotId.other c.x) = c.h.slot (SlotId.other c.x)
  path : ((k.slot c.x).st, (k.slot c.x).own, (k.slot c.x).rj) = (.running, c.sl.own, c.sl.rj)
  flags : k.gstat = c.h.gstat ||| BitVec.ofNat 32 flags
  control : (k.cmixctl, k.fpctl, k.tframe, k.tvec, k.tcode, k.sbchk, k.dbgsel) =
    (c.h.cmixctl, c.h.fpctl, c.h.tframe, c.h.tvec, c.h.tcode, c.h.sbchk, c.h.dbgsel)
  accumulator : (k.xa, k.xaStat, k.rkey) = (c.h.xa, c.h.xaStat, c.h.rkey)
  operations : (k.depth, k.ser, k.pend, k.aside) = (c.h.depth, c.h.ser, c.h.pend, c.h.aside)

end Sys2Proof.Machine
end

