-- ==== Sys2Proof/Certificates/Slice0/Obligations.lean ====
section
/-!
DEFINITION. The statements for the provers.
-/

open Sys2Proof Sys2Proof.Machine

/-! Scalar registers -/

/-- Scalar instructions (R203, R207): the destination receives the value of the rule. The mask instructions (R206, R207); then
KPOPC and KFFS, which count the lanes of a mask and find its lowest, 96 for none. NOP (R103), SMOVI (R204), IXSET (R205) and
SIGSET (R225). -/
def Obligations.ScalarResults : Prop :=
  (∀ i r, scalarRow i = some r → ∀ s c d a os, Quiet s c → Passes c (r.form.plan r.op r.f) (d :: a :: os) →
     let t := r.f.ty.toNat
     let w := tyWidth t
     let v (k : Nat) : Nat := (((a :: os)[k]?).map c.scalar).getD 0
     exec i s = .next (s.withEffect c (clauseWord r.op r.f.bits) r.op r.f.stl (if tyWide t then r.lat64 else r.lat32)
       { writes := c.sput d (r.value w (BitVec.ofNat w (v 0)) (BitVec.ofNat w (v 1)) (BitVec.ofNat 32 (v 1))
           (BitVec.ofNat 32 (v 2))) })) ∧
  ((∀ i r, maskRow i = some r → ∀ s c d a os, Quiet s c → Passes c (planK r.op r.f r.two Want.mask) (d :: a :: os) →
     exec i s = .next (s.withEffect c (clauseWord r.op r.f.bits) r.op r.f.stl 2
       { writes := c.kput d (r.value (c.kmask a) (((os[0]?).map c.kmask).getD 0)) })) ∧
   (∀ f s c d a, Quiet s c → Passes c (planK 0x021 f false (Want.sreg 1)) [d, a] →
     exec (.kpopc f) s = .next (s.withEffect c (clauseWord 0x021 f.bits) 0x021 f.stl 3
       { writes := c.sput d (laneList (c.kmask a)).length })) ∧
   (∀ f s c d a, Quiet s c → Passes c (planK 0x022 f false (Want.sreg 1)) [d, a] →
     exec (.kffs f) s = .next (s.withEffect c (clauseWord 0x022 f.bits) 0x022 f.stl 3
       { writes := c.sput d (((laneList (c.kmask a)).head?).getD 96) }))) ∧
  ((∀ f s c, Quiet s c → Passes c (planNop f) [] →
     exec (.nop f) s = .next (s.withEffect c (clauseWord 0x001 f.bits) 0x001 f.stl 0 {})) ∧
   (∀ f s c d, Quiet s c → Passes c (planMove f 0 1) [d] →
     exec (.smovi f) s = .next (s.withEffect c (clauseWord 0x003 f.bits) 0x003 f.stl 2 { writes := c.sput d f.imm.toNat })) ∧
   (∀ f s c d, Quiet s c → Passes c (planMove f 1 2) [d] →
     exec (.smoviB64 f) s = .next (s.withEffect c (clauseWord 0x003 f.bits) 0x003 f.stl 3
       { writes := c.sput d (f.imm.signExtend 64).toNat })) ∧
   (∀ f s c a, Quiet s c → Passes c (planIx f) [a] →
     exec (.ixset f) s = .next (s.withEffect c (clauseWord 0x01A f.bits) 0x01A f.stl 2
       { writes := [(.ix (f.sub.toNat % 4), (BitVec.ofNat 32 (c.scalar a)) &&& 0xFF)] })) ∧
   (∀ f s c, Quiet s c → Passes c (planImm 0x031 f (f.imm.extractLsb' 16 16 = 0)) [] →
     exec (.sigset f) s = .next ((s.modSlot c.g c.x fun sl =>
       { (sl.retire ⟨0x031, f.stl, false, c.sl.pc + 8, none⟩).1 with sig := f.imm.setWidth 16 }).clauseGoesOn c c.lastWord)))

/-! Special registers -/

/-- SRD reads the listed register, with the fixed latency 4 (R198, R207, R226); SRD of TIMELO also takes the high word into the
holding word, and SRD of TIMEHI gives the holding word, or the current high word, and ends it (R13). An index that is not
listed traps with ILLOP, and TVEC outside supervisor mode with PRIV, the PC at the instruction (R198). SWR writes the
register where the mode lets it (R202, R226). SWR of a listed register that software does not write, and outside supervisor
mode of TFRAME, TVEC and DBGSEL, traps with PRIV, the PC at the instruction (R216, R226). -/
def Obligations.SpecialRegisters : Prop :=
  ((∀ f s c d v, Quiet s c → ((f.imm.extractLsb' 0 12).toNat, v) ∈ specialValues s c → Passes c (planSrd f true) [d] →
     exec (.srd f) s = .next (s.withEffect c (clauseWord 0x032 f.bits) 0x032 f.stl 4 { writes := c.sput d (v % 2 ^ 32) })) ∧
   (∀ f s c d, Quiet s c → Passes c (planSrd f true) [d] →
     exec (.srdTimelo f) s = .next ((s.withEffect c (clauseWord 0x032 f.bits) 0x032 f.stl 4
         { writes := c.sput d (s.time % 2 ^ 32) }).modGroup c.g fun h =>
           { h with timeHold := some (BitVec.ofNat 32 (s.time / 2 ^ 32)) })) ∧
   (∀ f s c d, Quiet s c → Passes c (planSrd f true) [d] →
     exec (.srdTimehi f) s = .next ((s.withEffect c (clauseWord 0x032 f.bits) 0x032 f.stl 4
         { writes := c.sput d (c.h.timeHold.getD (BitVec.ofNat 32 (s.time / 2 ^ 32))).toNat }).modGroup c.g fun h =>
           { h with timeHold := none })) ∧
   (∀ f s c, s.ctx? = some c → (f.imm.extractLsb' 0 12).toNat ∉ [0x030, 0x031] ++ (specialValues s c).map Prod.fst →
     exec (.srd f) s = .next (s.trapPlain c (clauseWord 0x032 f.bits) 0x01)) ∧
   (∀ f s c, s.ctx? = some c → f.sub = 0 → f.ru = 0 → f.imm = 0x051 → (resolve c.ix (Want.sreg 1) f.d).isSome = true →
     c.h.sup = false → exec (.srd f) s = .next (s.trapPlain c (clauseWord 0x032 f.bits) 0x13))) ∧
  (∀ i f, (i = .swr f ∨ i = .swrGstat f) → ∀ s c a k, Quiet s c → s.swrOk c f = true → Passes c (planSwr f true) [a] →
     let ix := (f.imm.extractLsb' 0 12).toNat
     (swrAnyMode ix = true ∨ c.h.sup = true) → swrWritten ix c.h (BitVec.ofNat 32 (c.scalar a)) = some k →
     exec i s = .next ((s.modGroup c.g fun _ => k).ended c 0x033 f.stl (c.sl.pc + 8))) ∧
  (∀ i f, (i = .swr f ∨ i = .swrGstat f) → ∀ s c, s.ctx? = some c → s.swrOk c f = true →
     (resolve c.ix (Want.ssrc tB32) f.d).isSome = true →
     let ix := (f.imm.extractLsb' 0 12).toNat
     ((swrWritten ix c.h 0).isNone = true ∨ (swrAnyMode ix = false ∧ c.h.sup = false)) →
     exec i s = .next (s.trapPlain c (clauseWord 0x033 f.bits) 0x13))

/-! The vector engine -/

/-- The element-wise integer instructions (R268, R273 to R275, R277 to R279): each element of a lane of the active set. What
lies above a 16-bit or 8-bit float element after VMOV (zero) is the model's reading (log 38). -/
def Obligations.VectorElementResults : Prop :=
  ∀ i r, elementRow i = some r → ∀ s c d os,
    let t := r.f.ty.toNat
    let w := tyWidth t
    Quiet s c → Passes c (c.planV r.op r.f r.legal (vUses t r.sources r.f) []) (d :: os) →
    let x (k j e : Nat) : BitVec w := BitVec.ofNat w (opElem c (d :: os) t k j e)
    exec i s = .next (s.withEffect c (clauseWord r.op r.f.bits) r.op r.f.stl (if tyWide t then r.lat64 else r.lat)
      { writes := c.vput d r.f.km r.f.z fun j => laneOf t fun e => r.value w (x 1 j e) (x 2 j e) (x 3 j e) })

/-- VBFE and VBFI (R276): the field of n bits from bit o, cut off at the width. VSET (R277): all bits of an element for a vector
destination, a lane for a mask. VPACK and VUNPK (R278): narrowing from the elements, twice as wide, of two sources,
truncating (CF 0) or saturating (CF 1); widening of the low or high half. The type of the constants of VBFE and VBFI, and of
VPACK's sources, is the model's reading (log 80). -/
def Obligations.VectorFieldResults : Prop :=
  ((∀ f s c d a o n,
     let t := f.ty.toNat
     let w := tyWidth t
     Quiet s c → Passes c (c.planV 0x097 f (fields3.ok f && tyInt32 t)
       (vUses t 1 f ++ [Use.src (Want.vsrc tB32) f.b, Use.src (Want.vsrc tB32) f.c]) []) [d, a, o, n] →
     exec (.vbfe f) s = .next (s.withEffect c (clauseWord 0x097 f.bits) 0x097 f.stl (if tyWide t then 6 else 4)
       { writes := c.vput d f.km f.z fun j =>
           let from_ := c.lane o j
           let len := min (c.lane n j) (w - from_)
           numberOf w fun i =>
             if i < len then (c.lane a j).testBit (from_ + i)
             else len ≠ 0 && tySigned t && (c.lane a j).testBit (from_ + len - 1) })) ∧
   (∀ f s c d a o n,
     let t := f.ty.toNat
     let w := tyWidth t
     Quiet s c → Passes c (c.planV 0x098 f (fields3.ok f && (t = tB32 || t = tB64))
       [Use.both (Want.vreg (tyRegs t)) f.d, Use.src (Want.vsrc t) f.a, Use.src (Want.vsrc tB32) f.b,
         Use.src (Want.vsrc tB32) f.c] []) [d, a, o, n] →
     exec (.vbfi f) s = .next (s.withEffect c (clauseWord 0x098 f.bits) 0x098 f.stl (if tyWide t then 6 else 4)
       { writes := c.vput d f.km f.z fun j =>
           let start := c.lane o j
           numberOf w fun i =>
             if start ≤ i && i < start + c.lane n j then (c.lane a j).testBit (i - start) else (c.lane d j).testBit i }))) ∧
  (∀ f s c d a b,
     let t := f.ty.toNat
     let w := tyWidth t
     let ok := fields2.withCf.ok f && f.c.toNat ≤ 5 && tyBits t && (f.c.toNat < 2 || tyInt t) && (opKind f.d ≠ 1 || tyElems t = 1)
     Quiet s c → Passes c (c.planV 0x099 f ok [compareDst (tyRegs t) f, Use.src (Want.vsrc t) f.a, Use.src (Want.vsrc t) f.b] [])
       [d, a, b] →
     let holds (j e : Nat) : Bool := compared (tySigned t) f.c.toNat (BitVec.ofNat w (elemOf (c.lane a j) w e))
       (BitVec.ofNat w (elemOf (c.lane b j) w e))
     exec (.vset f) s = .next (s.withEffect c (clauseWord 0x099 f.bits) 0x099 f.stl (if tyWide t then 6 else 4)
       { writes := match d with
           | .k m => c.kput (.k m) (maskUnder c f.km f.z (heldMask c m) fun j => holds j 0)
           | d => c.vput d f.km f.z fun j => laneOf t fun e => if holds j e then 2 ^ w - 1 else 0 })) ∧
  ((∀ f s c d a b,
     let t := f.ty.toNat
     let w := tyWidth t
     let half := tyElems t / 2
     let u := if w = 8 then tS16 else tS32
     Quiet s c → Passes c (c.planV 0x09C f (fields2.withCf.ok f && 1 ≤ t && t ≤ 4 && f.c.toNat ≤ 1)
       [Use.dst (Want.vreg 1) f.d, Use.src (Want.vsrc u) f.a, Use.src (Want.vsrc u) f.b] []) [d, a, b] →
     exec (.vpack f) s = .next (s.withEffect c (clauseWord 0x09C f.bits) 0x09C f.stl 4
       { writes := c.vput d f.km f.z fun j => laneOf t fun e =>
           let x : BitVec (2 * w) := BitVec.ofNat (2 * w) (elemOf (c.lane (if e < half then a else b) j) (2 * w) (e % half))
           if f.c = 0 then x.toNat % 2 ^ w else clampedTo (tySigned t) w x.toInt })) ∧
   (∀ f s c d a,
     let t := f.ty.toNat
     let w := tyWidth t
     let half := tyElems t / 2
     Quiet s c → Passes c (c.planV 0x09D f (fields1.withCf.ok f && 1 ≤ t && t ≤ 4 && f.c.toNat ≤ 1) (vUses t 1 f) []) [d, a] →
     exec (.vunpk f) s = .next (s.withEffect c (clauseWord 0x09D f.bits) 0x09D f.stl 4
       { writes := c.vput d f.km f.z fun j => packElems (2 * w) ((List.range half).map fun e =>
           let x : BitVec w := BitVec.ofNat w (elemOf (c.lane a j) w (e + half * f.c.toNat))
           if tySigned t then (x.signExtend (2 * w)).toNat else x.toNat) })))

/-- VMOVI, VLANE (R279, R280) and the movement of lanes (R280 to R284). The lanes of the active set in ascending order, packed
into the lanes of EXEC in ascending order; the lanes left over are zero with Z, and else keep their values (R283). VRED
(R285): into a scalar, with Z zero, or into every lane of the active set. -/
def Obligations.LaneResults : Prop :=
  ((∀ f s c d, Quiet s c → Passes c (c.planVI 0x082 f true (Use.dst (Want.vreg 1) f.d) false) [d] →
     exec (.vmovi f) s = .next (s.withEffect c (clauseWord 0x082 f.bits) 0x082 f.stl 4
       { writes := c.vput d f.km f.z fun _ => f.imm.toNat })) ∧
   (∀ f s c d, Quiet s c → Passes c (c.planV 0x0A2 f (fields0.ok f && f.ty = 6) [Use.dst (Want.vreg 1) f.d] []) [d] →
     exec (.vlane f) s = .next (s.withEffect c (clauseWord 0x0A2 f.bits) 0x0A2 f.stl 4
       { writes := c.vput d f.km f.z fun j => j })) ∧
   (∀ f s c d a b,
     let t := f.ty.toNat
     let ok := fields2.ok f && (t = tB32 || t = tB64)
     Quiet s c → Passes c (c.planV 0x0A0 f ok [Use.dst (Want.vreg (tyRegs t)) f.d, Use.src (Want.vsrc t) f.a,
       Use.src (Want.vscal tB32) f.b] [Use.src (Want.vsrc t) f.a]) [d, a, b] →
     exec (.vbcast f) s = .next (s.withEffect c (clauseWord 0x0A0 f.bits) 0x0A0 f.stl 6
       { writes := c.vput d f.km f.z fun _ => lane96 c a (c.scalar b) })) ∧
   (∀ f s c d a b,
     let t := f.ty.toNat
     let ok := fields2.ok f && (t = tB32 || t = tB64)
     Quiet s c → Passes c (c.planV 0x09E f ok (vUses t 2 f) [Use.src (Want.vsrc t) f.a]) [d, a, b] →
     exec (.vshfl f) s = .next (s.withEffect c (clauseWord 0x09E f.bits) 0x09E f.stl 8
       { writes := c.vput d f.km f.z fun j => lane96 c a (c.lane b j % 2 ^ 32) })) ∧
   (∀ f s c d,
     let n := (f.imm.extractLsb' 0 7).toNat
     let mode := (f.imm.extractLsb' 28 4).toNat
     let ok := mode ≤ 3 && f.imm.extractLsb' 7 21 = 0 && (mode = 1 || n < 96)
     Quiet s c → Passes c (c.planVI 0x09F f ok (Use.both (Want.vreg 1) f.d) true) [d] →
     exec (.vshfi f) s = .next (s.withEffect c (clauseWord 0x09F f.bits) 0x09F f.stl 6
       { writes := c.vput d f.km f.z fun j =>
           if mode = 0 then lane96 c d ((j + n) % 96) else if mode = 1 then lane96 c d (j ^^^ n)
           else if mode = 2 then (if n ≤ j then lane96 c d (j - n) else 0) else lane96 c d (j + n) })) ∧
   (∀ f s c d a b,
     let t := f.ty.toNat
     let ok := fields2.ok f && (t = tB32 || t = tB64) && f.km = 7 && f.z = 0
     Quiet s c → Passes c (c.planV 0x0A3 f ok [Use.dst (Want.vsonly (tyRegs t)) f.d, Use.src (Want.vsrc t) f.a,
       Use.src (Want.vscal tB32) f.b] [Use.src (Want.vsrc t) f.a]) [d, a, b] →
     exec (.vrdln f) s = .next (s.withEffect c (clauseWord 0x0A3 f.bits) 0x0A3 f.stl 6
       { writes := c.sput d (lane96 c a (c.scalar b)) })) ∧
   (∀ f s c d a b,
     let t := f.ty.toNat
     let ok := fields2.ok f && (t = tB32 || t = tB64) && f.z = 0
     Quiet s c → Passes c (c.planV 0x0A4 f ok [Use.dst (Want.vreg (tyRegs t)) f.d, Use.src (Want.vscal t) f.a,
       Use.src (Want.vscal tB32) f.b] []) [d, a, b] →
     exec (.vwrln f) s = .next (s.withEffect c (clauseWord 0x0A4 f.bits) 0x0A4 f.stl 6
       { writes := if (c.active f.km).getLsbD (c.scalar b) then
           (d.cells c.h.sup c.x [c.scalar b]).zip (wordsOf 2 (c.scalar a)) else [] }))) ∧
  (∀ f s c d a,
     let t := f.ty.toNat
     Quiet s c → Passes c (c.planV 0x0A1 f (fields1.ok f && (t = tB32 || t = tB64)) (vUses t 1 f) []) [d, a] →
     ∃ ws, exec (.vcmprs f) s = .next (s.withEffect c (clauseWord 0x0A1 f.bits) 0x0A1 f.stl 8 { writes := ws }) ∧
       ∀ q, q ∈ ws ↔ ∃ (k lane : Nat), (laneList c.exec)[k]? = some lane ∧
         q ∈ (d.cells c.h.sup c.x [lane]).zip (match (laneList (c.active f.km))[k]? with
           | some src => wordsOf 2 (c.lane a src)
           | none => if f.z = 1 then [0, 0] else [])) ∧
  (∀ f s c d a,
     let t := f.ty.toNat
     let w := tyWidth t
     let op := f.c.toNat
     let ok := fields1.withCf.ok f && (t = tB32 || t = tB64 || tyInt32 t) && op ≤ 5 && (tyInt32 t || (op ≠ 1 && op ≠ 2)) &&
       (opKind f.d ≠ 1 || f.z = 0)
     Quiet s c → Passes c (c.planV 0x0A5 f ok [Use.dst (Want.vors (tyRegs t)) f.d, Use.src (Want.vsrc t) f.a] []) [d, a] →
     let v := (reduced op (tySigned t) w ((laneList (c.active f.km)).map fun j => BitVec.ofNat w (c.lane a j))).toNat
     exec (.vred f) s = .next (s.withEffect c (clauseWord 0x0A5 f.bits) 0x0A5 f.stl 10
       { writes := match d with
           | .s r n => c.sput (.s r n) v
           | d => c.vput d f.km f.z fun _ => v }))

/-! Floating point -/

/-- The floating-point instructions (R286, R287, R289): each element of a lane of the active set; each lane's conditions go to
GSTAT. Stated where no condition is enabled in FPCTL; ChecksAndConditions says what an enabled one does. FSET (R288): all
bits of an element of a vector destination, a lane of a mask. FDOT2 (R292): the two products and C summed as a matrix
element is; invalid and overflow alone are raised. FFMA's invalid for an infinity times 0 plus a quiet NaN (log 40), and the
type of a constant C of FDOT2 (log 80), are the model's readings. -/
def Obligations.FloatResults : Prop :=
  (∀ i r, floatRow i = some r → ∀ s c d os,
     let t := r.f.ty.toNat
     let k := (ffOf t).getD .f32
     Quiet s c → Passes c (c.planV r.op r.f (r.fields.ok r.f && r.legal) (vUses t r.sources r.f) []) (d :: os) →
     let x (n j e : Nat) : Nat := opElem c (d :: os) t n j e
     let eff := deliveredEff c d r.f.km r.f.z fun j => deliveredLane t fun e =>
       r.value k (Mode.ofRM r.f.rm) c.flush c.l.contract (x 1 j e) (x 2 j e) (x 3 j e)
     enabledLanes c.h.enables eff.conds = 0 →
     exec i s = .next (s.withEffect c (clauseWord r.op r.f.bits) r.op r.f.stl r.lat eff)) ∧
  (∀ f s c d a b,
     let t := f.ty.toNat
     let w := tyWidth t
     let k := (ffOf t).getD .f32
     let ok := fields2.withCf.ok f && f.c.toNat ≤ 7 && tyFloat t && (opKind f.d ≠ 1 || tyElems t = 1)
     Quiet s c → Passes c (c.planV 0x10A f ok [compareDst (tyRegs t) f, Use.src (Want.vsrc t) f.a, Use.src (Want.vsrc t) f.b] [])
       [d, a, b] →
     let r (j e : Nat) : Bool × Bool := floatCompared f.c.toNat (k.read c.flush (elemOf (c.lane a j) w e))
       (k.read c.flush (elemOf (c.lane b j) w e))
     let conds := (laneList (c.active f.km)).map fun j => (j, if (List.range (tyElems t)).any fun e => (r j e).2 then 1 else 0)
     enabledLanes c.h.enables conds = 0 →
     exec (.fset f) s = .next (s.withEffect c (clauseWord 0x10A f.bits) 0x10A f.stl (if tyWide t then 6 else 4)
       { writes := match d with
           | .k m => c.kput (.k m) (maskUnder c f.km f.z (heldMask c m) fun j => (r j 0).1)
           | d => c.vput d f.km f.z fun j => laneOf t fun e => if (r j e).1 then 2 ^ w - 1 else 0
         conds := conds })) ∧
  (∀ f s c d a b e,
     let t := f.ty.toNat
     let k := (ffOf t).getD .f16
     Quiet s c → Passes c (c.planV 0x110 f (fields3.ok f && (t = 16 || t = 17)) [Use.dst (Want.vreg 1) f.d, Use.src (Want.vsrc t) f.a,
       Use.src (Want.vsrc t) f.b, Use.src (Want.vsrc tF32) f.c] []) [d, a, b, e] →
     let rd (o : Opnd) (j n : Nat) : Val := k.read c.flush (elemOf (c.lane o j) 16 n)
     let eff := deliveredEff c d f.km f.z fun j =>
       let z := FF.f32.read c.flush (c.lane e j)
       let ps := [(rd a j 0).mul (rd b j 0), (rd a j 1).mul (rd b j 1)]
       let r := mmaElement .f32 c.flush c.flush (alignBits c.l.contract) 2 (c.lane e j) ps
       let all := [rd a j 0, rd a j 1, rd b j 0, rd b j 1, z]
       let invalid := all.any Val.isSnan || zeroTimesInf (rd a j 0) (rd b j 0) || zeroTimesInf (rd a j 1) (rd b j 1)
         || ((z :: ps).any fun v => v.isInf && v.isNeg) && ((z :: ps).any fun v => v.isInf && !v.isNeg)
       let overflow := (FF.f32.value r).isInf && !((z :: ps).any Val.isInf)
       ⟨r, (if invalid then 1 else 0) + (if overflow then 4 else 0)⟩
     enabledLanes c.h.enables eff.conds = 0 →
     exec (.fdot2 f) s = .next (s.withEffect c (clauseWord 0x110 f.bits) 0x110 f.stl 6 eff))

/-- Each element of a lane of the active set for the function pairs (R301, R304), with the element's function as the model
computes it; the other parts say what it is on the special operands and, for the functions that arithmetic undoes, on the
others. The special operands of the functions (R305), in both forms, whatever the mode and contract; the formats are those
of R304 that have infinities. Then the values that a function takes exactly: the zeros and ±1 of SIN and COS, the powers of
two that EX2 reaches and the whole numbers that LG2 gives. The ordinary operands of RCP, RSQ, SQT and DIV, where the result
neither overflows nor is flushed: its sign; a value of the format is delivered exactly by both forms (R305); the R form of a
contract with table revision 3, and of SQT and DIV always, is correctly rounded (R306), as is the F form of RCP, RSQ and SQT
at 16 bits; the other F forms lie within the bound (R307), where the last place is that of the binade of the exact result. F
forms are stated with the free choice within the bound (log 10), R forms through the model's enclosures (log 11). -/
def Obligations.FunctionResults : Prop :=
  (∀ i f op fn fast, functionRow i = some (f, op, fn, fast) → ∀ s c d os,
     let t := f.ty.toNat
     let k := (ffOf t).getD .f32
     let two := fn = .div
     Quiet s c →
     Passes c (c.planV op f ((if two then fields2 else fields1).rounds.ok f && tyFloat t && t ≠ tF64) (vUses t (if two then 2 else 1) f) [])
       (d :: os) →
     let x (n j e : Nat) : Nat := opElem c (d :: os) t n j e
     let eff := deliveredEff c d f.km f.z fun j => deliveredLane t fun e =>
       fnElement fn fast k (Mode.ofRM f.rm) c.l.contract (x 1 j e) (x 2 j e)
     enabledLanes c.h.enables eff.conds = 0 →
     exec i s = .next (s.withEffect c (clauseWord op f.bits) op f.stl (functionLatency fn fast) eff)) ∧
  ((∀ fn k, fn ≠ .div → k ≠ .e4m3 → ∀ fast m contract a b r,
     specialResult fn k (k.read (vecFlush contract) a) = some r →
     fnElement fn fast k m contract a b = ⟨r.1, r.2⟩) ∧
   (∀ k, k ≠ .e4m3 → ∀ fast m contract a b r,
     divisionSpecial k (k.read (vecFlush contract) a) (k.read (vecFlush contract) b) = some r →
     fnElement .div fast k m contract a b = ⟨r.1, r.2⟩) ∧
   (∀ k, k ∈ [FF.f32, .f16, .bf16] → ∀ fast m contract a b x, k.read (vecFlush contract) a = .fin x →
     let r (fn : Fn) : Delivered := fnElement fn fast k m contract a b
     (x.rest 0 = 0 → r .sin = ⟨if x.num < 0 then k.signBit else 0, 0⟩) ∧
     (x.rest 0 ≠ 0 → x.rest (-1) = 0 → r .cos = ⟨0, 0⟩) ∧
     (∀ i : Int, (x.sub ⟨i, 0⟩).num = 0 → r .cos = ⟨oneCode k (i % 2 ≠ 0), 0⟩) ∧
     (∀ i : Int, (x.sub ⟨2 * i + 1, -1⟩).num = 0 → r .sin = ⟨oneCode k (i % 2 ≠ 0), 0⟩) ∧
     (∀ i : Int, (x.sub ⟨i, 0⟩).num = 0 → (if vecFlush contract then k.emin else k.qmin) ≤ i → i ≤ k.bias →
       (r .ex2).cond = 0 ∧ (r .ex2).enc ≤ k.maxFin ∧ denotes k (r .ex2).enc ⟨1, i⟩) ∧
     (∀ i : Int, (x.sub ⟨1, i⟩).num = 0 → (r .lg2).cond = 0 ∧ denotes k (r .lg2).enc ⟨i, 0⟩))) ∧
  (∀ fn k, fn ∈ [Fn.rcp, .rsq, .sqt, .div] → k ∈ [FF.f32, .f16, .bf16] → ∀ (fast : Bool) (m : Mode) (contract a b : Nat) (x y : Dy),
     k.read (vecFlush contract) a = .fin x → (fn = .div → k.read (vecFlush contract) b = .fin y) →
     (fn = .rsq ∨ fn = .sqt → 0 < x.num) →
     let d := fnElement fn fast k m contract a b
     d.cond &&& 4 = 0 → (vecFlush contract = true → d.cond &&& 8 = 0) →
     let neg := if fn = .div then x.isNeg != y.isNeg else x.isNeg
     let n := d.enc % k.signBit
     let beyond (z : Dy) : Int := excess fn x y z
     let at_ (i : Nat) : Dy := (k.value i).dy
     d.enc = n + (if neg then k.signBit else 0) ∧ n ≤ k.maxFin ∧
     (∀ i, i ≤ k.maxFin → beyond (at_ i) = 0 → n = i ∧ d.cond = 0) ∧
     (fast = false → (fn = .sqt ∨ fn = .div ∨ 5 ≤ contract) → RoundedTo k m neg beyond n) ∧
     (fast = true → k ≠ .f32 → fn ≠ .div → RoundedTo k m neg beyond n) ∧
     (fast = true → ∀ e : Int, beyond ⟨1, e⟩ ≤ 0 → 0 < beyond ⟨1, e + 1⟩ →
       let ulps : Dy := ⟨if fn = .div && k = .f32 then 2 else 1, max e k.emin - k.frac⟩
       0 ≤ beyond ((at_ n).add ulps) ∧ (Dy.le (at_ n) ulps = true ∨ beyond ((at_ n).sub ulps) ≤ 0)))

/-- Rounding to nearest (R169): the delivered magnitude of a nonzero number that does not overflow is as near to it as any
finite value of the format, and on a tie its encoding is even. -/
def Obligations.RoundsToNearest : Prop :=
  ∀ (k : FF) (x : Dy), x.num ≠ 0 → (k.roundMag .rne x).isOver = false →
    ∀ n, n ≤ k.maxFin →
      let gap (m : Nat) : Dy := (x.abs.sub ((k.value m).dy)).abs
      let r := (k.roundMag .rne x).mag
      Dy.le (gap r) (gap n) = true ∧ (((gap r).sub (gap n)).num = 0 → n = r ∨ r % 2 = 0)

/-- FCVT (R290): between two formats; packed from two f32 sources; unpacked to f32 from the half that B selects. FCVTI and ICVTF
(R173, R291). That an infinity to e4m3 raises no condition, and the type of a constant, are the model's reading (logs 68,
80). -/
def Obligations.ConversionResults : Prop :=
  (∀ f s c d os,
    let t := f.ty.toNat
    let u := f.c.toNat
    let src := (ffOf u).getD .f32
    let dst := (ffOf t).getD .f32
    let six (n : Nat) : Bool := 9 ≤ n && n ≤ 14
    let plain := six t && six u && t ≠ u
    let pack := (t = 16 || t = 17) && u = 11
    let unpack := t = 11 && (u = 16 || u = 17)
    let ok := (if plain then fields1 else fields2).withCf.rounds.ok f && (plain || pack || unpack)
    Quiet s c → Passes c (c.planV 0x10D f ok ([Use.dst (Want.vreg (tyRegs t)) f.d, Use.src (Want.vsrc u) f.a]
      ++ (if pack then [Use.src (Want.vsrc u) f.b] else if unpack then [Use.src (Want.vscal tB32) f.b] else [])) []) (d :: os) →
    let x (j e : Nat) : Nat :=
      if plain then opElem c (d :: os) u 1 j 0 else if pack then opLane c (d :: os) (1 + e) j
      else opElem c (d :: os) u 1 j (opLane c (d :: os) 2 0 % 2)
    let eff := deliveredEff c d f.km f.z fun j => deliveredLane t fun e =>
      let v := src.read c.flush (x j e)
      roundedTo dst (Mode.ofRM f.rm) c.flush v v.isSnan
    enabledLanes c.h.enables eff.conds = 0 →
    exec (.fcvt f) s = .next (s.withEffect c (clauseWord 0x10D f.bits) 0x10D f.stl (if t = 12 || u = 12 then 10 else 6) eff)) ∧
  (∀ f s c d a,
    let t := f.ty.toNat
    let u := f.c.toNat
    let src := (ffOf u).getD .f32
    let ok := fields1.withCf.rounds.ok f && tyInt32 t && 9 ≤ u && u ≤ 12
    Quiet s c → Passes c (c.planV 0x10E f ok [Use.dst (Want.vreg (tyRegs t)) f.d, Use.src (Want.vsrc u) f.a] []) [d, a] →
    let eff := deliveredEff c d f.km f.z fun j =>
      toIntegerOf (Mode.ofRM f.rm) (tySigned t) (tyWidth t) (src.read c.flush (elemOf (c.lane a j) (tyWidth u) 0))
    enabledLanes c.h.enables eff.conds = 0 →
    exec (.fcvti f) s = .next (s.withEffect c (clauseWord 0x10E f.bits) 0x10E f.stl (if u = 12 then 10 else 6) eff)) ∧
  (∀ f s c d a,
    let t := f.ty.toNat
    let u := f.c.toNat
    let dst := (ffOf t).getD .f32
    let ok := fields1.withCf.rounds.ok f && tyInt32 u && 9 ≤ t && t ≤ 12
    Quiet s c → Passes c (c.planV 0x10F f ok [Use.dst (Want.vreg (tyRegs t)) f.d, Use.src (Want.vsrc u) f.a] []) [d, a] →
    let eff := deliveredEff c d f.km f.z fun j =>
      roundedTo dst (Mode.ofRM f.rm) c.flush
        (integerVal (tySigned u) (BitVec.ofNat (tyWidth u) (c.lane a j))) false
    enabledLanes c.h.enables eff.conds = 0 →
    exec (.icvtf f) s = .next (s.withEffect c (clauseWord 0x10F f.bits) 0x10F f.stl (if t = 12 then 10 else 6) eff))

/-! The exact accumulator -/

/-- XCLR, XADD, XMADD, XRND and XSCAN (R293 to R296). The words of xa (R189, R294): XRD, XWR and XSTAT. The addends of one
instruction form one sum, whatever order the lanes have (R190, R295). That XRD and XSTAT act for any KM is the model's
choice (log 39). -/
def Obligations.ExactAccumulator : Prop :=
  ((∀ f s c, Quiet s c → Passes c (c.planV 0x111 f (fields0.ok f && f.km = 7 && f.z = 0 && f.d = 0 && f.ty = 0) [] []) [] →
     exec (.xclr f) s = .next (s.withEffect c (clauseWord 0x111 f.bits) 0x111 f.stl 0 { xa := some (0, 0) })) ∧
   (∀ f s c a,
     let t := f.ty.toNat
     let k := (ffOf t).getD .f32
     Quiet s c → Passes c (c.planV 0x112 f (fields1.ok f && (f.km = 7 && f.z = 0) && f.d = 0 && tyFloat t) [Use.src (Want.vsrc t) f.a] []) [a] →
     exec (.xadd f) s = .next (s.withEffect c (clauseWord 0x112 f.bits) 0x112 f.stl 0
       { xa := some (accumulated c.h.xa c.h.xaStat
           (addendsOf c f.km t fun j e => k.read c.flush (elemOf (c.lane a j) (tyWidth t) e))) })) ∧
   (∀ f s c a b,
     let t := f.ty.toNat
     let k := (ffOf t).getD .f32
     Quiet s c → Passes c (c.planV 0x113 f (fields2.ok f && (f.km = 7 && f.z = 0) && f.d = 0 && tyFloat t)
       [Use.src (Want.vsrc t) f.a, Use.src (Want.vsrc t) f.b] []) [a, b] →
     let x (o : Opnd) (j e : Nat) : Val := k.read c.flush (elemOf (c.lane o j) (tyWidth t) e)
     exec (.xmadd f) s = .next (s.withEffect c (clauseWord 0x113 f.bits) 0x113 f.stl 0
       { xa := some (accumulated c.h.xa c.h.xaStat (addendsOf c f.km t fun j e => (x a j e).mul (x b j e))) })) ∧
   (∀ f s c d,
     let t := f.ty.toNat
     let k := (ffOf t).getD .f32
     Quiet s c → Passes c (c.planV 0x114 f (fields0.ok f && (t = 11 || t = 10 || t = 12) && (opKind f.d ≠ 1 || f.z = 0)) [Use.dst (Want.vors (tyRegs t)) f.d] []) [d] →
     exec (.xrnd f) s = .next (s.withEffect c (clauseWord 0x114 f.bits) 0x114 f.stl 12
       { writes := match d with
           | .s r n => c.sput (.s r n) (accumulatorRounded k c.flush c.h.xa c.h.xaStat)
           | d => c.vput d f.km f.z fun _ => accumulatorRounded k c.flush c.h.xa c.h.xaStat })) ∧
   (∀ f s c d a,
     let t := f.ty.toNat
     let k := (ffOf t).getD .f32
     Quiet s c → Passes c (c.planV 0x115 f (fields1.ok f && (f.km = 7 && f.z = 0) && (t = 11 || t = 10 || t = 12)) (vUses t 1 f) []) [d, a] →
     let upTo (j : Nat) : BitVec 640 × BitVec 5 := accumulated c.h.xa c.h.xaStat
       (((laneList (c.active f.km)).filter (· ≤ j)).map fun i => k.read c.flush (elemOf (c.lane a i) (tyWidth t) 0))
     exec (.xscan f) s = .next (s.withEffect c (clauseWord 0x115 f.bits) 0x115 f.stl 12
       { writes := c.vput d f.km f.z fun j => accumulatorRounded k c.flush (upTo j).1 (upTo j).2
         xa := some (upTo 95) }))) ∧
  ((∀ f s c d w, Quiet s c → Passes c (c.planV 0x116 f (({ fields0 with b := true } : VFields).ok f && f.ty = 0 && f.z = 0 && c.scalar w < 21)
       [Use.dst (Want.vsonly 1) f.d, Use.src (Want.vscal tB32) f.b] []) [d, w] →
     exec (.xrd f) s = .next (s.withEffect c (clauseWord 0x116 f.bits) 0x116 f.stl 6
       { writes := c.sput d (if c.scalar w = 20 then c.h.xaStat.toNat else (c.h.xa.extractLsb' (32 * c.scalar w) 32).toNat) })) ∧
   (∀ f s c a w, Quiet s c → Passes c (c.planV 0x117 f (fields2.ok f && (f.km = 7 && f.z = 0) && f.d = 0 && f.ty = 0 && c.scalar w < 21)
       [Use.src (Want.vscal tB32) f.a, Use.src (Want.vscal tB32) f.b] []) [a, w] →
     ∃ xa st, exec (.xwr f) s = .next (s.withEffect c (clauseWord 0x117 f.bits) 0x117 f.stl 0 { xa := some (xa, st) }) ∧
       (c.scalar w = 20 → xa = c.h.xa ∧ st = BitVec.ofNat 5 (c.scalar a)) ∧
       (c.scalar w ≠ 20 → st = c.h.xaStat ∧ xa.extractLsb' (32 * c.scalar w) 32 = BitVec.ofNat 32 (c.scalar a)) ∧
       (∀ k, k < 20 → k ≠ c.scalar w → xa.extractLsb' (32 * k) 32 = c.h.xa.extractLsb' (32 * k) 32)) ∧
   (∀ f s c d, Quiet s c → Passes c (c.planV 0x118 f (fields0.ok f && f.ty = 0 && f.z = 0) [Use.dst (Want.vsonly 1) f.d] []) [d] →
     exec (.xstat f) s = .next (s.withEffect c (clauseWord 0x118 f.bits) 0x118 f.stl 6
       { writes := c.sput d (c.h.xaStat.toNat + (if c.h.xa = 0 then 0x100 else 0) + (if c.h.xa.msb then 0x200 else 0)) }))) ∧
  (∀ xa st (l m : List Val), l.Perm m → xaAdd xa st l = xaAdd xa st m)

/-! Quantisation -/

/-- QSCL and QZP (R310 to R312), for the extremes of the six blocks. QCVT and DQCVT (R309, R313, R314). KBPACK and KBUNPK (R315,
R316, R318): the blocks' words in their lanes, or the escapes as a mask; and back, the escapes taken in ascending lane order
from the lanes of B. A Kite block in bits (R165, R166), and what KBPACK puts into it (R316): which elements it escapes, its
exponent, its micro-exponents and its codes. ZRANGE of QZP, the operand kinds of KBPACK and subnormal codes of DQCVT are the
model's reading (logs 41, 42, 67). -/
def Obligations.QuantisationResults : Prop :=
  ((∀ f s c d a q (mn mx : Nat → Dy),
     let v := c.scalar q
     Quiet s c → Passes c (c.planV 0x195 f (fieldsAC.ok f && f.ty = 11 && controlDefined v)
       [Use.both (Want.vreg 1) f.d, Use.src (Want.vsrc tF32) f.a, Use.src (Want.vscal tB32) f.c] []) [d, a, q] →
     (∀ k, k < 6 → Extremes (finiteValues c f.km a k) (mn k) (mx k)) →
     let r := rangeRaises c f.km a mn mx
     enabledLanes c.h.enables r.2 = 0 →
     ∃ e : Nat → Int, (∀ k, k < 6 → BlockExponent (v / 256) (mn k) (mx k) (e k)) ∧
       exec (.qscl f) s = .next (s.withEffect c (clauseWord 0x195 f.bits) 0x195 f.stl 10
         { writes := c.vput d f.km f.z fun j => withByte (c.lane d j) (v / 32 % 4) (e (j / 16) + 127).toNat
           gstat := r.1
           conds := r.2 })) ∧
   (∀ f s c d a q (mn mx : Nat → Dy),
     let v := c.scalar q
     Quiet s c → Passes c (c.planV 0x196 f (fieldsAC.ok f && f.ty = 11 && controlDefined v && v / 256 ∈ [8, 10])
       [Use.both (Want.vreg 1) f.d, Use.src (Want.vsrc tF32) f.a, Use.src (Want.vscal tB32) f.c] []) [d, a, q] →
     (∀ k, k < 6 → Extremes (finiteValues c f.km a k) (mn k) (mx k)) →
     let r := rangeRaises c f.km a mn mx
     enabledLanes c.h.enables r.2 = 0 →
     ∃ z : Nat → Nat,
       (∀ j, j < 96 → BlockZero (v / 256) (mn (j / 16)) (mx (j / 16)) ((c.lane d j / 256 ^ (v / 32 % 4) % 256 : Nat) - 127) (z j)) ∧
       exec (.qzp f) s = .next (s.withEffect c (clauseWord 0x196 f.bits) 0x196 f.stl 10
         { writes := c.vput d f.km f.z fun j => withByte (c.lane d j) (v / 32 % 4 + 1) (z j)
           gstat := r.1
           conds := r.2 }))) ∧
  ((∀ f s c d a b q,
     let v := c.scalar q
     Quiet s c → Passes c (c.planV 0x197 f (fieldsABC.ok f && f.ty = 11 && controlDefined v)
       [Use.dst (Want.vreg 1) f.d, Use.src (Want.vsrc tF32) f.a, Use.src (Want.vsrc tF32) f.b, Use.src (Want.vscal tB32) f.c] [])
       [d, a, b, q] →
     let eff := deliveredEff c d f.km f.z fun j =>
       quantised v c.flush (FF.f32.read c.flush (c.lane a j)) (scaleIn (c.lane b j) v) (zeroIn (c.lane b j) v) (j % 16)
     enabledLanes c.h.enables eff.conds = 0 →
     exec (.qcvt f) s = .next (s.withEffect c (clauseWord 0x197 f.bits) 0x197 f.stl 8 eff)) ∧
   (∀ f s c d a b q,
     let v := c.scalar q
     Quiet s c → Passes c (c.planV 0x198 f (fieldsABC.ok f && f.ty = 11 && controlDefined v)
       [Use.dst (Want.vreg 1) f.d, Use.src (Want.vsrc tF32) f.a, Use.src (Want.vsrc tF32) f.b, Use.src (Want.vscal tB32) f.c] [])
       [d, a, b, q] →
     exec (.dqcvt f) s = .next (s.withEffect c (clauseWord 0x198 f.bits) 0x198 f.stl 8
       { writes := c.vput d f.km f.z fun j =>
           dequantised v c.flush (c.lane a j) (scaleIn (c.lane b j) v) (zeroIn (c.lane b j) v) }))) ∧
  ((∀ f s c d a b q,
     let t := f.ty.toNat
     let v := c.scalar q
     Quiet s c → Passes c (c.planV 0x199 f (fieldsABC.ok f && 18 ≤ t && t ≤ 20 && v < 32)
       [compareDst 1 f, Use.src (Want.vsrc t) f.a, Use.src (Want.vsonly 1) f.b,
         Use.src (Want.vsonly 1) f.c] []) [d, a, b, q] →
     let block (k : Nat) : Packed := kbpack (fun i =>
       if (c.active f.km).getLsbD (16 * k + i) then FF.f32.read c.flush (c.lane a (16 * k + i)) else .zero false)
       (blockMag t) (min (c.scalar b) 16) (v.testBit 4) (v % 16)
     exec (.kbpack f) s = .next (s.withEffect c (clauseWord 0x199 f.bits) 0x199 f.stl 10
       { writes := match d with
           | .k m => c.kput (.k m) (maskUnder c f.km f.z (heldMask c m) fun j => (block (j / 16)).esc.contains (j % 16))
           | d => c.vput d f.km f.z fun j =>
               if j % 16 < blockWords t then (block (j / 16)).bits (blockMag t) / 2 ^ (32 * (j % 16)) % 2 ^ 32 else 0 })) ∧
   (∀ f s c d a b,
     let t := f.ty.toNat
     let k := (kiteOf t).getD .kb7
     Quiet s c → Passes c (c.planV 0x19A f (fields2.ok f && 18 ≤ t && t ≤ 20)
       [Use.dst (Want.vreg 1) f.d, Use.src (Want.vsrc t) f.a, Use.src (Want.vreg 1) f.b]
       [Use.src (Want.vsrc t) f.a, Use.src (Want.vreg 1) f.b]) [d, a, b] →
     let elem (j : Nat) : KElem :=
       k.elem (packElems 32 ((List.range (blockWords t)).map fun w => c.lane a (16 * (j / 16) + w)) % 2 ^ (8 * k.size)) (j % 16)
     let before (j : Nat) : Nat := ((laneList (c.active f.km)).filter fun i => i < j && elem i = .escape).length
     exec (.kbunpk f) s = .next (s.withEffect c (clauseWord 0x19A f.bits) 0x19A f.stl 8
       { writes := c.vput d f.km f.z fun j =>
           match elem j with
           | .nan => FF.f32.nan
           | .value x => FF.f32.enc .rne c.flush (Val.ofDy x false)
           | .escape =>
             let e := c.lane b (before j)
             if (FF.f32.value e).isNan then FF.f32.nan
             else if c.flush && FF.f32.expField e = 0 then e / 2 ^ 31 * 2 ^ 31 else e }))) ∧
  ((∀ (k : Kite) (p : Packed), p.e < 256 → p.mu.length = 8 → (∀ m ∈ p.mu, m < 2) → p.codes.length = 16 →
     (∀ c ∈ p.codes, c.1 < 2 ∧ c.2 < 2 ^ k.mag) →
     let blk := p.bits k.mag
     blk < 2 ^ (16 + 16 * (k.mag + 1)) ∧ blk % 256 = p.e ∧ (∀ (j : Nat) m, p.mu[j]? = some m → blk / 2 ^ (8 + j) % 2 = m) ∧
     ∀ (i : Nat) c, p.codes[i]? = some c → blockMagOf k blk i = c.2 ∧ blockSignOf k blk i = c.1) ∧
   (∀ (k : Kite) (blk i : Nat), i < 16 → k.elem blk i =
     if blk % 256 = 255 then .nan
     else if blockSignOf k blk i = 1 ∧ blockMagOf k blk i = 0 then .escape
     else .value ⟨if blockSignOf k blk i = 1 then -(blockMagOf k blk i : Int) else blockMagOf k blk i,
       (blk % 256 : Nat) - 127 - (blk / 2 ^ (8 + i / 2) % 2 : Nat) - (k.mag - 1 : Int)⟩) ∧
   (∀ (k : Kite) (x : Nat → Val) (emax : Nat) (di : Bool) (ph : Nat),
     let M := k.mag
     let p := kbpack x M emax di ph
     let special (i : Nat) : Bool := (x i).isNan || (x i).isInf
     let n := ((List.range 16).filter special).length
     let v (i : Nat) : Dy := (x i).dy.abs
     (emax < n → p = ⟨0xFF, List.replicate 8 0, List.replicate 16 (0, 0), []⟩) ∧
     (n ≤ emax → emax ≤ 16 →
       (p.esc.Nodup ∧ p.esc.length ≤ emax ∧ (∀ i ∈ p.esc, i < 16) ∧ ∀ i, i < 16 → special i = true → i ∈ p.esc) ∧
       (∀ i ∈ p.esc, special i = false → ∀ j, j < 16 → j ∉ p.esc → Dy.lt ((v j).scale 3) (v i) = true) ∧
       (p.esc.length < emax → ∀ i, i < 16 → i ∉ p.esc → (∀ j, j < 16 → j ∉ p.esc → j ≠ i → (v j).isZero = true) ∨
         ∃ j, j < 16 ∧ j ∉ p.esc ∧ j ≠ i ∧ Dy.le (v i) ((v j).scale 3) = true) ∧
       (let mx := maxMag (fun i => (x i).dy) p.esc (List.range 16)
        let e0 := mx.log2 + 127
        let e1 := if (mx.scale (-(e0 - 127 - (M - 1)))).roundAt 0 .rne = 2 ^ M then e0 + 1 else e0
        (p.e : Int) = if mx.isZero then 0 else max 0 (min 254 e1)) ∧
       (∀ j, j < 8 →
         let pm := maxMag (fun i => (x i).dy) p.esc [2 * j, 2 * j + 1]
         p.mu[j]? = some (if pm.isZero = false ∧ (pm.scale (-((p.e : Int) - 128 - (M - 1)))).roundAt 0 .rne ≤ 2 ^ M - 1 then 1 else 0)) ∧
       (∀ i, i < 16 → (i ∈ p.esc → p.codes[i]? = some (1, 0)) ∧ ∀ (m : Nat), i ∉ p.esc → p.mu[i / 2]? = some m →
         let y := (v i).scale (-((p.e : Int) - 127 - m - (M - 1)))
         let q := if di then (y.add (ditherOffset i ph)).quo 0 else y.roundAt 0 .rne
         let mag := min q (2 ^ M - 1)
         p.codes[i]? = some (if mag ≠ 0 ∧ (x i).isNeg = true then 1 else 0, mag)))) ∧
   (∀ (x : Nat → Dy) (esc l : List Nat), (∀ i ∈ l, i ∉ esc → Dy.le (x i).abs (maxMag x esc l) = true) ∧
     (maxMag x esc l = Dy.zero ∨ ∃ i ∈ l, i ∉ esc ∧ maxMag x esc l = (x i).abs)))

/-! Random numbers -/

/-- RNGK, RNG and RNGF (R319 to R323), where no counter wraps under an enabled RNGWRAP. RNG, with either choice of the stream,
and RNGF of a lane whose counter wraps, with FPCTL.RNGWE set (R323): RNGWRAP after the whole effect, TRAPLANES the wrapping
lanes, the PC at the next word. -/
def Obligations.RandomNumbers : Prop :=
  ((∀ f s c a, Quiet s c → Passes c (c.planV 0x19B f (rngkOk f 0 0x180) [Use.src (Want.vscal tB32) f.a] []) [a] →
     exec (.rngk f) s = .next (s.withEffect c (clauseWord 0x19B f.bits) 0x19B f.stl 0
       { rkey := some (c.l.seed + BitVec.ofNat 64 (c.scalar a) * 0x9E3779B97F4A7C15) })) ∧
   (∀ f s c a, Quiet s c → Passes c (c.planV 0x19B f (rngkOk f 15 0x181) [Use.src (Want.vsonly 2) f.a] []) [a] →
     exec (.rngkB64 f) s = .next (s.withEffect c (clauseWord 0x19B f.bits) 0x19B f.stl 0
       { rkey := some (BitVec.ofNat 64 (c.scalar a)) })) ∧
   (∀ f s c d a os,
     let own := f.c = 0x181
     let ok := f.rm = 0 && f.ty = 6 && ((f.c = 0x180 && f.b = 0) || f.c = 0x181) && ruOk f.ru (if own then 0b111 else 0b101) && apart f c
     Quiet s c → Passes c (c.planV 0x19C f ok ([Use.dst (Want.vreg 1) f.d, Use.both (Want.vreg 1) f.a]
       ++ (if own then [Use.src (Want.vsrc tN32) f.b] else [])) []) (d :: a :: os) →
     let n (j : Nat) : Nat :=
       if own then ((os[0]?).map fun b => c.lane b j).getD 0
       else ((c.b.bseq * c.l.ngrpOf c.b + c.g.gid) * 96 + j) % 2 ^ 32
     let eff := drawEff c f d a fun j => drawn c.h.rkey (n j) (c.lane a j)
     (eff.gstat = 0 ∨ c.h.enables.testBit 10 = false) →
     exec (.rng f) s = .next (s.withEffect c (clauseWord 0x19C f.bits) 0x19C f.stl 8 eff)) ∧
   (∀ f s c d a,
     let ok := f.rm = 0 && f.ty = 11 && f.b = 0 && (f.c = 0x180 || f.c = 0x181) && ruOk f.ru 0b101 && apart f c
     Quiet s c → Passes c (c.planV 0x19D f ok [Use.dst (Want.vreg 1) f.d, Use.both (Want.vreg 1) f.a] []) [d, a] →
     let n (j : Nat) : Nat := ((c.b.bseq * c.l.ngrpOf c.b + c.g.gid) * 96 + j) % 2 ^ 32
     let eff := drawEff c f d a fun j =>
       FF.f32.enc .rne false (Val.ofDy ⟨drawn c.h.rkey (n j) (c.lane a j) / 256 + (if f.c = 0x181 then 1 else 0), -24⟩ false)
     (eff.gstat = 0 ∨ c.h.enables.testBit 10 = false) →
     exec (.rngf f) s = .next (s.withEffect c (clauseWord 0x19D f.bits) 0x19D f.stl 8 eff))) ∧
  (∀ f s (c : Ctx) d a, Quiet s c →
     let wrapping := lanesOf fun j => (c.active f.km).getLsbD j && c.lane a j = 0xFFFFFFFF
     wrapping ≠ 0 → c.h.enables.testBit 10 = true →
     let global (j : Nat) : Nat := ((c.b.bseq * c.l.ngrpOf c.b + c.g.gid) * 96 + j) % 2 ^ 32
     (∀ os,
       let own := f.c = 0x181
       let ok := f.rm = 0 && f.ty = 6 && ((f.c = 0x180 && f.b = 0) || f.c = 0x181) && ruOk f.ru (if own then 0b111 else 0b101) && apart f c
       Passes c (c.planV 0x19C f ok ([Use.dst (Want.vreg 1) f.d, Use.both (Want.vreg 1) f.a]
         ++ (if own then [Use.src (Want.vsrc tN32) f.b] else [])) []) (d :: a :: os) →
       let n (j : Nat) : Nat := if own then ((os[0]?).map fun b => c.lane b j).getD 0 else global j
       let eff := drawEff c f d a fun j => drawn c.h.rkey (n j) (c.lane a j)
       exec (.rng f) s = .next ((s.withEffect c (clauseWord 0x19C f.bits) 0x19C f.stl 8 eff).trap c.g c.x
         { c.trapInfo (clauseWord 0x19C f.bits) 0x0E with lanes := some wrapping } none)) ∧
     (let ok := f.rm = 0 && f.ty = 11 && f.b = 0 && (f.c = 0x180 || f.c = 0x181) && ruOk f.ru 0b101 && apart f c
      Passes c (c.planV 0x19D f ok [Use.dst (Want.vreg 1) f.d, Use.both (Want.vreg 1) f.a] []) [d, a] →
      let eff := drawEff c f d a fun j =>
        FF.f32.enc .rne false (Val.ofDy ⟨drawn c.h.rkey (global j) (c.lane a j) / 256 + (if f.c = 0x181 then 1 else 0), -24⟩ false)
      exec (.rngf f) s = .next ((s.withEffect c (clauseWord 0x19D f.bits) 0x19D f.stl 8 eff).trap c.g c.x
        { c.trapInfo (clauseWord 0x19D f.bits) 0x0E with lanes := some wrapping } none)))

/-! Control flow -/

/-- BRA, BRC and YIELD (R208, R211): the next PC, and nothing else but the end of the instruction. CALL, CALLI and RET (R209):
to an address that is a multiple of 8 and below 2^48. CALLI and RET to another address trap before the link pair is written
(R209): MISAL, else PROT, with TRAPLANES = EXEC and FVA the address. CALLT (R210): the entry at base + 8 · index is read as
the group's loads see memory and branched to; the link pair receives the return address, the pair above it the entry's
address. That BRC takes an inline constant is the model's reading (log 36). -/
def Obligations.BranchesAndCalls : Prop :=
  ((∀ f s c, Quiet s c → Passes c (planB c 0x023 f (f.a = 0 && f.cc = 0) [] 0) [] →
     exec (.bra f) s = .next (s.onward c 0x023 f.stl (wordsOn c f.disp))) ∧
   (∀ f s c a, Quiet s c →
     Passes c (planB c 0x024 f (f.cc ≠ 0) [Use.src (if f.cc.toNat ≤ 4 then Want.ssrc tB32 else Want.mask) f.a] 0b100) [a] →
     exec (.brc f) s = .next (s.onward c 0x024 f.stl
       (if branchTaken c f.cc.toNat a then wordsOn c f.disp else c.sl.pc + 8))) ∧
   (∀ f s c, Quiet s c → Passes c (planB c 0x02C f (f.a = 0 && f.cc = 0 && f.disp = 0) [] 0) [] →
     exec (.yield f) s = .next (s.onward c 0x02C f.stl (c.sl.pc + 8)))) ∧
  ((∀ f s c l, Quiet s c → Passes c (planB c 0x027 f (f.cc = 0) [Use.dst (Want.sreg 2) f.a] 0) [l] →
     exec (.call f) s = .next ((s.linked c l).onward c 0x027 f.stl (wordsOn c f.disp))) ∧
   (∀ f s c l t, Quiet s c →
     Passes c (planB c 0x028 f (f.cc = 0 && f.disp.extractLsb' 9 23 = 0)
       [Use.dst (Want.sreg 2) f.a, Use.src (Want.sreg 2) (f.disp.setWidth 9)] 0) [l, t] →
     c.scalar t % 8 = 0 → c.scalar t < 2 ^ 48 →
     exec (.calli f) s = .next ((s.linked c l).onward c 0x028 f.stl (BitVec.ofNat 64 (c.scalar t)))) ∧
   (∀ f s c l, Quiet s c → Passes c (planB c 0x02A f (f.cc = 0 && f.disp = 0) [Use.src (Want.sreg 2) f.a] 0b100) [l] →
     c.scalar l % 8 = 0 → c.scalar l < 2 ^ 48 →
     exec (.ret f) s = .next (s.onward c 0x02A f.stl (BitVec.ofNat 64 (c.scalar l))))) ∧
  (∀ s c v, s.ctx? = some c → (c.scalar v % 8 ≠ 0 ∨ 2 ^ 48 ≤ c.scalar v) →
     let code := if c.scalar v % 8 ≠ 0 then 0x05 else 0x06
     (∀ f l, Passes c (planB c 0x028 f (f.cc = 0 && f.disp.extractLsb' 9 23 = 0)
         [Use.dst (Want.sreg 2) f.a, Use.src (Want.sreg 2) (f.disp.setWidth 9)] 0) [l, v] →
       exec (.calli f) s = .next (s.trapLanes c (clauseWord 0x028 f.bits) code c.sl.exec (c.scalar v))) ∧
     (∀ f, Passes c (planB c 0x02A f (f.cc = 0 && f.disp = 0) [Use.src (Want.sreg 2) f.a] 0b100) [v] →
       exec (.ret f) s = .next (s.trapLanes c (clauseWord 0x02A f.bits) code c.sl.exec (c.scalar v)))) ∧
  (∀ f s c l l2 base,
     let entry := (c.scalar base + 8 * (f.disp.extractLsb' 16 16).toNat) % 2 ^ 64
     Quiet s c →
     Passes c (planB c 0x029 f (f.cc = 0 && f.disp.extractLsb' 9 7 = 0)
       [Use.dst (Want.sreg 2) f.a, { Use.dst (Want.sreg 2) f.a with above := 2 }, Use.src (Want.sreg 2) (f.disp.setWidth 9)] 0)
       [l, l2, base] →
     entry % 8 = 0 →
     ∀ sp, s.translateSpan (s.whoGroup c.g) Need.load none false entry 8 = .inr sp →
     c.h.outstanding = [] → s.poisoned sp.pas = false →
     let target := leNat (s.seenBytes c.g.bid sp.pas)
     target % 8 = 0 → target < 2 ^ 48 →
     exec (.callt f) s = .next
       (((s.useTrans (s.whoGroup c.g) false sp.uses).modGroup c.g fun h =>
         h.setCells (c.sput l (c.sl.pc + 8).toNat ++ c.sput l2 entry)).onward c 0x029 f.stl (BitVec.ofNat 64 target)))

/-- BSPLIT (R213) on the lanes of EXEC inside and outside the mask A: with one side empty it goes on along the other; else
the lanes of the mask run from the target in the other slot and the rest goes on; with the other slot taken, the rest is
pushed to the tail stack and this slot runs from the target. -/
def Obligations.DivergenceSplit : Prop :=
  ∀ f s c a, Quiet s c → Passes c (planB c 0x025 f (f.cc = 0 && !c.h.sup) [Use.src Want.mask f.a] 0b100) [a] →
    let inside := c.exec &&& c.kmask a
    let outside := c.exec &&& ~~~c.kmask a
    let target := wordsOn c (f.disp.extractLsb' 16 16)
    let join := wordsOn c (f.disp.extractLsb' 0 16)
    let next := c.sl.pc + 8
    let y := SlotId.other c.x
    (inside = 0 → exec (.bsplit f) s = .next (s.onward c 0x025 f.stl next)) ∧
    (inside ≠ 0 → outside = 0 → exec (.bsplit f) s = .next (s.onward c 0x025 f.stl target)) ∧
    (inside ≠ 0 → outside ≠ 0 → (c.h.slot y).st = .empty → c.h.tailBusy = false →
      ∃ (t : State) (h : Group), exec (.bsplit f) s = .next t ∧ t.group? c.g = some h ∧ h.depth = c.h.depth ∧
        RunsPath (h.slot y) target inside inside join ∧
        RunsPath (h.slot c.x) next (outside ||| (c.sl.own &&& ~~~c.exec)) outside join ∧ SameElsewhere c.g s t) ∧
    (inside ≠ 0 → outside ≠ 0 → (c.h.slot y).st ≠ .empty → c.h.depth < c.l.taild → c.h.tailBusy = false →
      s.mem.wf = true → (∀ w ∈ s.poison, w + 32 ≤ privateKey c.g 0) →
      privateKey c.g (24 * c.h.depth + 24) ≤ firmwareKey 0 → next.toNat < 2 ^ 48 → join.toNat < 2 ^ 48 →
      ∃ (t : State) (h : Group), exec (.bsplit f) s = .next t ∧ t.group? c.g = some h ∧ h.depth = c.h.depth + 1 ∧ h.slot y = c.h.slot y ∧
        RunsPath (h.slot c.x) target (inside ||| (c.sl.own &&& ~~~c.exec)) inside join ∧
        t.tailEntry c.g c.h.depth = ⟨next, outside, join⟩ ∧
        ∀ a, (a < privateKey c.g (24 * c.h.depth) ∨ privateKey c.g (24 * c.h.depth + 24) ≤ a) → t.physByte a = s.physByte a) ∧
    (inside ≠ 0 → outside ≠ 0 → (c.h.slot y).st ≠ .empty → c.l.taild ≤ c.h.depth →
      exec (.bsplit f) s = .next (s.trapPlain c (clauseWord 0x025 f.bits) 0x0B))

/-- BJOIN away from the path's rejoin point does nothing (R214). At it, the path merges with the one that waits there in the
other slot, or with the waiting record on top of the tail stack, or exchanges itself with the pending record there, or
waits; the refill of R215 follows. EXIT empties its slot before that refill (R211). The refill of R215: with both slots
empty, nothing pending and an empty tail stack the group exits; a path that waits alone goes on with the lanes it owns; with
an empty slot the top of the tail stack is taken; and with both slots waiting at different joins, slot B's path is written
as a waiting record in place of a pending top entry, which it runs. -/
def Obligations.DivergenceRejoins : Prop :=
  ((∀ f s c, Quiet s c → Passes c (planB c 0x026 f (f.a = 0 && f.cc = 0 && !c.h.sup) [] 0) [] →
     let here := c.sl.pc
     let outer := if f.disp = 0 then 0 else wordsOn c f.disp
     let y := c.h.slot (SlotId.other c.x)
     let top := s.tailEntry c.g (c.h.depth - 1)
     let topHere := c.h.depth ≠ 0 ∧ top.rj = here
     (c.sl.rj ≠ here → exec (.bjoin f) s = .next (s.onward c 0x026 f.stl (here + 8))) ∧
     (c.sl.rj = here → c.h.tailBusy = false → s.tailBad c.g (c.h.depth - 1) c.h.depth = false →
       ((∃ o, y.st = .atJoin o) → y.rj = here → ∃ (t : State) (h : Group), exec (.bjoin f) s = .next (t.refill c.g) ∧ t.group? c.g = some h ∧
         RunsPath h.slotA (here + 8) (c.h.slotA.own ||| c.h.slotB.own) (c.h.slotA.own ||| c.h.slotB.own) outer ∧
         h.slotB.st = .empty ∧ h.depth = c.h.depth ∧ SameElsewhere c.g s t) ∧
       (¬ ((∃ o, y.st = .atJoin o) ∧ y.rj = here) → topHere → top.pc = here →
         ∃ (t : State) (h : Group), exec (.bjoin f) s = .next (t.refill c.g) ∧ t.group? c.g = some h ∧
           RunsPath (h.slot c.x) (here + 8) (c.sl.own ||| top.mask) (c.sl.own ||| top.mask) outer ∧
           h.depth = c.h.depth - 1 ∧ SameElsewhere c.g s t) ∧
       (¬ ((∃ o, y.st = .atJoin o) ∧ y.rj = here) → topHere → top.pc ≠ here →
         ∃ (t : State) (h : Group), exec (.bjoin f) s = .next (t.refill c.g) ∧ t.group? c.g = some h ∧
           RunsPath (h.slot c.x) top.pc top.mask top.mask here ∧ h.depth = c.h.depth ∧
           t.mem = (s.putTail c.g (c.h.depth - 1) ⟨here, c.sl.own, here⟩).mem) ∧
       (¬ ((∃ o, y.st = .atJoin o) ∧ y.rj = here) → ¬ topHere →
         ∃ (t : State) (h : Group), exec (.bjoin f) s = .next (t.refill c.g) ∧ t.group? c.g = some h ∧
           (h.slot c.x).st = .atJoin outer ∧ (h.slot c.x).pc = here ∧ (h.slot c.x).own = c.sl.own ∧
           h.depth = c.h.depth ∧ SameElsewhere c.g s t))) ∧
   (∀ f s c, Quiet s c → Passes c (planB c 0x02B f (f.a = 0 && f.cc = 0 && f.disp = 0 && !c.h.sup) [] 0) [] →
     c.h.tailBusy = false →
     ∃ (t : State) (h : Group), exec (.exit f) s = .next (t.refill c.g) ∧ t.group? c.g = some h ∧ (h.slot c.x).st = .empty ∧
       h.slot (SlotId.other c.x) = c.h.slot (SlotId.other c.x) ∧ h.depth = c.h.depth ∧ SameElsewhere c.g s t)) ∧
  ((∀ (s : State) (g : GRef) (h : Group), s.group? g = some h → h.exited = false → h.slotA.st = .empty → h.slotB.st = .empty → h.depth = 0 →
     s.refill g = s.exitGroup g) ∧
   (∀ (s : State) (g : GRef) (h : Group), s.group? g = some h → h.depth = 0 → (h.slotA.st = .running ∨ h.slotB.st = .running) → s.refill g = s) ∧
   (∀ (s : State) (g : GRef) (h : Group) (x : SlotId) (o : DWord), s.group? g = some h → h.exited = false → h.depth = 0 → (h.slot x).st = .atJoin o → (h.slot (SlotId.other x)).st = .empty →
     ∃ k : Group, (s.refill g).group? g = some k ∧
       RunsPath (k.slot x) ((h.slot x).pc + 8) (h.slot x).own (h.slot x).own o ∧
       k.slot (SlotId.other x) = h.slot (SlotId.other x)) ∧
   (∀ (s : State) (g : GRef) (h : Group), s.group? g = some h → h.exited = false → h.slotA.st = .running → h.slotB.st = .empty →
     h.depth = 1 → s.tailBad g 0 1 = false → (s.tailEntry g 0).waiting = false →
     ∃ k : Group, (s.refill g).group? g = some k ∧ k.depth = 0 ∧ k.slotA = h.slotA ∧
       RunsPath k.slotB (s.tailEntry g 0).pc (s.tailEntry g 0).mask (s.tailEntry g 0).mask (s.tailEntry g 0).rj) ∧
   (∀ (s : State) (g : GRef) (h : Group) (oa ob : DWord) (n : Nat), s.group? g = some h → h.exited = false →
     h.slotA.st = .atJoin oa → h.slotB.st = .atJoin ob → h.slotA.rj ≠ h.slotB.rj → h.depth = n + 1 →
     (s.tailEntry g n).waiting = false → s.tailBad g n (n + 1) = false → s.poison = [] → s.mem.wf = true →
     privateKey g (24 * (n + 1)) ≤ firmwareKey 0 → h.slotB.rj.toNat < 2 ^ 48 →
     ∃ k : Group, (s.refill g).group? g = some k ∧ k.depth = n + 1 ∧ k.slotA = h.slotA ∧
       RunsPath k.slotB (s.tailEntry g n).pc (s.tailEntry g n).mask (s.tailEntry g n).mask (s.tailEntry g n).rj ∧
       (s.refill g).tailEntry g n = ⟨h.slotB.rj, h.slotB.own, h.slotB.rj⟩ ∧
       ∀ i < n, (s.refill g).tailEntry g i = s.tailEntry g i))

/-! Barriers of groups -/

/-- BBAR and GBAR (R64, R66, R139, R212): with every earlier release point performed the slot arrives at its group's next
generation; it goes on when every non-exited group has arrived there, and else waits. The arrival at GBAR that completes the
grid's generation, every block being admitted and every other group that has not exited there, releases it, and goes on at
once. That a second GBAR of a group counts for the next generation is the model's choice (log 74). -/
def Obligations.GroupBarriers : Prop :=
  (∀ f s c, Quiet s c → Passes c (planB c 0x02D f (f.a = 0 && f.cc = 0 && f.disp = 0 && !c.h.sup) [] 0) [] →
    c.sl.st = .running → c.sl.arrived = none → c.b.releasesMet c.g.gid c.h c.h.ser = true →
    let arrived := s.modGroup c.g fun h => { h with bbArr := h.bbArr + 1 }
    ((arrived.block? c.g.bid).any fun b => b.groups.all fun h => h.exited || c.h.bbArr + 1 ≤ h.bbArr) = true →
    exec (.bbar f) s = .next (arrived.onward c 0x02D f.stl (c.sl.pc + 8))) ∧
  (∀ f s c, Quiet s c → Passes c (planB c 0x02D f (f.a = 0 && f.cc = 0 && f.disp = 0 && !c.h.sup) [] 0) [] →
    c.sl.st = .running → c.sl.arrived = none → c.b.releasesMet c.g.gid c.h c.h.ser = true →
    let arrived := s.modGroup c.g fun h => { h with bbArr := h.bbArr + 1 }
    ((arrived.block? c.g.bid).any fun b => b.groups.all fun h => h.exited || c.h.bbArr + 1 ≤ h.bbArr) = false →
    ∃ (t : State) (h : Group), exec (.bbar f) s = .next t ∧ t.group? c.g = some h ∧ h.bbArr = c.h.bbArr + 1 ∧
      (h.slot c.x).st = .atEvent (.block (c.h.bbArr + 1)) ∧ (h.slot c.x).pc = c.sl.pc ∧ SameElsewhere c.g s t) ∧
  (∀ f s c gen, Quiet s c → Passes c (planB c 0x02D f (f.a = 0 && f.cc = 0 && f.disp = 0 && !c.h.sup) [] 0) [] →
    c.sl.st = .atEvent (.block gen) → (c.b.groups.all fun h => h.exited || gen ≤ h.bbArr) = true →
    exec (.bbar f) s = .next (s.onward c 0x02D f.stl (c.sl.pc + 8))) ∧
  (∀ f s c gen, Quiet s c →
    Passes c (planB c 0x02E f (f.a = 0 && f.cc = 0 && f.disp = 0 && !c.h.sup && c.l.gridbarOf c.b) [] 0) [] →
    c.sl.st = .atEvent (.grid gen) → gen ≤ c.l.gridGen →
    exec (.gbar f) s = .next (s.onward c 0x02E f.stl (c.sl.pc + 8))) ∧
  (∀ f s c, Quiet s c →
    Passes c (planB c 0x02E f (f.a = 0 && f.cc = 0 && f.disp = 0 && !c.h.sup && c.l.gridbarOf c.b) [] 0) [] →
    c.sl.st = .running → c.sl.arrived = none → c.b.releasesMet c.g.gid c.h c.h.ser = true →
    let gen := c.h.gbArr + 1
    let arrived := (s.modGroup c.g fun h =>
      { h with gbArr := gen }.modSlot c.x fun sl => { sl with arrived := some (.grid gen) }).settleGrid c.b.lid
    ((arrived.launches[c.b.lid]?).any fun l => gen ≤ l.gridGen) = false →
    ∃ (t : State) (h : Group), exec (.gbar f) s = .next t ∧ t.group? c.g = some h ∧ (h.slot c.x).st = .atEvent (.grid gen) ∧
      (h.slot c.x).pc = c.sl.pc) ∧
  (∀ f s c, Quiet s c →
    Passes c (planB c 0x02E f (f.a = 0 && f.cc = 0 && f.disp = 0 && !c.h.sup && c.l.gridbarOf c.b) [] 0) [] →
    c.sl.st = .running → c.sl.arrived = none → c.b.releasesMet c.g.gid c.h c.h.ser = true →
    c.l.nextBseq = c.l.gx * c.l.gy * c.l.gz → c.h.gbArr = c.l.gridGen → c.l.det = false → c.b.node = none → c.h.exited = false →
    c.b.place = .resident → c.b.staged = [] →
    (∀ (bid : Nat) (b : Block), s.blocks[bid]? = some b → b.lid = c.b.lid → b.place ≠ .gone → b.node = none →
      b.staged = [] ∧ (b.place = .exited ∨ ∀ (gid : Nat) (h : Group), b.groups[gid]? = some h →
        h.exited = true ∨ c.l.gridGen + 1 ≤ h.gbArr ∨ c.g = ⟨bid, gid⟩)) →
    ∃ (t : State) (h : Group) (l : Launch), exec (.gbar f) s = .next t ∧ t.group? c.g = some h ∧ t.launches[c.b.lid]? = some l ∧
      l.gridGen = c.l.gridGen + 1 ∧ h.gbArr = c.l.gridGen + 1 ∧ (h.slot c.x).st = .running ∧ (h.slot c.x).pc = c.sl.pc + 8)

/-! Traps -/

/-- TRAP and BRK (R224) end their instruction and enter the handler with IMM32 in ARG; a word with an opcode that no table lists
raises ILLOP (R104). TakingATrap says what the entry does. PFPARK (R258) in a first-touch handler, with nothing of the
handler outstanding: it leaves the handler with the trapping access parked; a CALLT parks at itself. Elsewhere in supervisor
mode it raises ILLOP. -/
def Obligations.TrappingInstructions : Prop :=
  ((∀ f s c, Quiet s c → Passes c (planImm 0x02F f true) [] →
     exec (.trap f) s = .next ((s.onward c 0x02F f.stl (c.sl.pc + 8)).trap c.g c.x
       { c.trapInfo (clauseWord 0x02F f.bits) 0x10 with arg := f.imm.toNat } none)) ∧
   (∀ f s c, Quiet s c → Passes c (planImm 0x034 f true) [] →
     exec (.brk f) s = .next ((s.onward c 0x034 f.stl (c.sl.pc + 8)).trap c.g c.x
       { c.trapInfo (clauseWord 0x034 f.bits) 0x11 with arg := f.imm.toNat } none)) ∧
   (∀ w s c, s.ctx? = some c → exec (.illegalOpcode w) s = .next (s.trapPlain c w 0x01))) ∧
  (∀ (f : WordM) (s : State) (c : Ctx), Quiet s c →
     Passes c ⟨clauseWord 0x210 f.bits, f.stl = 0 && f.km = 7 && f.d = 0 && f.a = 0 && f.q = 0 && f.pm = 0 && f.ru = 0 && bareM f, true, [], c.maskCells 7, 0⟩ [] →
     (∀ p, c.h.trapped = some p → c.h.tcode.extractLsb' 0 8 = 0x07 → c.h.outstanding = [] → c.h.exited = false →
       exec (.pfpark f) s = .next ((s.onward c 0x210 f.stl (c.sl.pc + 8)).leaveHandler c.g (some p))) ∧
     ((c.h.trapped = none ∨ c.h.tcode.extractLsb' 0 8 ≠ 0x07) →
       exec (.pfpark f) s = .next (s.trapPlain c (clauseWord 0x210 f.bits) 0x01)))

/-- A trap of user code with a handler, taken while none of the group's operations is outstanding (R218): the group is in
supervisor mode with TCODE and the code, slot A at the handler with the trap's lanes, slot B empty; its registers, its
accumulator and its other special registers stay, and so do the other groups and the launches. The frame that trap entry
writes at TFRAME (R218, R219), little-endian, for a group with nothing outstanding. A trap taken in supervisor mode, or one
without a handler, kills the launch (R30, R222): the launch is killed, and every block of it is gone. Stated for a block
that has not exited, in a launch that is not rolled back (R456). Frame words that R219 leaves open are the model's reading
(log 32). -/
def Obligations.TakingATrap : Prop :=
  (∀ (s : State) (g : GRef) (x : SlotId) (t : TrapInfo) (trapped : Option Pend) (h : Group),
     s.group? g = some h → h.exited = false → h.sup = false → hasHandler h.tvec t.code t.arg = true →
     h.outstanding = [] →
     ∃ k : Group, (s.trap g x t trapped).group? g = some k ∧
       k.tcode = BitVec.ofNat 32 (t.code + 0x100) ∧
       RunsPath k.slotA (BitVec.ofNat 64 (h.tvec.toNat * 2 ^ 16 + 64 * t.code)) (t.lanes.getD (h.slot x).exec)
         (t.lanes.getD (h.slot x).exec) 0 ∧
       k.slotB.st = .empty ∧ k.fpctl = 0 ∧ k.cmixctl = h.cmixctl ||| 1 ∧
       k.s = h.s ∧ k.sb = h.sb ∧ k.v = h.v ∧ k.vb = h.vb ∧ k.ix = h.ix ∧ k.xa = h.xa ∧ k.xaStat = h.xaStat ∧
       k.rkey = h.rkey ∧ k.gstat = h.gstat ∧ k.tvec = h.tvec ∧ k.tframe = h.tframe ∧ k.sbchk = h.sbchk ∧
       k.dbgsel = h.dbgsel ∧ k.depth = h.depth ∧
       (s.trap g x t trapped).launches = s.launches ∧
       ∀ o, o ≠ g → (s.trap g x t trapped).group? o = s.group? o) ∧
  (∀ (s : State) (g : GRef) (x : SlotId) (t : TrapInfo) (trapped : Option Pend) (h : Group),
     s.group? g = some h → h.exited = false → h.sup = false → hasHandler h.tvec t.code t.arg = true →
     h.outstanding = [] → s.mem.wf = true → (∀ w ∈ s.poison, w + 32 ≤ privateKey g 0) →
     privateKey g (2 ^ 32) ≤ firmwareKey 0 →
     ∀ q ∈ frameField h x t,
       (s.trap g x t trapped).privNum g ((h.tframe.extractLsb' 9 23).toNat * 512 + q.1) q.2.1 = q.2.2 % 256 ^ q.2.1) ∧
  (∀ (s : State) (g : GRef) (x : SlotId) (t : TrapInfo) (trapped : Option Pend) (h : Group) (b : Block) (l : Launch),
     s.block? g.bid = some b → s.group? g = some h → s.launches[b.lid]? = some l → l.live = true →
     (l.snap = false ∨ l.replayable = false ∨ l.retry ≤ l.replays) →
     b.place ≠ .exited → b.place ≠ .gone → h.exited = false → (h.sup = true ∨ hasHandler h.tvec t.code t.arg = false) →
     let u := s.trap g x t trapped
     (∃ m : Launch, u.launches[b.lid]? = some m ∧ m.st = .killed) ∧
     ∀ k : Block, k ∈ u.blocks → k.lid = b.lid → k.place = .gone)

/-- ERET (R223) with nothing outstanding or set aside, an empty tail stack, slot A restored to a running path and no single
step: both slots as the frame holds them, user mode, FPCTL and CMIXCTL of the frame. A frame that holds no group kills the
launch with ILLOP. A group that traps with nothing outstanding and whose handler leaves the frame as it is returns to the
paths it had (R218, R219, R223): PCs, lanes, rejoin points and states of both slots, FPCTL and CMIXCTL. That the PC may lie
inside a clause, and the arrivals of a frame, are the model's reading (logs 9, 33). -/
def Obligations.ReturnFromTrap : Prop :=
  (∀ (f : WordS) (s : State) (c : Ctx), Quiet s c →
     Passes c ⟨clauseWord 0x030 f.bits, f.stl = 0 && f.ru = 0 && f.d = 0 && f.a = 0 && f.b = 0 && f.c = 0 && f.sub = 0 && f.ty = 0, true, [], [], 0⟩ [] →
     c.h.outstanding = [] → c.h.aside = [] → c.h.exited = false →
     let F := s.framed c
     let own (o : Nat) : Lanes := BitVec.ofNat 96 (F o 12)
     let pc (o : Nat) : DWord := BitVec.ofNat 64 (F o 8)
     let full (st o : Nat) : Prop := F st 1 ≠ 0 ∧ own o ≠ 0
     let bad := own 0x4C &&& own 0x64 ≠ 0 ∨ 3 < F 0x80 1 ∨ 3 < F 0x81 1 ∨ (full 0x80 0x4C ∧ F 0x30 1 % 8 ≠ 0) ∨
       (full 0x81 0x64 ∧ F 0x38 1 % 8 ≠ 0)
     let sigOf (b : Bool) : BitVec 16 := if b then BitVec.ofNat 16 (F 0x94 4) else 0xFFFF
     (bad → exec (.eret f) s = .next ((s.onward c 0x030 f.stl (c.sl.pc + 8)).killGroup c.g 0x01)) ∧
     (¬ bad → c.h.depth = 0 → c.h.dbgsel.getLsbD 0 = false → full 0x80 0x4C → F 0x80 1 ≠ 2 →
       ∃ (t : State) (k : Group), exec (.eret f) s = .next t ∧ t.group? c.g = some k ∧ k.tcode = 0 ∧
         k.fpctl = BitVec.ofNat 32 (F 0x8C 4) &&& 0x71F ∧ k.cmixctl = BitVec.ofNat 32 (F 0x90 4) &&& 1 ∧
         Restored k.slotA (F 0x80 1) (pc 0x30) (own 0x4C) (own 0x40) (pc 0x70) (sigOf !((F 0x01 1).testBit 0)) ∧
         Restored k.slotB (F 0x81 1) (pc 0x38) (own 0x64) (own 0x58) (pc 0x78) (sigOf ((F 0x01 1).testBit 0)) ∧
         k.s = c.h.s ∧ k.sb = c.h.sb ∧ k.v = c.h.v ∧ k.vb = c.h.vb ∧ k.ix = c.h.ix ∧ k.xa = c.h.xa ∧
         k.gstat = c.h.gstat ∧ SameElsewhere c.g s t)) ∧
  (∀ (s : State) (g : GRef) (x : SlotId) (t : TrapInfo) (trapped : Option Pend) (h : Group),
     s.group? g = some h → h.exited = false → h.sup = false → hasHandler h.tvec t.code t.arg = true →
     h.outstanding = [] → h.aside = [] → s.mem.wf = true → (∀ w ∈ s.poison, w + 32 ≤ privateKey g 0) →
     privateKey g (2 ^ 32) ≤ firmwareKey 0 →
     h.slotA.own &&& h.slotB.own = 0 →
     (∀ y, (h.slot y).st ≠ .empty → (h.slot y).own ≠ 0 ∧ (h.slot y).pc.toNat % 8 = 0 ∧
       (h.slot y).exec &&& ~~~(h.slot y).own = 0) →
     let u := s.trap g x t trapped
     ∃ (m k : Group), u.group? g = some m ∧ u.restoreFrame g m = some k ∧ k.tcode = 0 ∧ k.fpctl = h.fpctl &&& 0x71F ∧
       k.cmixctl = h.cmixctl &&& 1 ∧ (k.slot x).sig = (h.slot x).sig ∧
       ∀ y, recordedCode (k.slot y) = recordedCode (h.slot y) ∧
         ((h.slot y).st ≠ .empty → (k.slot y).pc = (h.slot y).pc ∧ (k.slot y).own = (h.slot y).own ∧
           (k.slot y).exec = (h.slot y).exec ∧ (k.slot y).rj = (h.slot y).rj))

/-- The checks before an instruction, in the order of R108, on any plan: an illegal form or operand raises ILLOP; then a
privileged one outside supervisor mode PRIV; then a register out of bounds REGBND. A floating-point condition enabled in
FPCTL (R199, R297): the clause goes on with the default results, and when its last instruction has issued, itself clean or
not, the slot traps with FPEXC, the frame reporting the earliest such instruction of the clause and its lanes. The end of a
clause that carries a signature and was entered at its header (R82): an instruction that is not its last updates the
register; after the last one, a register that agrees with SIG changes nothing, and another kills the launch with SIGMIS. A
clause entered elsewhere is not compared. Stated while no floating-point trap is pending or raised (R297). -/
def Obligations.ChecksAndConditions : Prop :=
  (∀ (s : State) (c : Ctx) (p : Plan) (k : List Opnd → State),
     let os := p.uses.map fun u => (resolve c.ix u.want u.field).map (Opnd.shift u.above)
     ((p.legal = false ∨ none ∈ os) → s.checked c p k = s.trapPlain c p.iword 0x01) ∧
     (p.legal = true → none ∉ os → p.priv = true → c.h.sup = false → s.checked c p k = s.trapPlain c p.iword 0x13) ∧
     (p.legal = true → none ∉ os → (p.priv = true → c.h.sup = true) →
       (∃ o, some o ∈ os ∧ o.inBounds c.nS c.nV c.h.sup = false) → s.checked c p k = s.trapPlain c p.iword 0x03)) ∧
  (∀ (s : State) (c : Ctx) (p : Plan) (os : List Opnd) (op : BitVec 10) (stl : BitVec 4) (lat : Nat) (f : List Opnd → Eff) (cl : Clause) x,
     Steady s c → Passes c p os → c.sl.clause = some cl → (f os).after = none →
     let lanes := enabledLanes c.h.enables (f os).conds
     (c.sl.fpx = some x ∨ c.sl.fpx = none ∧ lanes ≠ 0 ∧ x = ⟨cl.pos, c.sl.pc, p.iword, lanes⟩) →
     let t := s.withEffect c p.iword op stl lat (f os)
     (cl.pos + 1 < cl.words.length → s.regular c p op stl lat f = t ∧ (t.slot? c.g c.x).bind Slot.fpx = some x) ∧
     (cl.words.length ≤ cl.pos + 1 → s.regular c p op stl lat f =
       t.trap c.g c.x ⟨0x09, x.clidx, x.pc, x.iword, some x.lanes, 0, 0, false, false⟩ none)) ∧
  (∀ (s : State) (c : Ctx) (p : Plan) (os : List Opnd) (op : BitVec 10) (stl : BitVec 4) (lat : Nat) (f : List Opnd → Eff) (cl : Clause),
     s.ctx? = some c → c.h.step = .off → c.sl.fpx = none → Passes c p os → c.sl.clause = some cl → (f os).after = none →
     enabledLanes c.h.enables (f os).conds = 0 → cl.sck = true →
     let sig := signatureAfter c.sl.sig op false
     let t := s.withEffect c p.iword op stl lat (f os)
     (t.slot? c.g c.x).map Slot.sig = some sig ∧
     (cl.pos + 1 < cl.words.length ∨ cl.whole = false ∨ cl.sig = sig → s.regular c p op stl lat f = t) ∧
     (cl.words.length ≤ cl.pos + 1 → cl.whole = true → cl.sig ≠ sig → s.regular c p op stl lat f = t.kill c.b.lid 0x0A))

/-! Memory instructions -/

/-- Loads and stores issue (R127, R128, R229, R230, R233 to R236): one part for each active lane, or each register and lane of a
block form, in ascending lane order. With no active lane the operation is an ordering point (R126); while the stream's
counter reads 63 it does not issue and holds its clause there. Atomics issue (R88, R237): the lanes of EXEC, or one access;
the compare value of the compare-and-swap forms is the destination's; a datum's alignment is its size. PRFM, SGJOIN,
SGLEAVE, SGQRY, PFMAP and TLBI issue without lanes to translate (R126, R240, R252, R256, R261, R262, R264); where the active
set is empty all but TLBI are ordering points. -/
def Obligations.MemoryInstructionsIssue : Prop :=
  (∀ i r, accessRow i = some r → ∀ s c d a, Quiet s c → Passes c (planM c r.op r.f r.ok false [r.data, r.addr]) [d, a] →
     let w := clauseWord r.op r.f.bits
     let act := c.active r.f.km
     let op (b : Body) (l : List LaneAcc) : Pend := c.pend w (orderM r.f) act l b
     (63 ≤ c.h.streamCount r.f.q.toNat → exec i s = .next (s.holdOn c (.stream r.f.q.toNat))) ∧
     (c.h.streamCount r.f.q.toNat < 63 → act ≠ 0 →
       exec i s = .next (s.walking c (op (if r.store then .store else .load) (r.accs c d a)))) ∧
     (c.h.streamCount r.f.q.toNat < 63 → act = 0 → exec i s = .next (s.outstandingNow c (op .order []) r.op r.f.stl))) ∧
  (∀ i f op cas one, atomicRow i = some (f, op, cas, one) → ∀ s c d a b,
     let n := if f.w64 = 1 then 8 else 4
     let reg := if one then Want.sreg (regsOf n) else Want.vreg (regsOf n)
     let t := atomType f cas
     let w := clauseWord op f.bits
     Quiet s c → Passes c ⟨w, (if cas then f.aop = 0 else f.aop.toNat ≤ 9) && ruOk f.ru 0b110, false,
       [if cas then Use.both reg f.d else Use.dst reg f.d, Use.src (if one then Want.sreg 2 else Want.vors 2) f.a,
         Use.src (if one then Want.ssrc t else Want.vsrc t) f.b], c.maskCells 7, c.exec⟩ [d, a, b] →
     c.h.streamCount f.q.toNat < 63 →
     let part (lane j : Nat) : LaneAcc := lanePart lane (c.lane a j) n (d.cells c.h.sup c.x [j]) (c.lane b j)
       (if cas then c.lane d j else 0) (c.lane a j % n ≠ 0)
     (c.exec ≠ 0 → exec i s = .next (s.walking c (c.pend w (orderMA f) c.exec
       (if one then [part 96 0] else (laneList c.exec).map fun j => part j j) (.atomic f.aop.toNat cas (f.w64 = 1))))) ∧
     (c.exec = 0 → exec i s = .next (s.outstandingNow c (c.pend w (orderMA f) 0 [] .order) op f.stl))) ∧
  ((∀ f s c a, Quiet s c →
     Passes c (planM c 0x20B f (f.d = 0 && f.as = 0 && plainScope f && f.w.toNat ≤ 4) false [Use.src (Want.vors 2) f.a]) [a] →
     c.h.streamCount f.q.toNat < 63 →
     exec (.prfm f) s = .next (s.outstandingNow c (c.pend (clauseWord 0x20B f.bits) (orderM f) (c.active f.km) []
       (if c.active f.km = 0 then .order else .prefetch)) 0x20B f.stl)) ∧
   (∀ f s c d a, Quiet s c →
     Passes c (planM c 0x20C f (bareM f && c.scalar a < 2 ^ 16) false [Use.dst (Want.sreg 1) f.d, Use.src (Want.sreg 1) f.a]) [d, a] →
     c.h.streamCount f.q.toNat < 63 →
     ∃ r, (d.cells c.h.sup c.x [0]) = [r] ∧
       exec (.sgjoin f) s = .next (s.outstandingNow c (c.pend (clauseWord 0x20C f.bits) (orderM f) (c.active f.km) []
         (if c.active f.km = 0 then .order else .sgJoin r (BitVec.ofNat 32 (c.scalar a)))) 0x20C f.stl)) ∧
   (∀ i op f, (i = .sgleave f ∧ op = 0x20D ∨ i = .sgqry f ∧ op = 0x20E) → ∀ s c d, Quiet s c →
     Passes c ⟨clauseWord op f.bits, bareM f && f.a = 0 && f.ru = 0, false, [Use.dst (Want.sreg 1) f.d],
       c.maskCells f.km.toNat, 0⟩ [d] →
     c.h.streamCount f.q.toNat < 63 →
     ∃ r, (d.cells c.h.sup c.x [0]) = [r] ∧
       exec i s = .next (s.outstandingNow c (c.pend (clauseWord op f.bits) (orderM f) (c.active f.km) []
         (if c.active f.km = 0 then .order else if op = 0x20D then .sgLeave r else .sgQuery r)) op f.stl)) ∧
   (∀ f s c d a, Quiet s c →
     Passes c (planM c 0x20F f (bareM f && f.km = 7) true [Use.dst (Want.sreg 2) f.d, Use.src (Want.sreg 2) f.a]) [d, a] →
     c.h.streamCount f.q.toNat < 63 →
     ∃ r q, (d.cells c.h.sup c.x [0]) = [r, q] ∧
       exec (.pfmap f) s = .next (s.outstandingNow c (c.pend (clauseWord 0x20F f.bits) (orderM f) (c.active f.km) []
         (if c.active f.km = 0 then .order else .pfmap r q (c.scalar a))) 0x20F f.stl)) ∧
   (∀ f s c os,
     let k := f.w.toNat
     let usesD := k = 0 || k = 1
     let usesA := k = 0 || k = 3
     Quiet s c →
     Passes c (planM c 0x211 f (k ≤ 3 && (f.sc = 0 || f.sc = 2) && f.km = 7 && f.off = 0 && f.sem = 0 && f.as = 0 && f.x = 0
       && (usesD || f.d = 0) && (usesA || f.a = 0) && (usesA || f.ru = 0)) true
       ((if usesD then [Use.src (Want.sreg 1) f.d] else []) ++ (if usesA then [Use.src (Want.sreg 2) f.a] else []))) os →
     c.h.streamCount f.q.toNat < 63 →
     ∃ asid va, exec (.tlbi f) s = .next (s.outstandingNow c (c.pend (clauseWord 0x211 f.bits) (orderM f) c.exec []
         (.tlbi k asid va (f.sc = 2))) 0x211 f.stl) ∧
       (∀ d, usesD = true → os[0]? = some d → asid = c.scalar d % 256) ∧ (usesD = false → asid = 0) ∧
       (∀ a, usesA = true → os[if usesD then 1 else 0]? = some a → va = c.scalar a) ∧ (usesA = false → va = 0)))

/-- PAGE_WALK of a load, store or atomic (R230, R247): when every part is aligned and translates, and no TLBI stands before it,
the operation is outstanding with the physical addresses of its bytes, the slot past it; a contract mismatch of a part sets
GSTAT.CMIXS (R184). PAGE_WALK of an operation that a lane faults on, its edge-predecessors performed (R216, R231, R232,
R255): MISAL, PROT, REVOKE or CMIX traps in the lanes that raised it, FVA being the first byte that did, and so does PGFLT
on placeholders alone, with the operation kept for PFPARK; on a page that is not present the operation is a faulted access
and its slot is parked past it. While an edge-predecessor is not performed, or a TLBI stands before it, nothing happens. The
fault an instruction takes of those that its lanes raise (R231): one of the first kind in the order MISAL, PROT, REVOKE,
CMIX, PGFLT, with every lane that raised that kind, and with the address that the lowest of them gives. Whether a cached
translation is used is free (log 8); D of a failed compare-and-swap is the model's choice (log 78). -/
def Obligations.PageWalks : Prop :=
  (∀ (s : State) (c : Ctx) (p : Pend) (spans : List Span), Quiet s c → c.sl.walk = some p → p.body.isWhole = false →
     c.b.place = .resident → c.l.st = .running → c.h.exited = false → c.h.tlbiAhead p = false →
     (p.accs.map fun a => s.walkAcc (s.whoLane c.g a.lane) p c.l.contract c.h.miss a) = spans.map Sum.inr →
     ∃ (t : State) (h : Group) (q : Pend), exec .pageWalk s = .next t ∧ t.group? c.g = some h ∧ q ∈ h.pend ∧
       q.accs.map LaneAcc.pas = spans.map Span.pas ∧
       q.accs.map (fun a => (a.lane, a.va, a.len, a.dst, a.data, a.cmp)) = p.accs.map (fun a => (a.lane, a.va, a.len, a.dst, a.data, a.cmp)) ∧
       q.ser = p.ser ∧ q.body = p.body ∧ (h.slot c.x).walk = none ∧ (h.slot c.x).pc = c.sl.pc + 8 ∧
       h.gstat = (if spans.any Span.mism then c.h.gstat ||| 0x20 else c.h.gstat) ∧
       h.s = c.h.s ∧ h.v = c.h.v ∧ h.ix = c.h.ix) ∧
  (∀ (s : State) (c : Ctx) (p : Pend) (r : LaneFault), Quiet s c → c.sl.walk = some p → p.body.isWhole = false →
     c.b.place = .resident → c.l.st = .running → c.h.exited = false → takeFault (walkFaults s c p) = some r →
     let gone := s.modSlot c.g c.x fun sl => { sl with walk := none }
     let info (code : Nat) : TrapInfo := ⟨code, p.clidx, p.pc, p.iword, some r.lanes, r.va, 0, false, false⟩
     (c.h.tlbiAhead p = true ∨ c.b.edgesMet c.g.gid c.h p = false → exec .pageWalk s = .next s) ∧
     (c.h.tlbiAhead p = false → c.b.edgesMet c.g.gid c.h p = true →
       (∀ code, (r.fault, code) ∈ [(AFault.misal, 0x05), (.prot, 0x06), (.revoke, 0x0F), (.cmix, 0x08)] →
         exec .pageWalk s = .next (gone.trap c.g c.x (info code) none)) ∧
       (r.fault = .firstTouch → exec .pageWalk s = .next (gone.trap c.g c.x (info 0x07) (some p))) ∧
       (r.fault = .absent → ∃ (t : State) (h : Group), exec .pageWalk s = .next t ∧ t.group? c.g = some h ∧
         { p with st := .faulted } ∈ h.pend ∧ (h.slot c.x).park = some ⟨.access p.ser, r.va, s.time⟩ ∧
         (h.slot c.x).walk = none ∧ (h.slot c.x).pc = c.sl.pc + 8 ∧ h.s = c.h.s ∧ h.v = c.h.v ∧ h.ix = c.h.ix))) ∧
  (∀ (l : List LaneFault) (r : LaneFault), takeFault l = some r →
     (∃ f ∈ l, f.fault.rank = r.fault.rank) ∧ (∀ f ∈ l, r.fault.rank ≤ f.fault.rank) ∧
     (∀ j, r.lanes.getLsbD j = true ↔ ∃ f ∈ l, f.fault.rank = r.fault.rank ∧ f.lanes.getLsbD j = true) ∧
     (∀ f ∈ l, f.fault = .absent → f.fault.rank = r.fault.rank → r.fault = .absent) ∧
     ((∀ f ∈ l, f.lanes ≠ 0) → ∃ f ∈ l, f.fault.rank = r.fault.rank ∧ f.va = r.va ∧
       ∃ j, f.lanes.getLsbD j = true ∧ ∀ i < j, r.lanes.getLsbD i = false))

/-- A walk of the tables (R242 to R248), for leaves of 1 GiB, 2 MiB, 64 KiB and 4 KiB: at a valid leaf that allows the access
the address translates to the leaf's page, and at one that does not allow it the access takes PROT; at an entry that is not
present it takes PGFLT, which parks, at a placeholder one for the first-touch handler; a leaf in the root table, one with a
reserved bit, of a misaligned address or outside its kind's range, and a pointer below the last level, take PROT. The check
of a page's stamp (R184): a stamp other than 0 and the contract raises CMIX at the first byte on its page, or, under MISS,
only marks the access; an access that is not checked goes on. Addresses that never translate through the tables (R118, R242,
R247, R262, R400, R446): from 2^48 on, and under an ASID without a valid entry, PROT. The private window reaches the group's
own memory; the own-share window the block's share up to the staging reserve; the sharing-group window the member's share,
REVOKE where the member has left and PROT where there never was one; a share of a block that is on no core parks; capability
space is read only, the firmware object and translated code are execute only. Whether a cached translation is used is free
(log 8). -/
def Obligations.AddressTranslation : Prop :=
  (∀ (s : State) (who : Who) (need : Need) (va root n ptr : Nat) (e : DWord),
     va < 2 ^ 48 → s.window who need va = none → s.lanePage who va = none → s.cachedFor who va = none →
     s.asids.find? (fun p => p.1 = who.asid) = some (who.asid, root) → n ≤ 4 → walkReaches s root va n ptr →
     s.numAt ptr 8 = e.toNat → s.poisoned [ptr] = false →
     let size := leafBytes n
     let noRsvd := e.extractLsb' 9 3 = 0 ∧ e.extractLsb' 61 3 = 0
     (e.getLsbD 0 = true → e.getLsbD 1 = true → 1 ≤ n → noRsvd → leafPA e % size = 0 → s.kindOk (leafKind e) (leafPA e) size = true →
       (leafAllows need e = true → s.translate who need va = .inr ⟨va / size * size, size, leafPA e, some (e, ptr), false⟩) ∧
       (leafAllows need e = false → s.translate who need va = .inl .prot)) ∧
     (e.getLsbD 0 = true → e.getLsbD 1 = true →
       (n = 0 ∨ ¬ noRsvd ∨ leafPA e % size ≠ 0 ∨ s.kindOk (leafKind e) (leafPA e) size = false) → s.translate who need va = .inl .prot) ∧
     (e.getLsbD 0 = true → e.getLsbD 1 = false → n = 4 → s.translate who need va = .inl .prot) ∧
     (e.getLsbD 0 = false → e.getLsbD 8 = false → s.translate who need va = .inl .absent) ∧
     (e.getLsbD 0 = false → e.getLsbD 8 = true → e.getLsbD 1 = true → 1 ≤ n → noRsvd → s.translate who need va = .inl .firstTouch)) ∧
  (∀ (s : State) (who : Who) (need : Need) (va len contract ptr : Nat) (t : Trans) (e : DWord), s.translate who need va = .inr t →
     t.leaf = some (e, ptr) → 0 < len → len ≤ 4096 - va % 4096 →
     let stamp := (e.extractLsb' 52 6).toNat
     let sp (m : Bool) : Span := ⟨span (t.pa + (va - t.base)) len, [t], m⟩
     (stamp ≠ 0 → stamp ≠ contract → s.translateSpan who need (some contract) false va len = .inl ⟨.cmix, va⟩ ∧
       s.translateSpan who need (some contract) true va len = .inr (sp true)) ∧
     (stamp = 0 ∨ stamp = contract → ∀ miss, s.translateSpan who need (some contract) miss va len = .inr (sp false)) ∧
     (∀ miss, s.translateSpan who need none miss va len = .inr (sp false))) ∧
  ((∀ (s : State) (who : Who) (need : Need) (va : Nat), 2 ^ 48 ≤ va → s.translate who need va = .inl .prot) ∧
   (∀ (s : State) (who : Who) (need : Need) (va : Nat), s.window who need va = none → s.lanePage who va = none → s.cachedFor who va = none →
     s.asids.find? (fun p => p.1 = who.asid) = none →
     s.translate who need va = .inl .prot) ∧
   (∀ (s : State) (g : GRef) (need : Need) (va : Nat), 0x7E0000000000 ≤ va → va < 0x7E0100000000 →
     s.translate (s.whoGroup g) need va =
       if need.x then .inl .prot else .inr ⟨0x7E0000000000, 2 ^ 32, privateKey g 0, none, false⟩) ∧
   (∀ (s : State) (who : Who) (need : Need) (bid off : Nat) (b : Block) (l : Launch), who.bid = some bid → s.block? bid = some b →
     s.launches[b.lid]? = some l → off < 0x600000 →
     let share := b.shareLen - if l.detOf b then l.stage else 0
     s.translate who need (0x7F0000000000 + off) =
       if need.x || decide (share ≤ off) then .inl .prot
       else if b.onCore then .inr ⟨0x7F0000000000, b.shareLen, 0x8000000000 + 0x600000 * b.core + b.shareOff, none, false⟩
       else .inl .absent) ∧
   (∀ (s : State) (who : Who) (need : Need) (bid m off : Nat) (me : Block), who.bid = some bid → s.block? bid = some me → m < 8 →
     off < 0x800000 →
     let va := 0x7F1000000000 + 0x800000 * m + off
     let gone : TransRes := .inl (if m ∈ me.revoked then .revoke else .prot)
     (need.x = true → s.translate who need va = .inl .prot) ∧
     (need.x = false → s.sharing.find? (fun r => r.members.any fun p => p.2 = bid) = none → s.translate who need va = gone) ∧
     (∀ r, need.x = false → s.sharing.find? (fun r => r.members.any fun p => p.2 = bid) = some r →
       (r.members.find? (fun p => p.1 = m) = none → s.translate who need va = gone) ∧
       (∀ k o, r.members.find? (fun p => p.1 = m) = some (m, k) → s.block? k = some o →
         s.translate who need va =
           if o.shareLen ≤ off then .inl .prot
           else if o.onCore then
             .inr ⟨0x7F1000000000 + 0x800000 * m, o.shareLen, 0x8000000000 + 0x600000 * o.core + o.shareOff, none, false⟩
           else .inl .absent))) ∧
   (∀ (s : State) (who : Who) (need : Need) (va : Nat), 0x7F2000000000 ≤ va → va < 0x7F2000010000 →
     s.translate who need va =
       if need.w || need.x then .inl .prot else .inr ⟨0x7F2000000000, 0x10000, 0xC000000000, none, false⟩) ∧
   (∀ (s : State) (who : Who) (need : Need) (va : Nat), 0x7F3000000000 ≤ va → va < 0x7F4000000000 →
     (need.r = true ∨ need.w = true → s.translate who need va = .inl .prot) ∧
     ((∀ c ∈ s.codes, c.asid = who.asid → ∀ t ∈ c.translations, ¬ (t.addr ≤ va ∧ va < t.addr + t.len)) →
       s.translate who need va = .inl .prot)) ∧
   (∀ (s : State) (who : Who) (need : Need) (va : Nat), 0x0F000000 ≤ va → va < 0x0F020000 → (need.r = true ∨ need.w = true) →
     s.translate who need va = .inl .prot))

/-- ACCESS_PERFORM of a store (R124, R150, R234): its bytes are written in ascending lane order, little-endian, so that the last
part counts where two meet; every other byte, and every register, stays. ACCESS_PERFORM of a load (R124, R233): each part's
registers receive its bytes, little-endian; memory stays. ACCESS_PERFORM for the piece of a store that holds the byte u
(R146, R148, R150): the bytes of each lane that stores to u, in its aligned unit of 4 bytes or of the size that AS gives,
are written together, and no byte of another unit changes, nor one of a lane that has no byte in common with those there;
the operation stays outstanding. A store with SEM = 3 has no such pieces (R143). ACCESS_PERFORM of an atomic on one datum
(R88, R238, R239): the registers, scalar or of a vector's lane, receive the old value, the memory the result; a compare-and-
swap stores only where the old value is the compared one. An operation waits while an edge-predecessor of it is outstanding
(R123, R124): ACCESS_PERFORM then changes nothing. One memory for all observers is the model's reading (log 7). -/
def Obligations.AccessesPerform : Prop :=
  (∀ (s : State) (g : GRef) (h : Group) (p : Pend), s.issuer = .group g → Performs s g h p → p.body = .store →
     ∃ (t : State) (k : Group), exec (.accessPerform p.ser) s = .next t ∧ t.group? g = some k ∧
       k.pend = h.pend.filter (fun q => q.ser ≠ p.ser) ∧ k.s = h.s ∧ k.v = h.v ∧ k.ix = h.ix ∧
       k.slotA = h.slotA ∧ k.slotB = h.slotB ∧ t.mem.wf = true ∧
       (∀ x, (∀ a ∈ p.accs, x ∉ a.pas) → t.physByte x = s.physByte x) ∧
       (∀ (i : Nat) (a : LaneAcc) (n x : Nat), p.accs[i]? = some a → a.pas[n]? = some x →
         (∀ (m : Nat), n < m → a.pas[m]? ≠ some x) → (∀ (k : Nat) (b : LaneAcc), i < k → p.accs[k]? = some b → x ∉ b.pas) →
         t.physByte x = BitVec.ofNat 8 (a.data / 256 ^ n))) ∧
  (∀ (s : State) (g : GRef) (h : Group) (p : Pend), s.issuer = .group g → Performs s g h p → p.body = .load →
     ∃ (t : State) (k : Group), exec (.accessPerform p.ser) s = .next t ∧ t.group? g = some k ∧ t.mem = s.mem ∧
       k.pend = h.pend.filter (fun q => q.ser ≠ p.ser) ∧
       (h.wf = true → (p.accs.flatMap LaneAcc.dst).Nodup → (∀ a ∈ p.accs, ∀ r ∈ a.dst, cellOk r = true) →
         ∀ (a : LaneAcc) (i : Nat) (r : RegCell), a ∈ p.accs → a.dst[i]? = some r → (∀ y w, r ≠ .exec y w) → (∀ n, r ≠ .ix n) →
           k.cell r = BitVec.ofNat 32 (leNat (s.physBytes a.pas) / 2 ^ (32 * i))) ∧
       (h.wf = true → (∀ a ∈ p.accs, ∀ r ∈ a.dst, cellOk r = true) → ∀ r, cellOk r = true → (∀ a ∈ p.accs, r ∉ a.dst) → (∀ y w, r ≠ .exec y w) → k.cell r = h.cell r)) ∧
  (∀ (s : State) (g : GRef) (h : Group) (p : Pend) (u : Nat), s.issuer = .part (.group g) u → Performs s g h p → p.body = .store →
     p.sem ≠ .acqRel →
     let size := if (WordM.ofWord p.iword).as = 1 then 8 else if (WordM.ofWord p.iword).as = 2 then 16 else 4
     ∃ (t : State) (k : Group), exec (.accessPerform p.ser) s = .next t ∧ t.group? g = some k ∧
       (∃ q ∈ k.pend, q.ser = p.ser ∧ q.body = .store ∧ q.accs = p.accs) ∧ t.mem.wf = true ∧
       (∀ x, (x / size ≠ u / size ∨ ∀ a ∈ p.accs, x ∉ a.pas) → t.physByte x = s.physByte x) ∧
       (∀ (i : Nat) (a : LaneAcc) (n x : Nat), p.accs[i]? = some a → a.pas[n]? = some x → u ∈ a.pas → x / size = u / size →
         (∀ (m : Nat), n < m → a.pas[m]? ≠ some x) → (∀ (k : Nat) (b : LaneAcc), i < k → p.accs[k]? = some b → x ∉ b.pas) →
         t.physByte x = BitVec.ofNat 8 (a.data / 256 ^ n)) ∧
       ((∀ a ∈ p.accs, ∀ b ∈ p.accs, u ∈ a.pas → u ∉ b.pas → ∀ y ∈ b.pas, y / size = u / size → y ∉ a.pas) →
         ∀ x, (∀ a ∈ p.accs, u ∈ a.pas → x ∉ a.pas) → t.physByte x = s.physByte x)) ∧
  (∀ (s : State) (g : GRef) (h : Group) (p : Pend) (a : LaneAcc) (aop : Nat) (cas wide : Bool) (x : Nat),
     s.issuer = .group g → Performs s g h p → p.body = .atomic aop cas wide → p.accs = [a] → a.pas = span x a.len →
     h.wf = true → (cas = true ∨ aop ≤ 8 ∨ (aop = 9 ∧ (a.len = 4 ∨ a.len = 8))) →
     let contract := ((s.launchOf g.bid).map Launch.contract).getD 0
     let old := leNat (s.physBytes a.pas)
     let new := if cas then (if old = a.cmp then a.data % 256 ^ a.len else old)
       else (atomicResult contract aop (BitVec.ofNat (8 * a.len) old) (BitVec.ofNat (8 * a.len) a.data)).toNat
     a.data < 256 ^ a.len →
     ∃ (t : State) (k : Group), exec (.accessPerform p.ser) s = .next t ∧ t.group? g = some k ∧
       leNat (t.physBytes a.pas) = new ∧ (∀ y, y ∉ a.pas → t.physByte y = s.physByte y) ∧
       k.pend = h.pend.filter (fun q => q.ser ≠ p.ser) ∧
       (a.dst.Nodup → (∀ r ∈ a.dst, cellOk r = true) → ∀ (i : Nat) (r : RegCell), a.dst[i]? = some r → (∀ y w, r ≠ .exec y w) →
         (∀ n, r ≠ .ix n) → k.cell r = BitVec.ofNat 32 (old / 2 ^ (32 * i)))) ∧
  (∀ (s : State) (g : GRef) (b : Block) (h : Group) (p a : Pend), s.issuer = .group g → s.block? g.bid = some b →
     b.groups[g.gid]? = some h → h.pend.find? (fun q => q.ser = p.ser) = some p → a ∈ h.outstanding →
     a.ser < p.ser → (∃ n, a.q = some n ∧ p.pm.getLsbD n = true) → (a.path = p.path ∨ p.x = true) →
     b.staged = [] → a.st ≠ .passed → exec (.accessPerform p.ser) s = .next s)

/-! Copies -/

/-- A copy instruction (R324, R326 to R330, R334) with a legal, aligned descriptor below the group's allotment and room on its
core and its stream: a copy is armed under the group's next handle, which goes to D; the operation is outstanding on the
copy path and the slot past it. A misaligned address or stride raises MISAL. CPWP, CPQRY, CPWAIT and CPCAN (R340 to R342).
That RU[49] stands for DESC is the model's choice (log 69). -/
def Obligations.CopyInstructions : Prop :=
  (∀ i f op tile ok, copyRow i = some (f, op, tile, ok) → ∀ s c a d,
     let w := clauseWord op f.bits
     let width := (copyWidth f.ty.toNat).getD 1
     let desc := CopyDesc.ofScalars (c.scalar a)
     Quiet s c →
     Passes c ⟨w, ok && ruOk f.ru 0b100 && (copyWidth f.ty.toNat).isSome && (tile || f.xf ≠ 0 || f.ty = 0) &&
       xfOk f.xf.toNat f.ty.toNat width && c.belowAllotment (Use.src (Want.sreg 8) f.desc) &&
       desc.legal tile f.xf.toNat f.ty.toNat width, false, [Use.src (Want.sreg 8) f.desc, Use.dst (Want.sreg 1) f.d], [], 0⟩ [a, d] →
     (∀ va, desc.misaligned tile f.xf.toNat width = some va → exec i s = .next (s.trapLanes c w 0x05 c.exec va)) ∧
     (desc.misaligned tile f.xf.toNat width = none → s.copySlots c.b.core < 128 → c.h.streamCount f.q.toNat < 63 →
       ∃ (k : Copy) (t : State) (h : Group), exec i s = .next t ∧ t.copies = s.copies ++ [k] ∧ t.group? c.g = some h ∧
         k.owner = c.g ∧ k.ser = c.h.ser ∧ k.handle = c.h.copySeq ∧ k.src = desc.src ∧ k.dst = desc.dst ∧ k.len = desc.len ∧
         k.xf = f.xf.toNat ∧ k.ty = f.ty.toNat ∧ k.st = .armed ∧ k.wp = 0 ∧ (k.engine.isSome ↔ op = 0x283) ∧
         k.timed = (if desc.timed then some (desc.r6 + 2 ^ 32 * desc.r7) else none) ∧
         (tile = true → k.rows = desc.rows ∧ k.sstr = desc.sstr ∧ k.dstr = desc.dstr) ∧
         h.copySeq = (c.h.copySeq + 1) % 4096 ∧ h.ser = c.h.ser + 1 ∧ (h.slot c.x).pc = c.sl.pc + 8 ∧
         (∃ p ∈ h.pend, p.ser = c.h.ser ∧ p.body = .copy s.copies.length ∧ p.path = .p1 ∧ p.q = some f.q.toNat) ∧
         (∀ r ∈ d.cells c.h.sup c.x [], (∀ y w, r ≠ .exec y w) → c.h.wf = true → h.cell r = BitVec.ofNat 32 c.h.copySeq) ∧
         h.v = c.h.v ∧ h.ix = c.h.ix ∧ t.mem = s.mem ∧ t.launches = s.launches)) ∧
  ((∀ f s c p h d, Quiet s c → Passes c (handlePlan c 0x284 f h (handleUses f false true)) [p, h, d] →
     exec (.cpwp f) s = .next ((s.land c.g c.x ((d.cells c.h.sup c.x []).zip
       [BitVec.ofNat 32 (((named s c (c.scalar h)).map Copy.wp).getD 0xFFFFFFFF)])).onward c 0x284 f.stl (c.sl.pc + 8))) ∧
   (∀ f s c p h d, Quiet s c → Passes c (handlePlan c 0x287 f h (handleUses f false true)) [p, h, d] →
     exec (.cpqry f) s = .next ((s.land c.g c.x ((d.cells c.h.sup c.x []).zip
       [BitVec.ofNat 32 (statusOf (named s c (c.scalar h)))])).onward c 0x287 f.stl (c.sl.pc + 8))) ∧
   (∀ f s c p h t, Quiet s c → c.sl.st = .running →
     Passes c (handlePlan c 0x285 f h (handleUses f true false)) [p, h, t] →
     let over_ : Bool := match named s c (c.scalar h) with
       | none => true
       | some k => c.scalar t ≤ k.wp || k.st = .done || k.st = .stopped
     (over_ = true → exec (.cpwait f) s = .next (s.onward c 0x285 f.stl (c.sl.pc + 8))) ∧
     (over_ = false → exec (.cpwait f) s = .next
       (s.modSlot c.g c.x fun sl => { sl with st := .atEvent (.copy (c.scalar h) (c.scalar t)), since := s.fresh }))) ∧
   (∀ f s c h, Quiet s c → Passes c (handlePlan c 0x286 f h [Use.src (Want.sreg 1) f.d]) [h] →
     (s.copyOf c.g c.h (c.scalar h) = none → exec (.cpcan f) s = .next (s.onward c 0x286 f.stl (c.sl.pc + 8))) ∧
     (∀ n k, s.copyOf c.g c.h (c.scalar h) = some n → s.copies[n]? = some k →
       ∃ (t : State) (m : Copy), exec (.cpcan f) s = .next t ∧ t.copies[n]? = some m ∧ m.wp = k.wp ∧
         (k.st = .armed ∨ k.st = .paused → m.st = .stopped ∧ m.cause = 4) ∧
         (k.st = .running → m.st = .running ∧ m.cancel = true) ∧ (k.st = .done ∨ k.st = .stopped → m = k))))

/-- COPY_START and COPY_RESUME (R331, R337 to R339): an armed copy whose predecessors are performed starts at the first tick at
or after its time, and is late when that has passed as it arms; a paused one goes on at its write pointer once its
translations meet no pausing fault. COPY_CHUNK of a linear copy without transform (R331, R332): its next chunk ends at the
next multiple of 128 bytes of the destination, its bytes are moved, and the write pointer follows; the last one ends the
copy. A copy that CPCAN has marked stops before its next chunk (R341). Stated for a chunk that is moved whole, for
translations whose A and D are set, on ordinary memory, in a launch without snapshots. -/
def Obligations.CopyProgress : Prop :=
  ((∀ s cid k b h l, InFlight s cid k b h l → k.st = .armed →
     (k.set = true ∨ b.copyEdgesMet k.owner.gid h k.ser = true) →
     let due := k.timed.all fun t => decide (t ≤ s.time)
     exec .copyStart s = .next (s.modCopy cid fun m =>
       { m with
         set := true
         late := if m.set then m.late else m.timed.any fun t => decide (t < s.time)
         st := if due then .running else .armed })) ∧
   (∀ s cid k b h l, InFlight s cid k b h l → k.st = .paused → s.copyClear k l = true →
     exec .copyResume s = .next (s.modCopy cid fun m => { m with st := .running, cause := 0 }))) ∧
  ((∀ s cid k b h l, InFlight s cid k b h l → k.st = .running → k.cancel = true → k.work = none →
     ∃ (t : State) (m : Copy), exec .copyChunk s = .next t ∧ t.copies[cid]? = some m ∧ m.st = .stopped ∧ m.cause = 4 ∧
       m.wp = k.wp ∧ t.mem = s.mem) ∧
   (∀ s cid k b h l sp dp, InFlight s cid k b h l → k.st = .running → k.cancel = false → k.xf = 0 → k.dstr = 0 → k.rows = 1 →
     k.sstr = 0 → k.work = none → k.wp < k.len →
     let n := min (128 - (k.dst + k.wp) % 128) (k.len - k.wp)
     k.src + k.len ≤ 2 ^ 48 → k.dst + k.len ≤ 2 ^ 48 →
     s.translateRuns (s.whoGroup k.owner) .load l.contract k.miss [(k.src + k.wp, n)] = .inr sp →
     s.translateRuns (s.whoGroup k.owner) .store l.contract k.miss [(k.dst + k.wp, n)] = .inr dp →
     s.copyBehind k (span (k.src + k.wp) n) (span (k.dst + k.wp) n) = false →
     (∀ u ∈ sp.uses ++ dp.uses, ∀ e, u.leaf = some e → leafA e.1 = true ∧ leafD e.1 = true) →
     s.poison = [] → l.snap = false → b.staged = [] → s.mem.wf = true → sp.mism = false → dp.mism = false →
     dp.pas.Nodup → (∀ x ∈ sp.pas ++ dp.pas, isCap x = false ∧ x < firmwareKey 0) →
     ∃ (t : State) (m : Copy), exec .copyChunk s = .next t ∧ t.copies[cid]? = some m ∧ m.wp = k.wp + n ∧
       m.st = (if k.wp + n = k.len then .done else .running) ∧
       (∀ (j x y : Nat), sp.pas[j]? = some x → dp.pas[j]? = some y → t.physByte y = s.physByte x) ∧
       (∀ y, y ∉ dp.pas → t.physByte y = s.physByte y)))

/-! Numbered barriers and tiles -/

/-- MBAR, MWAIT and MARRW (R350 to R352). MBAR is an operation whose arrival is made when it is performed; MWAIT takes a
generation of its group, or waits, and a slot that waits comes before the group's other slot (R351); MARRW issues the
arrival and waits for it and a generation. ATOV and VTOA (R355, R357, R358) of row (CNT 0) or column (CNT 1) A of a 32-bit
tile or an f64 pair that no word or drain uses: lane j and element j of the line, for the lanes of EXEC below 64; ATOV
writes 0 in the lanes from 64 on. -/
def Obligations.BarriersAndTileMoves : Prop :=
  ((∀ f s c, Quiet s c → Passes c ⟨clauseWord 0x301 f.bits, arriveOk f, false, [], [], 0⟩ [] → c.h.streamCount f.q.toNat < 63 →
     exec (.mbar f) s = .next (s.outstandingNow c (c.pend (clauseWord 0x301 f.bits) (orderX f) allLanes []
       (.arrive f.bar.toNat f.cnt.toNat)) 0x301 f.stl)) ∧
   (∀ f s c, Quiet s c → Passes c ⟨clauseWord 0x302 f.bits, waitOk f, false, [], [], 0⟩ [] →
     let takes := c.b.canTake f.bar.toNat (.grp c.g.gid) && !c.h.waitsBefore c.x f.bar.toNat
     (takes = true →
       exec (.mwait f) s = .next ((s.modBlock c.g.bid fun b => b.take f.bar.toNat (.grp c.g.gid)).onward c 0x302 f.stl (c.sl.pc + 8))) ∧
     (takes = false → exec (.mwait f) s = .next
       (s.modSlot c.g c.x fun sl => { sl with st := .atEvent (.barrier f.bar.toNat), since := s.fresh }))) ∧
   (∀ f s c, Quiet s c → Passes c ⟨clauseWord 0x303 f.bits, arriveOk f, false, [], [], 0⟩ [] → c.sl.arrived = none →
     c.h.streamCount f.q.toNat < 63 →
     ∃ (t : State) (h : Group), exec (.marrw f) s = .next t ∧ t.group? c.g = some h ∧ h.ser = c.h.ser + 1 ∧
       (∃ p ∈ h.pend, p.ser = c.h.ser ∧ p.body = .arrive f.bar.toNat f.cnt.toNat ∧ p.q = some f.q.toNat) ∧
       (h.slot c.x).st = .atEvent (.arrived f.bar.toNat c.h.ser) ∧ (h.slot c.x).pc = c.sl.pc) ∧
   (∀ f s c ser, Quiet s c → Passes c ⟨clauseWord 0x303 f.bits, arriveOk f, false, [], [], 0⟩ [] →
     c.sl.arrived = some (.marrw f.bar.toNat ser) → (∀ p ∈ c.h.outstanding, p.ser ≠ ser) →
     c.b.canTake f.bar.toNat (.grp c.g.gid) = true → c.h.waitsBefore c.x f.bar.toNat = false →
     exec (.marrw f) s = .next ((s.modBlock c.g.bid fun b => b.take f.bar.toNat (.grp c.g.gid)).onward c 0x303 f.stl (c.sl.pc + 8)))) ∧
  ((∀ f s c d a, Quiet s c →
     Passes c (tilePlan c 0x304 f (c.scalar a < 64) [Use.dst (Want.vreg (movedTiles f).length) f.d, Use.src (Want.vscal tB32) f.a])
       [d, a] →
     c.b.tileBusy (movedTiles f) = false → c.b.badTiles = [] →
     let i := c.scalar a
     exec (.atov f) s = .next ((s.land c.g c.x ((laneList c.exec).flatMap fun j => (d.cells c.h.sup c.x [j]).zip
       ((movedTiles f).map fun n =>
         if j < 64 then (if f.cnt = 0 then tileWord c.b n i j else tileWord c.b n j i) else 0))).onward c
         0x304 f.stl (c.sl.pc + 8))) ∧
   (∀ f s c d a, Quiet s c →
     Passes c (tilePlan c 0x305 f (c.scalar a < 64) [Use.src (Want.vreg (movedTiles f).length) f.d, Use.src (Want.vscal tB32) f.a])
       [d, a] →
     c.b.tileBusy (movedTiles f) = false → (∀ n ∈ movedTiles f, assocWf 0 ((c.b.tile? n).getD []) = true) →
     let i := c.scalar a
     ∃ (t : State) (b : Block), exec (.vtoa f) s = .next t ∧ t.block? c.g.bid = some b ∧ t.mem = s.mem ∧
       (∀ (w : Nat) n, (movedTiles f)[w]? = some n → ∀ r q, r < 64 → q < 64 → tileWord b n r q =
         let j := if f.cnt = 0 then q else r
         if (if f.cnt = 0 then r = i else q = i) ∧ c.exec.getLsbD j = true then BitVec.ofNat 32 (c.lane d j / 2 ^ (32 * w))
         else tileWord c.b n r q) ∧
       (∀ n, n ∉ movedTiles f → b.tile? n = c.b.tile? n) ∧
       (∀ h, b.groups[c.g.gid]? = some h → (h.slot c.x).pc = c.sl.pc + 8 ∧ h.v = c.h.v ∧ h.s = c.h.s)))

/-! Clauses -/

/-- CLAUSE_HEADER (R74 to R77, R80, R82): once the words of a sound clause are read, and WB's generation is taken, in the order in which the group's slots wait (R351), the clause
stands in its slot with the signature 0xFFFF and the PC at its first word; until then the slot waits. A clause that is not
sound raises ILLCLS, with the frame PC and FVA at the header, and none of it takes effect. -/
def Obligations.ClauseHeaders : Prop :=
  ∀ (f : WordH) s c ws t, s.ctx? = some c → s.readCode (s.whoGroup c.g) (c.sl.pc.toNat + 8) (f.nm1.toNat + 1) = .inr (ws, t) →
    let started (sl : Slot) : Slot :=
      { sl.settle with
        st := .running
        pc := c.sl.pc + 8
        sig := 0xFFFF
        resumed := false
        arrived := none
        clause := some ⟨c.sl.pc, f.cls.toNat, ws, 0, decide (f.sck = 1), f.sig, true⟩ }
    let b := f.wb.toNat
    (SoundClause f ws → f.wb = 0 → exec (.clauseHeader f) s = .next (t.modSlot c.g c.x started)) ∧
    (SoundClause f ws → f.wb ≠ 0 → c.b.canTake b (.grp c.g.gid) = true → c.h.waitsBefore c.x b = false →
      exec (.clauseHeader f) s = .next ((t.modBlock c.g.bid fun k => k.take b (.grp c.g.gid)).modSlot c.g c.x started)) ∧
    (SoundClause f ws → f.wb ≠ 0 → c.b.canTake b (.grp c.g.gid) = false ∨ c.h.waitsBefore c.x b = true →
      exec (.clauseHeader f) s = .next (t.modSlot c.g c.x fun sl => { sl with st := .atEvent (.header b), since := t.fresh })) ∧
    (¬ SoundClause f ws →
      exec (.clauseHeader f) s = .next (t.trap c.g c.x ⟨0x02, 0x1E, c.sl.pc, f.bits, none, c.sl.pc.toNat, 0, false, false⟩ none))

/-! The matrix stream -/

/-- MSET, MADD, MBNZ and MBRA (R106). MWAITB, MARRB, MEND (R346, R353) and an illegal word (R107): a wait takes a generation or
stays; an arrival waits for the drains before it; a stream that has ended executes nothing more; an illegal word stops the
context and raises ILLOP in the block's first group, FVA the word's address (R347). MALLOC, MFREE and MZERO (R354) on tiles
that nothing in progress uses: what each name then stands for. MALLOC beyond the launch's tile count raises ILLOP; without
enough free tiles, of which those that a wounded block left go to the block that wounded it (R69), it waits and binds
nothing. FVA and the slot of a matrix trap are the model's reading (log 24). -/
def Obligations.MatrixStreamWords : Prop :=
  (∀ (f : WordMR) s c, Sequences s c →
     let hd := f.hd.toNat
     let setting (v : DWord) : Sequencer := { c.past with h := assocSet 0 c.q.h hd v }
     exec (.mset f) s = .next (s.withSeqr c (setting (f.imm.signExtend 64))) ∧
     exec (.msetHi f) s = .next (s.withSeqr c (setting ((c.h hd &&& 0xFFFFFFFF) ||| (f.imm.setWidth 64 <<< 32)))) ∧
     exec (.madd f) s = .next (s.withSeqr c (setting (c.h f.ha.toNat + f.imm.signExtend 64))) ∧
     exec (.mbra f) s = .next (s.withSeqr c { c.past with pc := c.jump f.imm }) ∧
     exec (.mbnz f) s = .next (s.withSeqr c
       { setting (c.h hd - 1) with pc := if c.h hd = 1 then c.q.pc + 8 else c.jump f.imm })) ∧
  (∀ s c, Sequences s c →
     (∀ f : WordMB, f.bar ≠ 0 → c.b.canTake f.bar.toNat .seqr = true →
       exec (.mwaitb f) s = .next ((s.modBlock c.bid fun b => b.take f.bar.toNat .seqr).seqrNext c)) ∧
     (∀ f : WordMB, f.bar ≠ 0 → c.b.canTake f.bar.toNat .seqr = false → exec (.mwaitb f) s = .next s) ∧
     (∀ f : WordMB, f.bar ≠ 0 → c.q.drains = [] →
       exec (.marrb f) s = .next ((s.modBlock c.bid fun b => b.arrive f.bar.toNat none).seqrNext c)) ∧
     (∀ f : WordMB, f.bar ≠ 0 → c.q.drains ≠ [] → exec (.marrb f) s = .next s) ∧
     (∀ f : WordME, exec (.mend f) s = .next (s.withSeqr c { c.q with ended := true })) ∧
     (∀ w gid h, c.b.lowGroup = some gid → c.b.groups[gid]? = some h →
       let x : SlotId := if h.slotA.isEmpty then .b else .a
       exec (.illegalMatrixWord w) s = .next ((s.withSeqr c { c.q with st := .trapped }).trap ⟨c.bid, gid⟩ x
         ⟨0x01, 0x1F, (h.slot x).pc, w, none, c.q.pc.toNat, 0, true, false⟩ none))) ∧
  (∀ (f : WordMT) s c, Sequences s c →
     (let new := unboundNames c f
      (c.b.tilesHeld + new ≤ c.l.accOf c.b → c.b.tiles.length ≤ c.b.tilesHeld → new ≤ s.freeFor c.b.core c.bid →
        ∃ (t : State) (b : Block) (q : Sequencer), exec (.malloc f) s = .next t ∧ t.block? c.bid = some b ∧ SeqrPast c b q ∧
          (∀ n, b.tile? n = if tmaskNames f n = true ∧ c.b.tile? n = none then some [] else c.b.tile? n) ∧ b.wants = 0 ∧
          t.mem = s.mem) ∧
      (c.l.accOf c.b < c.b.tiles.length + new →
        exec (.malloc f) s = .next (s.seqrTrap c.bid 0x01 (wordMT 0x07 f) c.q.pc.toNat)) ∧
      (c.b.tiles.length + new ≤ c.l.accOf c.b → s.freeFor c.b.core c.bid < new →
        exec (.malloc f) s = .next (s.modBlock c.bid fun b => { b with wants := new }))) ∧
     (c.q.work = none → c.q.drains = [] → c.b.parts = [] →
       ∃ (t : State) (b : Block) (q : Sequencer), exec (.mfree f) s = .next t ∧ t.block? c.bid = some b ∧ SeqrPast c b q ∧
         (∀ n, b.tile? n = if tmaskNames f n = true then none else c.b.tile? n) ∧ t.mem = s.mem) ∧
     (c.q.work = none → c.q.drains = [] → c.b.parts = [] → c.b.tilesHeld ≤ c.l.accOf c.b →
       (∀ n, tmaskNames f n = true → (c.b.tile? n).isSome = true) →
       ∃ (t : State) (b : Block) (q : Sequencer), exec (.mzero f) s = .next t ∧ t.block? c.bid = some b ∧ SeqrPast c b q ∧
         (∀ n, b.tile? n = if tmaskNames f n = true then some [] else c.b.tile? n) ∧ t.mem = s.mem))

/-- A word of the MMA family begins (R345, R347, R351, R363): with its generation at hand, its tiles bound and free of other
work and all its bytes checked and read, it stands in progress at band 0, and the stream goes on. MATRIX_WORD_DONE commits
the next band of a word of the MMA family (R363), here one without bitmap, zero points or Kite operands: rows 8 mrp to 8 mrp
+ 7 take their new values all at once, every other element stays; after band 7 the word is done and arrives. The sum of
values is exact (R170): of the same power of two it has the sum of the numbers, and a zero sum is -0 only when every value
is -0. A group of products enters the accumulator (R176 to R178). With a NaN, or infinities of both signs, the accumulator
is the canonical NaN, with one infinity that infinity. Otherwise, without alignment, it is the rounding of the exact sum of
the group and the accumulator; with alignment A each product is truncated to the grid 2^(e - A + 1) of the largest one,
whose exponent is e, and the accumulator is the rounding of its exact sum with the sum of those; a group of zeros adds their
sum. -/
def Obligations.MatrixMultiplyWords : Prop :=
  (∀ i f mop, mmaRow i = some (f, mop) → ∀ s c aux a m, Sequences s c →
     let w := c.startMM mop f
     let v := s.viewOf c.bid
     (f.wait = 0 ∨ c.q.taken = true ∨ c.b.canTake f.wait.toNat .seqr = true) → w.mmaOk = true →
     (∀ n ∈ w.names, (c.b.tile? n).isSome = true) → c.q.work = none → c.q.drains = [] → c.b.parts = [] →
     c.b.tilesHeld ≤ c.l.accOf c.b → s.readWord v v w = .inr (aux, a, m) →
     (∀ u ∈ a.uses ++ m.uses, ∀ e, u.leaf = some e → leafA e.1 = true) →
     ∃ (t : State) (b : Block) (q : Sequencer), exec i s = .next t ∧ t.block? c.bid = some b ∧ b.seqr = some q ∧
       q.work = some { w with
         aux := aux, data := a.data, dataB := m.data, ready := true, named := w.names, ord := s.fresh } ∧ w.mrp = 0 ∧
       q.pc = c.q.pc + 8 ∧ q.h = c.q.h ∧ q.phase = c.q.phase ∧ q.drains = [] ∧ b.tiles = c.b.tiles ∧ t.mem = s.mem) ∧
  (∀ s c w n, Sequences s c → c.q.work = some w → c.q.drains = [] → w.ready = true → c.runs = true → w.names = [n] →
     w.isMmas = false → w.za = false → w.zb = false → w.fmtA.isKite = false → w.fmtB.isKite = false → w.cls = w.fmtB.cls →
     w.mrp < 8 → w.readsBad c.b = false → (c.b.tile? n).isSome = true → assocWf 0 ((c.b.tile? n).getD []) = true →
     ∃ (t : State) (b : Block) (q : Sequencer), exec .matrixWordDone s = .next t ∧ t.block? c.bid = some b ∧
       b.seqr = some q ∧ q.work = (if w.mrp = 7 then none else some { w with mrp := w.mrp + 1 }) ∧ q.pc = c.q.pc ∧ q.h = c.q.h ∧
       b.bars = (if w.mrp = 7 then c.b.barsAfter w.arr else c.b.bars) ∧
       t.mem = s.mem ∧ b.groups = c.b.groups ∧ (∀ k, k ≠ n → b.tile? k = c.b.tile? k) ∧
       ∀ r col, r < 64 → col < 64 →
         let old := tileWord c.b n r col
         let st := if w.fromZero then 0 else old.toNat
         (r / 8 ≠ w.mrp → tileWord b n r col = old) ∧
         (r / 8 = w.mrp →
           (∀ sa sb d, w.fmtA = .int sa d → w.fmtB = .int sb d →
             (tileWord b n r col : Word) = BitVec.ofInt 32 (st + ((List.range w.depth).map fun k =>
               lineInteger w.data sa d w.hA w.hSA r k * lineInteger w.dataB sb d w.hB w.hSB col k).sum)) ∧
           (∀ ga gb, w.fmtA = .fp ga → w.fmtB = .fp gb →
             let fi := matFlushIn c.l.contract
             tileWord b n r col = BitVec.ofNat 32 (groupedProducts (groupLen c.l.contract)
               (groupStep w.cls.acc fi (matFlushOut c.l.contract) (w.cls.align c.l.contract)) w.depth st
               ((List.range w.depth).map fun k => (lineValue w.data ga fi w.hA w.hSA r k).mul
                 (lineValue w.dataB gb fi w.hB w.hSB col k)))))) ∧
  ((∀ (ns : List Int) (q : Int), (∀ n ∈ ns, n ≠ 0) → ns.sum ≠ 0 →
     ∃ d : Dy, Val.sum (ns.map fun n => .fin ⟨n, q⟩) = .fin d ∧
       ∀ k : Nat, 0 ≤ d.exp + k → 0 ≤ q + k → d.num * 2 ^ (d.exp + k).toNat = ns.sum * 2 ^ (q + k).toNat) ∧
   (∀ (ns : List Int) (q : Int), ns ≠ [] → (∀ n ∈ ns, n ≠ 0) → ns.sum = 0 → Val.sum (ns.map fun n => .fin ⟨n, q⟩) = .zero false) ∧
   (∀ zs : List Bool, Val.sum (zs.map .zero) = .zero (zs.all id))) ∧
  (∀ (f : FF) (fi fo : Bool) (align acc : Nat) (grp : List Val), f = .f32 ∨ f = .f64 →
     let a := f.read fi acc
     let all := a :: grp
     let new := groupStep f fi fo align acc grp
     let finite := ∀ v ∈ all, v.isNan = false ∧ v.isInf = false
     let rounded (vs : List Val) : Nat := (roundedTo f .rne fo (Val.sum vs) false).enc
     ((∃ v ∈ all, v.isNan = true) → new = f.nan) ∧
     (.inf true ∈ all → .inf false ∈ all → new = f.nan) ∧
     (∀ n, (∀ v ∈ all, v.isNan = false) → .inf n ∈ all → .inf (!n) ∉ all → new = f.inf n) ∧
     (finite → align = 0 → new = rounded all) ∧
     (finite → align ≠ 0 → (∀ v ∈ grp, v.isZero = true) → new = rounded [a, Val.sum grp]) ∧
     (∀ e : Int, finite → align ≠ 0 → (∃ x, .fin x ∈ grp ∧ x.log2 = e) → (∀ x, .fin x ∈ grp → x.log2 ≤ e) →
       new = rounded [a, Val.sum (grp.map (onGrid (e - align + 1)))]))

/-- MMAG (R366): the leader, whose earlier parts are all delivered, reads the record and B, and delivers one part to each member
that MEMB names, in slot order; a part for a member that is absent is kept until it returns, without its B. GANG_PART_RUN
(R366, R367): the oldest part of a member begins once it has taken its generation and its tile is free; then its bytes are
checked and read, A in the member's view and B, where the part does not hold it, in the leader's, and a fault of them traps,
which drops the part, or parks it; then each move commits a band of rows in the member's tile, and after the last the part
arrives and is done. That the leader neither waits nor arrives is the model's reading (log 45). -/
def Obligations.GangedMultiply : Prop :=
  (∀ (f : WordMM) s c aux ma mb eb (members : List Nat), Sequences s c → c.b.undelivered = [] →
     let w := { c.startMM 0x0D f with aux := aux }
     let v := s.viewOf c.bid
     (c.startMM 0x0D f).mmaOk = true → s.readAux v (c.startMM 0x0D f) = .inr (aux, ma) → w.auxField 0x38 < 256 →
     members ≠ [] → members.Nodup →
     (((List.range 8).filter fun k => bitOf (w.auxField 0x38) k).map fun k => (s.sharingOf c.bid).bind fun r => assocFind r.members k) =
       members.map some →
     s.readB v w = .inr mb → s.extraB v w mb.data = .inr eb → c.q.drains = [] → mb.bad = false → ma.bad = false → eb.bad = false →
     (∀ u ∈ mb.uses ++ ma.uses ++ eb.uses, ∀ e, u.leaf = some e → leafA e.1 = true) →
     ∃ (t : State) (k : MWork), exec (.mmag f) s = .next t ∧
       k = { w with dataB := mb.data ++ ma.data ++ eb.data, named := w.names, ord := s.fresh } ∧
       t.mem = s.mem ∧
       (∀ m b, m ∈ members → s.block? m = some b → b.onCore = true → ∃ b', t.block? m = some b' ∧
         b'.parts = b.parts ++ [⟨c.bid, k, false, false, .running⟩] ∧ b'.tiles = b.tiles) ∧
       (∀ m b, s.block? m = some b → m ∉ members → ∃ b', t.block? m = some b' ∧ b'.parts = b.parts ∧ b'.tiles = b.tiles) ∧
       (∀ b, t.block? c.bid = some b → ∃ q, b.seqr = some q ∧ q.pc = c.q.pc + 8 ∧
         b.undelivered = (members.filter fun m => !(s.block? m).any Block.onCore).map fun m => ⟨m, { k with data := [], dataB := [] }⟩)) ∧
  (∀ s bid b l p ps, s.issuer = .block bid → s.block? bid = some b → s.launches[b.lid]? = some l → b.parts = p :: ps →
     b.place = .resident → l.live = true →
     (p.begun = false → p.work.waits ≠ 0 → b.canTake p.work.waits .port = false → exec .gangPartRun s = .next s) ∧
     (p.begun = false → p.work.waits = 0 ∨ b.canTake p.work.waits .port = true → (∀ n ∈ p.work.names, b.bound n = true) →
       (∀ q, b.seqr = some q → q.work = none ∧ q.drains = []) → b.tilesHeld ≤ l.accOf b →
       exec .gangPartRun s = .next (s.modBlock bid fun b =>
         { (if p.work.waits = 0 then b else b.take p.work.waits .port) with parts := { p with begun := true } :: ps })) ∧
     (p.begun = true → p.work.ready = false → (∀ va since, p.st ≠ .parked va since) →
       (∀ a e m, s.readA (s.viewOf bid) p.work none = .inr a → s.extraA (s.viewOf bid) p.work none a.data = .inr e →
         a.bad = false → e.bad = false → (p.work.fromZero = true → p.named = false → s.canRename bid b (l.accOf b) p.work.names = true) →
         (p.work.dataB = [] → s.readPartB p.leader p.work = .inr m) → (p.work.dataB ≠ [] → m = ⟨p.work.dataB, [], [], false, false⟩) →
         (∀ u ∈ a.uses ++ e.uses ++ m.uses, ∀ k, u.leaf = some k → leafA k.1 = true) →
         ∃ (t : State) (b' : Block), exec .gangPartRun s = .next t ∧ t.block? bid = some b' ∧ t.mem = s.mem ∧
           b'.tiles = b.tiles ∧ b'.parts = { p with
             work := { p.work with data := a.data ++ e.data, dataB := m.data, ready := true }, named := true, st := .running } :: ps) ∧
       (∀ f, s.readA (s.viewOf bid) p.work none = .inl f →
         (f.fault ≠ .ecc → f.fault ≠ .absent → f.fault ≠ .firstTouch →
           exec .gangPartRun s = .next ((s.modBlock bid fun b => { b with parts := ps }).matrixTrap bid f.fault.code p.work.iword
             f.va)) ∧
         (f.fault = .absent ∨ f.fault = .firstTouch →
           ∃ (t : State) (b' : Block), exec .gangPartRun s = .next t ∧ t.block? bid = some b' ∧
             b'.parts = { p with st := .parked f.va s.time } :: ps ∧ b'.tiles = b.tiles ∧ b'.groups = b.groups))) ∧
     (p.begun = true → p.work.ready = true → p.work.readsBad b = false →
       ∃ (t : State) (b' : Block), exec .gangPartRun s = .next t ∧ t.block? bid = some b' ∧
         b'.tiles = (b.commit p.work.names (p.work.band l.contract b)).tiles ∧ b'.groups = b.groups ∧ b'.seqr = b.seqr ∧
         b'.parts = (if p.work.mrp < 7 then { p with work := { p.work with mrp := p.work.mrp + 1 } } :: ps else ps) ∧
         b'.bars = (if p.work.mrp < 7 then b.bars else b.barsAfter p.work.arr)))

/-- MDRN and MDRNA begin (R368 to R372): the drain has read its tile, every byte of its destination is translated, and the
stream goes on; MDRN takes the next drain phase. MATRIX_WORD_DONE of a drain. MDRN writes rows 8 mrp to 8 mrp + 7, the later
of two rows where they overlap (R368, R369, R372): each element in the drain's floating-point format, or each Kite block,
with the tile's n-th escape at entry n of the side list and the count of the escapes before a row at its place (R370), where
the row's blocks, the side list and the line starts are apart. MDRNA adds the whole tile to its destination (R371), here for
each element that shares no byte with another. The drain arrives after its last band, and no other byte of memory changes. -/
def Obligations.MatrixDrains : Prop :=
  (∀ (f : WordMD) s c m (atomic : Bool), Sequences s c →
     let e := c.startMD (if atomic then 0x0F else 0x0E) f
     let w := { e with tiles := e.names.map (fun n => (c.b.tile? n).getD []), named := e.names, ready := true, ord := s.fresh }
     let ranges := w.drainRanges c.l.contract
     (f.wait = 0 ∨ c.q.taken = true ∨ c.b.canTake f.wait.toNat .seqr = true) → w.drainOk = true →
     (∀ n ∈ w.names, (c.b.tile? n).isSome = true) → c.q.work = none → c.q.drains = [] → c.b.parts = [] →
     c.b.tileBad w.names (fun _ => true) = false →
     s.drainDest (s.viewOf c.bid) (if atomic then .atomic else .store) ranges = .inr m → m.mism = false →
     ∃ (t : State) (b : Block) (q : Sequencer) (d : MWork),
       exec (if atomic then .mdrna f else .mdrn f) s = .next t ∧ t.block? c.bid = some b ∧ SeqrPast c b q ∧ q.drains = [d] ∧
       d = { w with dest := (ranges.flatMap fun p => (List.range p.2).map (p.1 + ·)).zip m.pas } ∧
       q.phase = (if atomic then c.q.phase else (c.q.phase + 1) % 16) ∧ b.tiles = c.b.tiles) ∧
  (∀ s c d ds, DrainReady s c d ds → d.mrp < 8 →
     let k := c.l.contract
     (∀ g, d.isMdrna = false → d.fmtA = .fp g →
       ∃ t : State, exec .matrixWordDone s = .next t ∧ DrainMoved s t c d ds (d.mrp = 7) ∧
         (∀ r col j pa, r / 8 = d.mrp → col < 64 → j < g.bits / 8 → lastWritten d r (rowByte d r (col * (g.bits / 8) + j)) pa →
           t.physByte pa = BitVec.ofNat 8 (drainCode d k g r col / 256 ^ j)) ∧
         (∀ pa, isCap pa = false → (∀ r j, r / 8 = d.mrp → j < d.rowLen → (rowByte d r j, pa) ∉ d.dest) →
           t.physByte pa = s.physByte pa)) ∧
     (∀ q, d.isMdrna = false → d.fmtA = .kite q →
       let places := ((List.range 8).flatMap fun i => d.rowWrites k (8 * d.mrp + i)).flatMap fun p => span p.1 p.2.length
       places.Nodup →
       ∃ t : State, exec .matrixWordDone s = .next t ∧ DrainMoved s t c d ds (d.mrp = 7) ∧
         (∀ r n j pa, r / 8 = d.mrp → n < 4 → j < q.size → (rowByte d r (n * q.size + j), pa) ∈ d.dest →
           t.physByte pa = BitVec.ofNat 8 ((drainBlock d k q r n).bits q.mag / 256 ^ j)) ∧
         (∀ r j pa, r / 8 = d.mrp → j < 4 → ((d.hSB + 4 * r) % 2 ^ 64 + j, pa) ∈ d.dest →
           t.physByte pa = BitVec.ofNat 8 (escapeCount d k q r / 256 ^ j)) ∧
         (∀ r n i j pa, r / 8 = d.mrp → n < 4 → i < 16 → j < 4 → (drainBlock d k q r n).esc.contains i = true →
           let before := ((List.range 4).flatMap fun m => (List.range 16).filter fun e =>
             (drainBlock d k q r m).esc.contains e && decide (16 * m + e < 16 * n + i)).length
           ((d.hB + 4 * escapeCount d k q r) % 2 ^ 64 + 4 * before + j, pa) ∈ d.dest →
           t.physByte pa = BitVec.ofNat 8 (d.word 0 r (16 * n + i) / 256 ^ j)) ∧
         (∀ pa, isCap pa = false → (∀ va ∈ places, (va, pa) ∉ d.dest) → t.physByte pa = s.physByte pa)) ∧
     (∀ g, d.isMdrna = true → d.fmtA = .fp g →
       ∃ t : State, exec .matrixWordDone s = .next t ∧ DrainMoved s t c d ds true ∧
         (∀ r col (pas : List Nat), r < 64 → col < 64 → pas.length = g.bits / 8 →
           (∀ j pa, pas[j]? = some pa → (rowByte d r (col * (g.bits / 8) + j), pa) ∈ d.dest ∧
             ∀ r' j', r' < 64 → j' < d.rowLen → rowByte d r' j' = rowByte d r (col * (g.bits / 8) + j) →
               r' = r ∧ j' = col * (g.bits / 8) + j) →
           leNat (pas.map t.physByte) = addedOnStore d k g (leNat (pas.map s.physByte)) r col % 2 ^ g.bits) ∧
         (∀ pa, isCap pa = false → (∀ r j, r < 64 → j < d.rowLen → (rowByte d r j, pa) ∉ d.dest) →
           t.physByte pa = s.physByte pa)))

/-! Token masks, sampling, tickets -/

/-- TMLOAD to TMSAVE, SAMPLE and SARGMX issue (R386, R388 to R391, R394, R395, R397). What TMLOAD, TMQRY, TMMASK and TMSAVE do
in one lane (R381, R382, R385, R388, R389, R391). On a record that is bound here TMLOAD and TMQRY give its status; TMMASK
writes the legal mask, or its AND with the bytes that were there, to the lane's mask address, and nothing when the image is
bad; TMSAVE writes the record back in its layout and with `.ev` unbinds it. TMLOAD with INIT starts a new sequence on a
valid image; a record that breaks its layout reports BADREC and is not bound. PAGE_WALK of a class-7 operation that is ready
(R393): its whole effect, with the slot past it; TMSTEP's TMILL lanes and the flags of SAMPLE trap after the effect where
FPCTL enables it (R398). Which lanes set TMILL (log 46), and that a record which breaks its layout is BADREC before its
image is looked at (log 30), are the model's reading. -/
def Obligations.TokenInstructions : Prop :=
  ((∀ i r, recordRow i = some r → ∀ s c d a os, Quiet s c →
     Passes c ⟨clauseWord r.op r.f.bits, r.ok, false, Use.dst (Want.vreg 1) r.f.d :: Use.src (Want.vreg 2) r.f.a :: r.more,
       c.maskCells 7, c.exec⟩ (d :: a :: os) → c.h.streamCount r.f.q.toNat < 63 →
     exec i s = .next (s.issuesWhole c (clauseWord r.op r.f.bits) r.f r.op (.bridle r.body (recordLanes c d a fun j =>
       match os with
       | b :: _ => if r.narrow then c.lane b j % 2 ^ 32 else c.lane b j
       | [] => 0)))) ∧
   (∀ f s c d a k os, Quiet s c →
     let v := c.scalar k
     let init : Bool := v % 2 = 1
     Passes c ⟨clauseWord 0x381 f.bits, loadControl v && (init || f.b = 0) && ruOk f.ru (if init then 0b111 else 0b101), false,
       [Use.dst (Want.vreg 1) f.d, Use.src (Want.vreg 2) f.a, Use.src (Want.ssrc tB32) f.c] ++
         (if init then [Use.src (Want.sreg 2) f.b] else []), c.maskCells 7, c.exec⟩ (d :: a :: k :: os) →
     c.h.streamCount f.q.toNat < 63 →
     exec (.tmload f) s = .next (s.issuesWhole c (clauseWord 0x381 f.bits) f 0x381 (.bridle
       (match init, os with
        | true, b :: _ => .init (c.scalar b) (v / 2 ^ 16 % 2 ^ 13)
        | _, _ => .bind) (recordLanes c d a fun _ => 0)))) ∧
   (∀ f s c d b a k, Quiet s c →
     Passes c ⟨clauseWord 0x386 f.bits, d ≠ a && ruOk f.ru 0b111 && sampleFits (c.scalar b), false,
       [Use.dst (Want.vreg 1) f.d, Use.src (Want.sreg 8) f.b, Use.both (Want.vreg 1) f.a, Use.src (Want.ssrc tB32) f.c],
       c.maskCells 7, c.exec⟩ [d, b, a, k] → c.h.streamCount f.q.toNat < 63 →
     let cell (o : Opnd) (j : Nat) : RegCell := ((o.cells c.h.sup c.x [j]).head?).getD (.v 0 j)
     exec (.sample f) s = .next (s.issuesWhole c (clauseWord 0x386 f.bits) f 0x386 (.sample
       (sampleFields (c.scalar b) (c.scalar k) c.h.rkey.toNat true)
       ((laneList c.exec).map fun j => ⟨j, c.lane a j, cell d j, cell a j⟩)))) ∧
   (∀ f s c d b, Quiet s c →
     Passes c ⟨clauseWord 0x387 f.bits, f.a = 0 && f.c = 0 && ruOk f.ru 0b010 && sampleFits (c.scalar b), false,
       [Use.dst (Want.vreg 1) f.d, Use.src (Want.sreg 8) f.b], c.maskCells 7, c.exec⟩ [d, b] →
     c.h.streamCount f.q.toNat < 63 →
     let cell (j : Nat) : RegCell := ((d.cells c.h.sup c.x [j]).head?).getD (.v 0 j)
     exec (.sargmx f) s = .next (s.issuesWhole c (clauseWord 0x387 f.bits) f 0x387 (.sample
       (sampleFields (c.scalar b) 0 c.h.rkey.toNat false) ((laneList c.exec).map fun j => ⟨j, 0, cell j, cell j⟩))))) ∧
  ((∀ s u v who g lid use va arg b i row m acc w op, BoundHere s u who va lid use b i → (op = .bind ∨ op = .query) →
     legalMask who i b u = .ok ((row, m, false), v) → accepting who b.image i b.state v = .ok (acc, w) →
     bridleLane who g lid op use va arg s = .ok (recordStatus 0 m acc b, w)) ∧
   (∀ s u v who g lid use va arg b i row row' m m' acc (w : State × State) v0 v1 (conj : Bool) old, BoundHere s u who va lid use b i →
     legalMask who i b u = .ok ((row, m, false), v) →
     (conj = true → memLoad who none false arg (maskSize i.vocab) v = .ok (old, v0)) → (conj = false → v0 = v) →
     memStore who [lid] arg ((List.range (maskSize i.vocab)).map fun k =>
       BitVec.ofNat 8 (m / 256 ^ k) &&& (if conj then (old[k]?).getD 0 else 0xFF)) v0 = .ok ((), v1) →
     legalMask who i b v1 = .ok ((row', m', false), w.1) → accepting who b.image i b.state w.1 = .ok (acc, w.2) →
     m < 2 ^ i.vocab ∧ bridleLane who g lid (.mask conj) use va arg s = .ok (recordStatus 0 m' acc b, w.2)) ∧
   (∀ who lids va bs (s : State) sp, s.translateSpan who .store none false va bs.length = .inr sp → sp.pas.Nodup →
     s.poison = [] → s.mem.wf = true → (∀ lid ∈ lids, ∀ l, s.launches[lid]? = some l → l.snap = false) →
     (∀ x ∈ sp.uses, ∀ e, x.leaf = some e → leafA e.1 = true ∧ leafD e.1 = true) →
     (∀ x ∈ sp.pas, isCap x = false ∧ x < firmwareKey 0) →
     ∃ t, memStore who lids va bs s = .ok ((), t) ∧ t.bound = s.bound ∧
       (∀ (k y : Nat) v, sp.pas[k]? = some y → bs[k]? = some v → t.physByte y = v) ∧
       ∀ y, isCap y = false → y ∉ sp.pas → t.physByte y = s.physByte y) ∧
   (∀ s u v who g lid use va arg b i row m conj, BoundHere s u who va lid use b i →
     legalMask who i b u = .ok ((row, m, true), v) → bridleLane who g lid (.mask conj) use va arg s = .ok (1, v)) ∧
   (∀ s u v who g lid use va arg b i row m acc (w : State × State) evict, BoundHere s u who va lid use b i →
     let n := { b with lastUse := use, lids := if b.lids.contains lid then b.lids else b.lids ++ [lid] }
     writeBack n u = .ok ((), v) →
     legalMask who i b (if evict then v.unbind b.pa else v) = .ok ((row, m, false), w.1) →
     accepting who b.image i b.state w.1 = .ok (acc, w.2) →
     bridleLane who g lid (.save evict) use va arg s = .ok (recordStatus 0 m acc b, w.2)) ∧
   (∀ (b : Bound) (s : State) sp, s.translateSpan b.who .store none false b.va (256 + 2 * b.depth) = .inr sp → sp.pas.Nodup →
     s.poison = [] → s.mem.wf = true → (∀ lid ∈ b.lids, ∀ l, s.launches[lid]? = some l → l.snap = false) →
     (∀ x ∈ sp.uses, ∀ e, x.leaf = some e → leafA e.1 = true ∧ leafD e.1 = true) →
     (∀ x ∈ sp.pas, isCap x = false ∧ x < firmwareKey 0) →
     ∃ t, writeBack b s = .ok ((), t) ∧ RecordLayout b (sp.pas.map t.physByte) ∧ t.bound = s.bound ∧
       ∀ y, isCap y = false → y ∉ sp.pas → t.physByte y = s.physByte y) ∧
   (∀ (s : State) (pa : Nat), (s.unbind pa).bound? pa = none) ∧
   (∀ s u who g lid use va arg image slim hdr sp pa, s.translateSpan who .load none false va 256 = .inr sp → sp.pas.head? = some pa →
     s.bound? pa = none → (s.byUse who.die).length < 256 → memLoad who none false image 64 s = .ok (hdr, u) → u.bound = s.bound →
     (Image.ofBytes image hdr = none → bridleLane who g lid (.init image slim) use va arg s = .ok (1, u)) ∧
     (∀ i, Image.ofBytes image hdr = some i → ∀ v row m acc (w : State × State),
       let n : Bound := ⟨pa, va, who.asid, g, who.die, image, hdr, i.start, 0, slim, false, 0, 0xFFFFFFFF, [], use, [lid], false⟩
       v = ({ u with bound := u.bound ++ [n] } : State) → legalMask who i n v = .ok ((row, m, false), w.1) →
       accepting who image i i.start w.1 = .ok (acc, w.2) →
       bridleLane who g lid (.init image slim) use va arg s = .ok (recordStatus 0 m acc n, w.2))) ∧
   (∀ s u who g lid use va arg sp pa bs op, s.translateSpan who .load none false va 256 = .inr sp → sp.pas.head? = some pa →
     s.bound? pa = none → memLoad who none false va 256 s = .ok (bs, u) → (op = .bind ∨ op = .query ∨ op = .save true) →
     (fieldOf bs 0x08 4 ≥ 2 ^ 20 ∨ fieldOf bs 0x0C 4 ≥ 2 ^ 13 ∨ fieldOf bs 0x14 4 > 1 ∨ fieldOf bs 0x20 224 ≠ 0 ∨
       fieldOf bs 0x10 4 = 0 ∨ fieldOf bs 0x10 4 > 4096 ∨ fieldOf bs 0x0C 4 > fieldOf bs 0x10 4) →
     bridleLane who g lid op use va arg s = .ok (4, u))) ∧
  (∀ s c p t after, Quiet s c → c.sl.walk = some p → p.body.isWhole = true → c.b.place = .resident → c.l.st = .running →
     c.h.exited = false → s.wholeReady c p = true → s.runWhole c p = .ok t after → t.slot? c.g c.x = some c.sl →
     let u := t.modSlot c.g c.x fun sl => { sl with walk := none }
     (after = none → exec .pageWalk s = .next (u.onward c p.op p.stl (c.sl.pc + 8))) ∧
     (∀ code m, after = some (code, m) → exec .pageWalk s = .next ((u.onward c p.op p.stl (c.sl.pc + 8)).trap c.g c.x
       ⟨code, c.sl.clidx, c.sl.pc, p.iword, some m, 0, 0, false, false⟩ none)))

/-- step() of R379: a legal mask that reports BADIMG ends it so. On a record whose legal mask is m under the row found, a token outside the mask is ILLTOK, and the end token
ends the sequence. Otherwise the first of the row's transition entries (R377) that contains the token, `es` as they are read, gives
the action and the next state, and the row's default where none does; an entry or an action that R379 excludes is BADIMG, and a
push beyond the limit or a pop of an empty stack STKERR. A failing step leaves the record. -/
def Obligations.AutomatonSteps : Prop :=
  (∀ who i b t s u row m, legalMask who i b s = .ok ((row, m, true), u) → bridleStep who i b t s = .ok ((1, b), u)) ∧
  (∀ who i b t s u row m, legalMask who i b s = .ok ((row, m, false), u) →
    let done (x : Bound) : Bound := { x with steps := (x.steps + 1) % 2 ^ 32, lasttok := t }
    (b.ended = true → m = 0) ∧
    (i.vocab ≤ t ∨ m / 2 ^ t % 2 = 0 → bridleStep who i b t s = .ok ((2, b), u)) ∧
    (t < i.vocab → m / 2 ^ t % 2 = 1 → t = i.eos → bridleStep who i b t s = .ok ((0, done { b with ended := true }), u)) ∧
    (∀ st w1 mask toff tcnt act0 nxt0, row = some [st, w1, mask, toff, tcnt, act0, nxt0, 0] →
      t < i.vocab → m / 2 ^ t % 2 = 1 → t ≠ i.eos →
      (i.ntrans < toff + tcnt → bridleStep who i b t s = .ok ((1, b), u)) ∧
      ∀ (es : List (List Byte)) w, toff + tcnt ≤ i.ntrans →
        ((List.range tcnt).mapM fun k => memLoad who none false (b.image + i.troff + 16 * (toff + k)) 16) u = .ok (es, w) →
        let hit := es.find? fun e => entryWord e 0 ≤ t && t ≤ entryWord e 1
        let act := (hit.map fun e => entryWord e 2).getD act0
        let nxt := (hit.map fun e => entryWord e 3).getD nxt0
        let sym := act / 2 ^ 16 % 2 ^ 16
        let sound := (∀ e ∈ es, entryMalformed e = false) ∧ act % 8 < 4 ∧ nxt < i.nstate ∧ (act % 8 = 1 ∨ act % 8 = 3 → sym < i.nsym)
        (¬ sound → bridleStep who i b t s = .ok ((1, b), w)) ∧
        (sound → act % 8 = 0 → bridleStep who i b t s = .ok ((0, done { b with state := nxt }), w)) ∧
        (sound → act % 8 = 1 → b.depth ≠ b.slim → bridleStep who i b t s =
          .ok ((0, done { b with state := nxt, stack := b.stack.take b.depth ++ [sym], depth := b.depth + 1 }), w)) ∧
        (sound → act % 8 = 1 → b.depth = b.slim → bridleStep who i b t s = .ok ((3, b), w)) ∧
        (sound → act % 8 = 2 → b.depth ≠ 0 → bridleStep who i b t s =
          .ok ((0, done { b with state := nxt, stack := b.stack.take (b.depth - 1), depth := b.depth - 1 }), w)) ∧
        (sound → act % 8 = 3 → b.depth ≠ 0 → bridleStep who i b t s =
          .ok ((0, done { b with state := nxt, stack := b.stack.take (b.depth - 1) ++ [sym] }), w)) ∧
        (sound → act % 8 = 2 ∨ act % 8 = 3 → b.depth = 0 → bridleStep who i b t s = .ok ((3, b), w))))

/-- The token that SARGMX gives (R397), and SAMPLE with K of 1: of the tokens that the mask allows, in rising order, and whose
logits are no NaN, one that no other exceeds and that every earlier one lies below; TKNIL and 0xFFFFFFFF where there is none,
NANL where a NaN was read. Neither draws. -/
def Obligations.GreedyTokens : Prop :=
  ∀ (d : SampleDesc) (contract lane counter : Nat) (legal : List (Nat × Nat)), (d.draws = false ∨ d.topk = 1) →
    (legal.map Prod.fst).Pairwise (· < ·) →
    let f : FF := if d.bf then .bf16 else .f32
    let v (x : Nat) : Val := f.read (vecFlush contract) x
    let r := sampleRow d contract lane counter legal
    r.drew = false ∧ (r.flags &&& gsNANL ≠ 0 ↔ ∃ p ∈ legal, (v p.2).isNan = true) ∧
    ((∀ p ∈ legal, (v p.2).isNan = true) → r.token = 0xFFFFFFFF ∧ r.flags &&& gsTKNIL ≠ 0) ∧
    ((∃ p ∈ legal, (v p.2).isNan = false) → r.flags &&& gsTKNIL = 0 ∧
      ∃ x, (r.token, x) ∈ legal ∧ (v x).isNan = false ∧ (∀ p ∈ legal, (v p.2).isNan = false → (v x).less (v p.2) = false) ∧
        (∀ p ∈ legal, p.1 < r.token → (v p.2).isNan = false → (v p.2).less (v x) = true))

/-- TKBEG, TKEND, TKWAIT and TKPASS issue (R410, R411): an operation outstanding with the key; TKWAIT, and a TKBEG that finds no
free record, suspend the slot until it is performed, and then the slot goes on. A ticket instruction is performed (R408 to
R411): the status it writes, and the chain records. Key k of the block's launch; `x` is its record. Passing and beginning
keep a record whose NXT names a block that has not exited. TICKET_RELEASE (R402): the earliest staged access of the head
block is performed as though it issued now, and leaves the reserve; what stood behind it alone, in any group of the block,
is held back no more (R124, R403). -/
def Obligations.Tickets : Prop :=
  (∀ i op f t, (i = .tkbeg f ∧ op = 0x388 ∧ t = .beg ∨ i = .tkend f ∧ op = 0x389 ∧ t = .fin ∨
       i = .tkwait f ∧ op = 0x38A ∧ t = .wait ∨ i = .tkpass f ∧ op = 0x38B ∧ t = .pass) → ∀ s c, Quiet s c →
     (∀ d a, Passes c (ticketPlan op f) [d, a] → c.sl.st = .running → c.h.streamCount f.q.toNat < 63 →
       let key : Word := BitVec.ofNat 32 (c.scalar a)
       let p := c.pend (clauseWord op f.bits) (orderY f .p0) allLanes [] (.ticket t key (((d.cells c.h.sup c.x [0]).head?).getD (.s 0)))
       let holds := t = .wait ∨ (t = .beg ∧ s.chainOf c.b key = none ∧ 256 ≤ s.chains.length)
       (¬ holds → exec i s = .next (s.outstandingNow c p op f.stl)) ∧
       (holds → exec i s = .next ((s.modGroup c.g fun h => { h with ser := h.ser + 1, pend := insertPend p h.pend }).modSlot c.g c.x
         fun sl => { sl with st := .atEvent (.ticket p.ser), since := s.fresh }))) ∧
     (∀ ser, c.sl.st = .atEvent (.ticket ser) →
       ((∀ p ∈ c.h.outstanding, p.ser ≠ ser) → exec i s = .next (s.onward c op f.stl (c.sl.pc + 8))) ∧
       ((∃ p ∈ c.h.outstanding, p.ser = ser) → exec i s = .next s))) ∧
  (∀ s g b h p t key d, s.issuer = .group g → s.block? g.bid = some b → b.groups[g.gid]? = some h →
     h.pend.find? (fun q => q.ser = p.ser) = some p → s.performable g p = true → p.body = .ticket t key d →
     p.scope = .device →
     ∃ (u : State) (k : Group) (st : Nat), exec (.accessPerform p.ser) s = .next u ∧ u.group? g = some k ∧ (∀ q ∈ k.pend, q.ser = p.ser → q.st = .passed) ∧
       ((∀ y w, d ≠ .exec y w) → h.wf = true → k.cell d = BitVec.ofNat 32 st) ∧ u.mem = s.mem ∧
       (s.chainOf b key = none →
         (t = .beg → st = 0) ∧ (t = .wait → st = 2) ∧ (t = .fin ∨ t = .pass → st = 5) ∧ (t ≠ .beg → u.chains = s.chains) ∧
         (t = .beg → ∀ o, s.blockAt b.lid b.node b.bseq = some o → o.place ≠ .exited → s.chainLives ⟨key, b.lid, b.node, b.bseq, false⟩ = true →
           u.chainOf b key = some ⟨key, b.lid, b.node, b.bseq, false⟩)) ∧
       (∀ x, s.chainOf b key = some x →
         (t = .beg → st = 4) ∧ (t = .wait → x.nxt = b.bseq → st = if x.implicit then 1 else 0) ∧
         (t = .wait → b.bseq < x.nxt → st = 3) ∧ (t = .wait → b.bseq ≤ x.nxt) ∧
         (t = .fin ∨ t = .pass → st = if x.nxt = b.bseq then 0 else 5) ∧
         (t = .beg ∨ t = .wait ∨ x.nxt ≠ b.bseq → u.chains = s.chains) ∧
         (t = .fin → x.nxt = b.bseq → u.chainOf b key = none) ∧
         (t = .pass → x.nxt = b.bseq → ∀ o, s.blockAt b.lid b.node (b.bseq + 1) = some o → o.place ≠ .exited →
           s.chainLives { x with nxt := b.bseq + 1 } = true → u.chainOf b key = some { x with nxt := b.bseq + 1, implicit := false }))) ∧
  (∀ s lid q bid b e r, s.issuer = .launch lid → s.headOf lid = some q →
     s.blocks.findIdx? (fun b => b.lid = lid && b.place ≠ .gone && b.node.isNone && b.bseq = q) = some bid → s.block? bid = some b → b.staged = e :: r → e ∉ r →
     exec .ticketRelease s = .next (s.releaseStaged bid e) ∧
     (∀ h p, b.groups[e.gid]? = some h → h.op? e.ser = some p →
       let t := ((s.modBlock bid fun b => { b with staged := r }).performAccs ⟨bid, e.gid⟩ p p.accs).dropOp ⟨bid, e.gid⟩ e.ser
       s.releaseStaged bid e = (t.modBlock bid fun b => { b with groups := b.groups.map fun h => h.shed e }).settleGrid lid))

/-! Time, queries, work graphs and collectives -/

/-- CONTQ, TWAIT and TWAIT_EXPIRY (R182, R423, R424): the eight words of the numeric behaviour record, zeros for a contract or a
format that has none, and that record's bytes; the wait for a tether time. Which trap CONTQ takes above the allotment is the
model's reading (log 49). -/
def Obligations.QueriesAndTime : Prop :=
  (∀ f s c r a b, Quiet s c → r < c.nS → Passes c ⟨clauseWord 0x38E f.bits, f.c = 0 && f.q = 0 && f.pm = 0 && ruOk f.ru 0b110, false,
      [Use.dst (Want.sreg 8) f.d, Use.src (Want.ssrc tB32) f.a, Use.src (Want.ssrc tB32) f.b], [], 0⟩ [.s r 8, a, b] →
    exec (.contq f) s = .next ((s.land c.g c.x (((Opnd.s r 8).cells c.h.sup c.x []).zip ((List.range 8).map fun w =>
      if 1 ≤ c.scalar a ∧ c.scalar a ≤ 6 ∧ c.scalar b ≤ 12 then
        BitVec.ofNat 32 (leNat (((recordBytes (c.scalar a) (c.scalar b)).drop (4 * w)).take 4))
      else 0))).onward c 0x38E f.stl (c.sl.pc + 8))) ∧
  (∀ f s c a, Quiet s c → c.sl.st = .running →
    Passes c ⟨clauseWord 0x38F f.bits, f.d = 0 && f.b = 0 && f.c = 0 && f.q = 0 && f.pm = 0 && ruOk f.ru 0b100, false,
      [Use.src (Want.sreg 2) f.a], [], 0⟩ [a] →
    exec (.twait f) s = .next (if c.scalar a ≤ s.time then s.onward c 0x38F f.stl (c.sl.pc + 8)
      else s.modSlot c.g c.x fun sl => { sl with st := .atEvent (.time (c.scalar a)), since := s.fresh })) ∧
  (∀ f s c t, Quiet s c → c.sl.st = .atEvent (.time t) → t ≤ s.time →
    exec (.twait f) s = .next (s.onward c 0x38F f.stl (c.sl.pc + 8))) ∧
  (∀ f s c t k, Quiet s c → c.sl.st = .atEvent (.time t) → t ≤ s.time → c.b.place = .resident → c.l.st = .running →
    c.sl.clause = some k → k.words[k.pos]? = some (clauseWord 0x38F (WordY.bits f)) →
    exec .twaitExpiry s = .next (s.onward c 0x38F f.stl (c.sl.pc + 8))) ∧
  (∀ k m, 1 ≤ k → k ≤ 6 → m ≤ 15 →
    let pick (l : List Nat) : Nat := (l[k - 1]?).getD 0
    let int : Bool := 7 ≤ m && m ≤ 10
    let aligned : Bool := m ≤ 6
    recordBytes k m = if 12 < m then List.replicate 32 0 else
      [1, BitVec.ofNat 8 k, BitVec.ofNat 8 m, if m = 12 then 64 else 32,
        if int then 0 else BitVec.ofNat 8 (pick [4, 8, 16, 32, 64, 256] % 256), if int then 0 else BitVec.ofNat 8 (pick [4, 8, 16, 32, 64, 256] / 256),
        if aligned then BitVec.ofNat 8 (pick [27, 27, 30]) else 0,
        if int then 0 else if 5 ≤ k then 3 else if aligned ∧ k ≤ 3 then 1 else 2,
        BitVec.ofNat 8 (pick [0, 0, 5, 7, 7, 7]), BitVec.ofNat 8 (pick [1, 1, 2, 2, 3, 3]), BitVec.ofNat 8 (pick [4, 2, 2, 1, 1, 1]),
        if 5 ≤ k then 1 else 0] ++ List.replicate 20 0)

/-- NEMIT (R437) and the gather timer (R438): NEMIT issues with one record for each lane of EXEC; when its walk finds every
record readable and the node with room, the records join the node's batches in lane order, and D receives their number in
its high half; a node that does not exist gives status 1. An open batch closes when its timer has run: its records lie in
its segment, in gather order. NEMIT without lanes is the model's reading (log 48). -/
def Obligations.WorkGraphs : Prop :=
  (∀ f s c d a b, Quiet s c → Passes c ⟨clauseWord 0x390 f.bits, f.c = 0 && ruOk f.ru 0b110, false,
      [Use.dst (Want.sreg 1) f.d, Use.src (Want.ssrc tB32) f.a, Use.src (Want.vreg 2) f.b], c.maskCells 7, c.exec⟩ [d, a, b] →
    c.h.streamCount f.q.toNat < 63 →
    let recs := (laneList c.exec).map fun j => (j, c.lane b j)
    let size := ((c.l.nodes[c.scalar a]?).map Node.rsz).getD 0
    exec (.nemit f) s = .next (s.walking c (c.pend (clauseWord 0x390 f.bits) (orderY f .p0) c.exec
      (recs.map fun r => lanePart r.1 r.2 size [] 0 0 false)
      (.emit (c.scalar a) (((d.cells c.h.sup c.x [0]).head?).getD (.s 0)) recs)))) ∧
  (∀ (s : State) (c : Ctx) (p : Pend) node d recs, c.l.nodes[node]? = none → s.runEmit c p node d recs = .ok (s.land c.g p.slot [(d, 1)]) none) ∧
  (∀ (s : State) (c : Ctx) (p : Pend) node (n : Node) d (recs : List (Nat × Nat)) (u : State) (bs : List (List Byte)), c.l.nodes[node]? = some n → bs.length = recs.length →
    runLanes Prod.fst (fun r => do aligned 8 r.2; memLoad (s.whoGroup c.g) none false r.2 n.rsz) recs s = (u, [], recs.zip bs) →
    s.canPlace c.b.lid node recs.length = true → (bs.foldl (fun t r => t.placeRecord c.b.lid node r) u).rootDone c.b.lid = false →
    s.runEmit c p node d recs = .ok ((bs.foldl (fun t r => t.placeRecord c.b.lid node r) u).land c.g p.slot
      [(d, BitVec.ofNat 32 (recs.length * 2 ^ 16))]) none) ∧
  (∀ s lid l node n g b, s.issuer = .launch lid → s.launches[lid]? = some l → l.nodes[node]? = some n → l.gathers[node]? = some g →
    g.current = some b → l.st = .running → b.opened + 1000 * (if n.timer = 0 then 8 else n.timer) ≤ s.time → s.mem.wf = true →
    ∃ (t : State) (l' : Launch) (g' : Gather), exec (.nodeGatherTimer node) s = .next t ∧ t.launches[lid]? = some l' ∧
      l'.gathers[node]? = some g' ∧ g'.current = none ∧ g'.closed = g.closed ++ [(g.count, b)] ∧ g'.count = g.count + 1 ∧
      (∀ (k : Nat) v, b.recs.flatten[k]? = some v → t.mem.byte (n.buf + 96 * n.rsz * b.segment + k) = v) ∧
      (∀ x, (x < n.buf + 96 * n.rsz * b.segment ∨ n.buf + 96 * n.rsz * b.segment + b.recs.flatten.length ≤ x) → t.mem.byte x = s.mem.byte x) ∧
      (∀ k, k ≠ node → l'.gathers[k]? = l.gathers[k]?))

/-- CLLRED and CLLQRY (R416 to R418, R422). An accepted step takes the communicator's next number, which D receives, and is
outstanding on P3; a handle that names no communicator gives 0xFFFFFFFF and no step. CLLQRY writes what the communicator
says of a step, and 0 for such a handle. That upper bits of the handle's operand raise ILLOP rests on log 50. -/
def Obligations.CollectiveInstructions : Prop :=
  (∀ f s c d b ci m, Quiet s c →
    let r := RedDesc.ofScalars (c.scalar b)
    s.comms.findIdx? (fun k => k.live && k.vif = c.l.vif && k.handle = r.comm) = some ci → s.comms[ci]? = some m →
    Passes c ⟨clauseWord 0x38C f.bits, f.a = 0 && f.c = 0 && ruOk f.ru 0b010 && reductionFits r m.nrank, false,
      [Use.dst (Want.sreg 1) f.d, Use.src (Want.sreg 8) f.b], [], 0⟩ [d, b] →
    r.src % redWidth r.ty = 0 → r.dst % redWidth r.ty = 0 → (m.steps.filter RedStep.inFlight).length < 16 →
    c.h.streamCount f.q.toNat < 63 →
    ∃ (t : State) (m' : Comm) (h : Group) (k : RedStep), exec (.cllred f) s = .next t ∧ t.comms[ci]? = some m' ∧
      t.group? c.g = some h ∧ m'.nextStep = (m.nextStep + 1) % 2 ^ 31 ∧ k ∈ m'.steps ∧ k.k = m.nextStep ∧ k.owner = c.g ∧
      k.src = r.src ∧ k.dst = r.dst ∧ k.count = r.count ∧ k.op = r.op ∧ k.ty = r.ty ∧ k.kind = r.kind ∧ k.st = .armed ∧
      k.timed = (if r.timed then some r.time else none) ∧ h.ser = c.h.ser + 1 ∧ (h.slot c.x).pc = c.sl.pc + 8 ∧
      (∃ p ∈ h.pend, p.ser = c.h.ser ∧ p.body = .step m.handle m.nextStep ∧ p.path = .p3 ∧ p.q = some f.q.toNat) ∧
      (∀ x ∈ d.cells c.h.sup c.x [], (∀ y w, x ≠ .exec y w) → c.h.wf = true → h.cell x = BitVec.ofNat 32 m.nextStep) ∧ t.mem = s.mem) ∧
  (∀ f s c d b, Quiet s c →
    let r := RedDesc.ofScalars (c.scalar b)
    s.commOf c.l.vif r.comm = none → r.kind = 0 →
    Passes c ⟨clauseWord 0x38C f.bits, f.a = 0 && f.c = 0 && ruOk f.ru 0b010 && reductionFits r 1, false,
      [Use.dst (Want.sreg 1) f.d, Use.src (Want.sreg 8) f.b], [], 0⟩ [d, b] →
    r.src % redWidth r.ty = 0 → r.dst % redWidth r.ty = 0 →
    exec (.cllred f) s = .next ((s.land c.g c.x ((d.cells c.h.sup c.x []).zip [0xFFFFFFFF])).onward c 0x38C f.stl (c.sl.pc + 8))) ∧
  (∀ f s c d a b, Quiet s c →
    Passes c ⟨clauseWord 0x38D f.bits, f.c = 0 && f.q = 0 && f.pm = 0 && ruOk f.ru 0b110 && (c.scalar a < 2 ^ 16), false,
      [Use.dst (Want.sreg 2) f.d, Use.src (Want.ssrc tB32) f.a, Use.src (Want.ssrc tB32) f.b], [], 0⟩ [d, a, b] →
    exec (.cllqry f) s = .next ((s.land c.g c.x ((d.cells c.h.sup c.x []).zip
      (match (s.comms.findIdx? (fun k => k.live && k.vif = c.l.vif && k.handle = c.scalar a)).bind fun k => s.comms[k]? with
       | none => [0, 0]
       | some m =>
         let st := match m.steps.reverse.find? fun t => t.k = c.scalar b with
           | none => 0
           | some t => 256 * (match t.st with | .armed => 1 | .running => 2 | .done => 3 | .failed => 4) + 4096 * t.cause +
               (if t.late then 65536 else 0) + (if t.cmixs then 131072 else 0)
         [BitVec.ofNat 32 (m.agreed + st),
          BitVec.ofNat 32 (match m.steps.find? RedStep.inFlight with | some t => t.k | none => m.nextStep)]))).onward c
            0x38D f.stl (c.sl.pc + 8)))

/-- REDUCTION_STEP_RUN (R418 to R421) of an all-reduce by sum, untimed, that every rank has offered alike: this rank's
destination receives, element for element, the sum of R181 over the ranks in their order, and the step is done. Stated for
destinations of distinct bytes of ordinary memory, in a launch without snapshots. A sum across ranks (R181): under contracts
5 and 6 the rounding of the exact sum; under contracts 1 to 4 that of the last value of a tree of sums, each rounded to f32,
or to f64 for f64 elements. The events of a tether (R421, R459, R461): an unreachable member fails every step in flight of
the communicator with LINK, an abort of a step, in flight here or ended, fails it with ABORT and kills the launch that
issued it here (stated for one that is not rolled back); and the signal of a lost or regained synchronisation. That a step
reads every source before it writes, and what STEP_ABORT kills, is the model's reading (logs 53, 54). -/
def Obligations.ReductionsAndTether : Prop :=
  (∀ s ci m t b h offers sp dp, s.issuer = .comm ci → s.comms[ci]? = some m →
     m.steps.find? (fun x => x.k = t.k && x.inFlight) = some t → s.block? t.owner.bid = some b →
     s.group? t.owner = some h → b.copyEdgesMet t.owner.gid h t.ser = true → t.st = .armed → s.stepBehind m t = false →
     t.timed = none → t.op = 0 → t.kind = 0 → m.rank < m.nrank → s.redAccess m t = .inr (sp, dp) →
     offers.map PeerOffer.rank = (List.range m.nrank).filter (fun r => r ≠ m.rank) →
     (∀ o ∈ offers, o.op = t.op ∧ o.ty = t.ty ∧ o.kind = t.kind ∧ o.count = t.count ∧ o.cause = 0 ∧
       o.bytes.length = t.count * redWidth t.ty) →
     (∀ u ∈ sp.uses ++ dp.uses, ∀ e, u.leaf = some e → leafA e.1 = true ∧ leafD e.1 = true) → dp.pas.Nodup → s.poison = [] →
     (∀ l, s.launches[t.lid]? = some l → l.snap = false) → s.mem.wf = true → sp.mism = false → dp.mism = false → b.reserveTouches (fun _ => true) dp.pas = false →
     (∀ x ∈ sp.pas ++ dp.pas, isCap x = false ∧ x < firmwareKey 0) → redWidth t.ty ∈ [2, 4, 8] →
     ∃ (u : State) (m' : Comm), exec (.reductionStepRun t.k offers) s = .next u ∧ u.comms[ci]? = some m' ∧
       (∃ x ∈ m'.steps, x.k = t.k ∧ x.st = .done ∧ x.cause = 0 ∧ x.late = (t.set && t.late)) ∧
       (∀ k, u.group? t.owner = some k → ∀ p ∈ k.pend, p.ser ≠ t.ser) ∧
       (∀ y, y ∉ dp.pas → isCap y = false → u.physByte y = s.physByte y) ∧
       (∀ i j (y : Nat), i < t.count → j < redWidth t.ty → dp.pas[i * redWidth t.ty + j]? = some y →
         let w := redWidth t.ty
         let elem (bs : List Byte) : Nat := leNat ((bs.drop (i * w)).take w)
         let vs := (List.range m.nrank).map fun r =>
           match offers.find? fun o => o.rank = r with
           | some o => elem o.bytes
           | none => elem (sp.pas.map s.physByte)
         u.physByte y = BitVec.ofNat 8 ((match ffOf t.ty with
           | some f => collectiveSum m.agreed f vs
           | none => vs.sum % 2 ^ (8 * w)) / 256 ^ j))) ∧
  (∀ (k : Nat) (e : FF) (vs : List Nat), vs ≠ [] → 1 ≤ k → k ≤ 6 →
     let ins := vs.map (e.read (decide (k ≤ 2)))
     (5 ≤ k → collectiveSum k e vs = (roundedTo e .rne false (Val.sum ins) false).enc) ∧
     (k ≤ 4 → ∃ (rounds : List (List Val)) (v : Val), rounds.head? = some ins ∧ rounds.getLast? = some [v] ∧
       (∀ (i : Nat) x y, rounds[i]? = some x → rounds[i + 1]? = some y →
         PairedUp (if e = .f64 then .f64 else .f32) (decide (k ≤ 3)) x y) ∧
       collectiveSum k e vs = (roundedTo e .rne (decide (k ≤ 3)) v false).enc)) ∧
  ((∀ s ci m, s.issuer = .comm ci → s.comms[ci]? = some m →
     ∃ (t : State) (m' : Comm), exec .tetherMemberLost s = .next t ∧ t.comms[ci]? = some m' ∧
       m'.steps = m.steps.map (fun x => if x.inFlight then { x with st := .failed, cause := 4 } else x) ∧ t.mem = s.mem) ∧
   (∀ s ci m n k l, s.issuer = .comm ci → s.comms[ci]? = some m → s.launches[n]? = some l → l.live = true → l.snap = false →
     l.vif = m.vif → (m.handle, k) ∈ l.steps → s.atCompletion n l = false →
     (∀ j l', j ≠ n → s.launches[j]? = some l' → (m.handle, k) ∉ l'.steps) →
     ∃ (t : State) (m' : Comm) (l' : Launch), exec (.stepAbort k) s = .next t ∧ t.comms[ci]? = some m' ∧
       m'.steps.length = m.steps.length ∧ (∀ y ∈ m'.steps, y.k = k → y.inFlight = false) ∧
       (∀ (j : Nat) x, m.steps[j]? = some x → x.k = k → x.inFlight = true →
         ∃ y, m'.steps[j]? = some y ∧ y.k = k ∧ y.st = .failed ∧ y.cause = 7) ∧
       t.launches[n]? = some l' ∧ l'.st = .killed) ∧
   (∀ s, s.issuer = .device → exec .tetherSyncLost s = .next { s with tsync := false } ∧
     exec .tetherSyncRegained s = .next { s with tsync := true }))

/-! Admission and scheduling -/

/-- BLOCK_ADMIT (R29, R37 to R39, R344, R434, R438): a candidate that may be admitted and fits on the core becomes a block
there: the next block of a launch's grid, the first one included, or the oldest closed batch of a node. Its groups start as
R434 and R438 say and enter the pending set; its sequencer starts with ARGS, BSEQ, the block identifier and NGRP in h0 to
h3. Before its first block a launch is refused with BADRCB when its RCB cannot be read, with NOFIT when a block of it does
not fit under the RCBs as they are then, and with GBNOBAL when a GRIDBAR launch has too little ballast (R68, R72). The block
identifiers of row-major and column-major traversal (R36): over the BSEQs of a launch every block of the grid comes exactly
once. Slots and offset of the share, its zeros, and the tiles that are charged are the model's choice (logs 20, 70, 73). -/
def Obligations.BlocksAdmitted : Prop :=
  ((∀ s u lid core l b n slots off, s.issuer = .device → s.launches[lid]? = some l → l.st = .running → AdmitsFrom s u l →
     u.mayAdmit (.first (.grid lid)) = true → u.fit (.first (.grid lid)) core = some (l, b, n, slots, off) →
     core < s.cores.length →
     ∃ (t : State) (b' : Block) (l' : Launch) (k : Core), exec (.blockAdmit (.grid lid) core) s = .next t ∧
       t.block? s.blocks.length = some b' ∧ t.launches[lid]? = some l' ∧ t.cores[core]? = some k ∧
       b'.lid = lid ∧ b'.bseq = l.nextBseq ∧ (b'.bx, b'.by_, b'.bz) = l.blockId l.nextBseq ∧ b'.core = core ∧ b'.place = .resident ∧
       b'.slots = slots ∧ b'.shareOff = off ∧ b'.groups.length = l.ngrp ∧ (∀ h ∈ b'.groups, StartsFresh l h) ∧
       b'.bars = List.replicate 15 ⟨0, 0, [], 0, 0⟩ ∧ b'.tiles = [] ∧ l'.nextBseq = l.nextBseq + 1 ∧
       (∀ gid < l.ngrp, (⟨s.blocks.length, gid⟩, s.time) ∈ k.pending) ∧
       (∀ pc, l.mseqPc = some pc → ∃ q, b'.seqr = some q ∧ q.pc = pc ∧ q.ended = false ∧ assocGet 0 q.h 0 = l.args ∧
         assocGet 0 q.h 1 = BitVec.ofNat 64 l.nextBseq ∧
         assocGet 0 q.h 2 = BitVec.ofNat 64 (b'.bx + 2 ^ 16 * b'.by_ + 2 ^ 32 * b'.bz) ∧ assocGet 0 q.h 3 = BitVec.ofNat 64 l.ngrp ∧
         ∀ r, 4 ≤ r → assocGet 0 q.h r = 0) ∧
       (∀ i, i < s.blocks.length → t.block? i = s.block? i)) ∧
   (∀ s lid node core l n g seq batch closed b cnt slots off, s.issuer = .device → s.launches[lid]? = some l → l.st = .running →
     l.nodes[node]? = some n → l.gathers[node]? = some g → g.closed = (seq, batch) :: closed →
     s.mayAdmit (.first (.batch lid node)) = true → s.fit (.first (.batch lid node)) core = some (l, b, cnt, slots, off) →
     core < s.cores.length →
     ∃ (t : State) (b' : Block) (l' : Launch) (g' : Gather) (k : Core) (h : Group),
       exec (.blockAdmit (.batch lid node) core) s = .next t ∧
       t.block? s.blocks.length = some b' ∧ t.launches[lid]? = some l' ∧ l'.gathers[node]? = some g' ∧ t.cores[core]? = some k ∧
       b'.lid = lid ∧ b'.node = some node ∧ b'.segment = batch.segment ∧ b'.bseq = seq ∧ b'.core = core ∧ b'.place = .resident ∧
       b'.slots = slots ∧ b'.shareOff = off ∧ b'.groups = [h] ∧ BatchFresh l n batch.segment batch.recs.length h ∧
       g'.closed = closed ∧ l'.nextBseq = l.nextBseq ∧ (⟨s.blocks.length, 0⟩, s.time) ∈ k.pending ∧
       (∀ i, i < s.blocks.length → t.block? i = s.block? i)) ∧
   (∀ s lid core l, s.issuer = .device → s.launches[lid]? = some l → l.st = .running → l.nextBseq = 0 →
     (s.launchPath l.vif l.rcb = none → exec (.blockAdmit (.grid lid) core) s = .next (s.refuseLaunch lid 4)) ∧
     (∀ path e, s.launchPath l.vif l.rcb = some path → (s.keepRcbs path).effOf l = some e →
       ((¬ l.need.fits (s.keepRcbs path) e = true ∨ ∃ n ∈ l.nodes, ¬ n.need.fits (s.keepRcbs path) e = true) →
         exec (.blockAdmit (.grid lid) core) s = .next ((s.keepRcbs path).refuseLaunch lid 5)) ∧
       (l.need.fits (s.keepRcbs path) e = true → (∀ n ∈ l.nodes, n.need.fits (s.keepRcbs path) e = true) →
         l.gridbar = true → e.balsize < l.need.gridBallast e (l.gx * l.gy * l.gz) →
         exec (.blockAdmit (.grid lid) core) s = .next ((s.keepRcbs path).refuseLaunch lid 6))))) ∧
  (∀ (l : Launch), (l.trav = 0 ∨ l.trav = 1) → 0 < l.gx → 0 < l.gy →
     (∀ k, k < l.gx * l.gy * l.gz → let p := l.blockId k; p.1 < l.gx ∧ p.2.1 < l.gy ∧ p.2.2 < l.gz) ∧
     (∀ j k, j < l.gx * l.gy * l.gz → k < l.gx * l.gy * l.gz → l.blockId j = l.blockId k → j = k))

/-- PENDING_TO_ACTIVE and ACTIVE_SET_EXCHANGE (R48, R49, R52): into an active set with room the oldest ready pending group
enters; a full one gives up the group that entered it first to the ready group that has waited longest, 32 clk at least, and
32 clk after the last exchange; a set of eight takes no further group from PENDING_TO_ACTIVE, so that neither event makes a
set larger than eight. CORE_RETIRE and PARKED_FAULT_RETRY (R23, R259, R448): a retired core's bit is set; a parked fault is
tried again once every PARKT and after its page has been mapped from a pool, once the fault records that wait have gone to
rings with room; a parked fetch goes on when its page is there. Which of two groups that have waited equally long is
exchanged, and the moments of a retry, are the model's reading (logs 58, 72). -/
def Obligations.CoreScheduling : Prop :=
  ((∀ s c k g t, s.issuer = .core c → s.cores[c]? = some k → k.active.length < 8 → (g, t) ∈ k.pending →
     s.groupReady g = true → s.isResident g = true →
     (∀ q ∈ k.pending, s.groupReady q.1 = true → s.isResident q.1 = true → q.1 ≠ g → olderAge (s.groupAge g) (s.groupAge q.1) = true) →
     exec .pendingToActive s = .next (s.modCore c fun k =>
       { k with active := k.active ++ [g], pending := k.pending.filter fun q => q.1 ≠ g })) ∧
   (∀ s c k out rest g t, s.issuer = .core c → s.cores[c]? = some k → k.active = out :: rest → k.active.length = 8 →
     k.lastExchange + 26 ≤ s.time → (g, t) ∈ k.pending → s.groupReady g = true → s.isResident g = true → t + 26 ≤ s.time →
     (∀ q ∈ k.pending, s.groupReady q.1 = true → s.isResident q.1 = true → q ≠ (g, t) → t < q.2) →
     exec .activeSetExchange s = .next (s.modCore c fun k =>
       { k with
         active := rest ++ [g]
         pending := (k.pending.filter fun q => q.1 ≠ g) ++ [(out, s.time)]
         lastExchange := s.time })) ∧
   (∀ s c k, s.issuer = .core c → s.cores[c]? = some k → 8 ≤ k.active.length → exec .pendingToActive s = .next s) ∧
   (∀ i s t, (i = .pendingToActive ∨ i = .activeSetExchange) → (∀ k ∈ s.cores, k.active.length ≤ 8) → exec i s = .next t →
     ∀ k ∈ t.cores, k.active.length ≤ 8)) ∧
  ((∀ s c, s.issuer = .core c → c < s.part.ncore →
     exec .coreRetire s = .next { s with cretire := s.cretire ||| BitVec.ofNat 256 (2 ^ c) }) ∧
   (∀ s u p, s.issuer = .device → u = s.flushAll →
     ((∃ t, u.parkedSince p = some t ∧ t + ((u.launches[u.parkedLid p]?).map u.parkTicks).getD 0 ≤ u.time) ∨ u.poolMapped p = true) →
     exec (.parkedFaultRetry p) s = .next (u.retry p)) ∧
   (∀ (s : State) g x c pk, s.isResident g = true → s.ctxOf g x = some c → c.sl.park = some pk → pk.why = .fetch →
     (∀ f, s.translate (s.whoGroup g) Need.fetch pk.va = .inl f → f ≠ .absent ∧ f ≠ .firstTouch) →
     s.retry (.slot g x) = s.modSlot g x fun sl => { sl with park := none }))

/-- BLOCK_SWAP_OUT and PARKT_EXPIRY (R55 to R57, R60): the block leaves its core for the reason at hand, every group parked, the
grid barrier, a wound, or a group parked for PARKT. Once nothing of it is in flight and its image has room, its share's
bytes are kept with its registers, and its groups are in no set of a core. BLOCK_READMIT (R39, R62): a swapped block that is
ready and may be admitted comes to a core with room; its share's bytes stand at its new place, its registers, tiles and
barriers are as they were saved, and its groups enter the pending set. The size of an image with faulted accesses, when a
wounded block is ready, and when held accesses are translated again are the model's reading (logs 16, 55, 57). -/
def Obligations.BlockSwaps : Prop :=
  ((∀ s bid b why, s.issuer = .block bid → s.block? bid = some b → s.swapCause b = some why →
     exec .blockSwapOut s = .next (s.swapOut bid why)) ∧
   (∀ s g b h l t, s.issuer = .group g → s.group? g = some h → s.block? g.bid = some b → s.launchOf g.bid = some l →
     h.parkedSince = some t → t + s.parkTicks l ≤ s.time →
     exec .parktExpiry s = .next (s.swapOut g.bid ((s.swapCause b).getD .parked))) ∧
   (∀ (s : State) (b : Block), b.place = .resident → b.wants ≠ 0 → b.tilesHeld ≠ 0 → s.wounders b ≠ [] → s.swapCause b = some .wound) ∧
   (∀ (s : State) bid (b : Block) why l u, s.block? bid = some b → b.place = .resident → s.shareInUse bid b = false → b.idleOps → s.noChunk →
     b.seqr = none → b.parts = [] → s.launches[b.lid]? = some l → l.st = .running → s.swapRoom l bid b = some u → s.mem.wf = true →
     ∃ b', (s.swapOut bid why).block? bid = some b' ∧ b'.place = .swapped why ∧
       (∀ k, k < b.shareLen → b'.savedShare.byte k = s.mem.byte (shareAddr b 0 + k)) ∧
       b'.groups.map (fun h => (h.s, h.sb, h.v, h.vb, h.ix, h.xa, h.slotA.pc, h.slotA.exec, h.slotB.pc, h.slotB.exec)) =
         b.groups.map (fun h => (h.s, h.sb, h.v, h.vb, h.ix, h.xa, h.slotA.pc, h.slotA.exec, h.slotB.pc, h.slotB.exec)) ∧
       b'.bars = b.bars ∧ b'.tiles = b.tiles ∧
       (∀ k ∈ (s.swapOut bid why).cores, ∀ g ∈ k.active ++ k.pending.map Prod.fst, g.bid ≠ bid))) ∧
  ((∀ s bid core b, s.issuer = .block bid → s.block? bid = some b → s.readyBack bid b = true → s.mayAdmit (.again bid) = true →
     exec (.blockReadmit core) s = .next (s.readmit bid core)) ∧
   (∀ (s : State) bid core (b : Block) why l b0 n slots off, s.block? bid = some b → b.place = .swapped why →
     s.fit (.again bid) core = some (l, b0, n, slots, off) → b.idleOps → s.mem.wf = true → b.savedShare.wf = true →
     (∀ x ∈ b.savedShare, x.1 < b.shareLen) → core < s.cores.length →
     (∀ r ∈ s.pathOf l.rcb, r.addr + 256 ≤ sheetBase) → (∀ o ∈ s.blocks, ∀ u ∈ o.undelivered, u.member ≠ bid) →
     ∃ (b' : Block) (k : Core), (s.readmit bid core).block? bid = some b' ∧ b'.place = .resident ∧ b'.core = core ∧ b'.slots = slots ∧
       b'.shareOff = off ∧ (∀ k, k < b.shareLen → (s.readmit bid core).mem.byte (shareAddr b' 0 + k) = b.savedShare.byte k) ∧
       b'.groups.map (fun h => (h.s, h.sb, h.v, h.vb, h.ix, h.xa, h.slotA.pc, h.slotA.exec, h.slotB.pc, h.slotB.exec)) =
         b.groups.map (fun h => (h.s, h.sb, h.v, h.vb, h.ix, h.xa, h.slotA.pc, h.slotA.exec, h.slotB.pc, h.slotB.exec)) ∧
       b'.bars = b.bars ∧ b'.tiles = b.tiles ∧ (s.readmit bid core).cores[core]? = some k ∧
       (∀ (gid : Nat) h, b.groups[gid]? = some h → h.exited = false → (⟨bid, gid⟩, s.time) ∈ k.pending)))

/-- PREEMPT and QUANTUM_EXPIRY (R440 to R442): cores of one partition, each with the same other partition in its gondola or with
none, change places with their gondolas, when a launch of another interface that needs all of them has a higher effective
priority than every launch that runs on them, when nothing runs on them any more, or, for the cores of an interface that
hold the same partition, when the interface's quantum has run out and a group of a gondola is ready. Stated for blocks with
nothing in flight. The return of a gondola to empty cores is the model's reading (log 59). -/
def Obligations.Preemption : Prop :=
  (∀ s c cs v lid l, s.issuer = .device → MayChange s (c :: cs) → s.ownerOf c = some v → s.launches[lid]? = some l →
    l.st = .running → l.vif ≠ v → (∀ k ∈ c :: cs, NeedsCore s lid k) →
    (∀ b ∈ s.blocks, b.core ∈ c :: cs → b.place = .resident → ∀ m, s.launches[b.lid]? = some m → s.prioOf m < s.prioOf l) →
    (∀ k ∈ c :: cs, s.ownerOf k = some v ∧ (s.gondolaOf k = none ∨ s.gondolaOf k = (c :: cs).findSome? s.gondolaOf)) →
    ∃ t, exec (.preempt (c :: cs)) s = .next t ∧ ChangedPlaces s t (c :: cs) ((c :: cs).findSome? s.gondolaOf)) ∧
  (∀ s c cs v, s.issuer = .device → MayChange s (c :: cs) → (∀ k ∈ c :: cs, s.ownerOf k = none ∧ s.gondolaOf k = some v) →
    ∃ t, exec (.preempt (c :: cs)) s = .next t ∧ ChangedPlaces s t (c :: cs) (some v)) ∧
  (∀ s v w cores into, s.issuer = .host v → s.vifs[v]? = some w → w.quantum ≠ 0 → w.sliceStart + 1000 * w.quantum ≤ s.time →
    into = ((List.range s.part.ncore).filter fun c => s.ownerOf c = some v && (s.gondolaOf c).isSome).findSome? s.gondolaOf →
    cores = (List.range s.part.ncore).filter (fun c => s.ownerOf c = some v && (s.gondolaOf c).isSome && (s.gondolaOf c = into)) →
    MayChange s cores →
    (∃ c ∈ cores, ∃ k bid b gid, s.cores[c]? = some k ∧ bid ∈ k.gondola ∧ s.block? bid = some b ∧ gid < b.groups.length ∧
      s.groupReady ⟨bid, gid⟩ = true) →
    ∃ t, exec .quantumExpiry s = .next t ∧ ChangedPlaces s t cores into)

/-! Queues and commands -/

/-- A completion record (R430): STATUS with the code, the cause and LATE, AUX, and VALUE; nothing else of memory changes.
SIGNAL, WAIT, QUANTUM, FAULTQ and RESUME, an entry of no known command, and one with a reserved bit set (R428, R441, R448):
what each does, and its completion. WAIT starts a command that completes once the record's VALUE has reached ARG1. BADCMD
for unusable ranges, and the full test of a fault ring, are the model's choice (logs 23, 26). -/
def Obligations.CommandsAndRecords : Prop :=
  (∀ (s : State) (sg : SignalRef) (code cause aux : Nat) (late : Bool), s.mem.wf = true → code < 256 → cause < 256 → aux < 2 ^ 32 →
     sg.addr ≠ 0 → sg.addr % 16 = 0 → s.poison = [] → (sg.addr + 16 ≤ s.part.dcap ∨ (isSystem sg.addr = true ∧ isSystem (sg.addr + 15) = true)) →
     let t := s.complete sg code cause late aux
     t.mem.num sg.addr 4 = code + 2 ^ 8 * cause + (if late then 2 ^ 16 else 0) ∧ t.mem.num (sg.addr + 4) 4 = aux ∧
     t.mem.num (sg.addr + 8) 8 = sg.value.toNat ∧ (∀ x, (x < sg.addr ∨ sg.addr + 16 ≤ x) → t.mem.byte x = s.mem.byte x) ∧
     t = { s with mem := t.mem }) ∧
  ((∀ s i q fl a0 a1 a2 sg, QueueTurn s i q 3 fl a0 a1 a2 sg → exec .signal s = .next ((s.entryRead i q).complete sg 0 0 false 0)) ∧
   (∀ s i q opc fl a0 a1 a2 sg, QueueTurn s i q opc fl a0 a1 a2 sg → (opc = 0 ∨ 13 < opc) →
     exec .signal s = .next ((s.entryRead i q).complete sg 0x0C 0 false 0)) ∧
   (∀ s i q fl a0 a1 a2 sg, QueueTurn s i q 2 fl a0 a1 a2 sg → s.recordOk a0 = true →
     exec .wait s = .next { s.entryRead i q with cmds := s.cmds ++ [q.started 2 a0 a1 a2 sg] }) ∧
   (∀ s v c, s.issuer = .host v → s.cmds.find? (fun c => c.vif = v && c.opc = 2 && decide (c.arg1 ≤ s.numAt (c.arg0 + 8) 8)) = some c →
     exec .waitSatisfied s = .next (State.complete { s with cmds := s.cmds.filter (· ≠ c) } c.signal 0 0 false 0)) ∧
   (∀ s i q fl a0 a1 a2 sg, QueueTurn s i q 13 fl a0 a1 a2 sg →
     exec .quantum s = .next (((s.entryRead i q).modVif q.vif fun v => { v with quantum := a0 }).complete sg 0 0 false 0)) ∧
   (∀ s i q fl a0 a1 a2 sg k, QueueTurn s i q 12 fl a0 a1 a2 sg → a1 = 2 ^ k →
     (a0 + 32 * a1 ≤ s.part.dcap ∨ (isSystem a0 = true ∧ isSystem (a0 + 32 * a1 - 1) = true)) →
     exec .faultq s = .next (State.complete (State.flushFaults ((s.entryRead i q).modVif q.vif fun v =>
       { v with faultRing := some (a0, a1), fseq := 0 }) q.vif) sg 0 0 false 0)) ∧
   (∀ s i q fl a0 a1 a2 sg, QueueTurn s i q 9 fl a0 a1 a2 sg →
     exec .resume s = .next (((s.entryRead i q).resumeRange (a0 % 256) a1 a2).complete sg 0 0 false 0)))

/-- RCBSYNC, POOL and ASIDSET (R29, R242, R428, R448): the region's nodes are read again; a pool of whole pages of DRAM is
attached; the address-space table has its entry at once, and the command completes when no access uses a translation that
its TLBI removes. Of an RCB that is not under the interface's root, and of an ASID that is not its own, the code is BADRCB.
LOAD and UNLOAD (R445 to R447): what the object's loading gives, its handle in AUX; a handle that is not loaded is BADCODE;
an object that a launch uses goes when none does. BADCMD for unusable ranges and the DRAM that firmware takes are the
model's choice (logs 17, 26). -/
def Obligations.RegionAndCodeCommands : Prop :=
  ((∀ s i q fl a0 a1 a2 sg, QueueTurn s i q 6 fl a0 a1 a2 sg →
     exec .rcbsync s = .next (match (s.entryRead i q).pathUnder q.vif a0 with
       | none => (s.entryRead i q).complete sg 4 0 false 0
       | some path => ((s.entryRead i q).keepRcbs path).complete sg 0 0 false 0)) ∧
   (∀ s i q fl a0 a1 a2 sg path, QueueTurn s i q 8 fl a0 a1 a2 sg → (s.entryRead i q).pathUnder q.vif a0 = some path →
     a1 % 4096 = 0 → a2 % 4096 = 0 → a1 + a2 ≤ s.part.dcap →
     exec .pool s = .next (State.complete { s.entryRead i q with pools := s.pools ++ [⟨a0, a1, a2, []⟩] } sg 0 0 false 0)) ∧
   (∀ s i q fl a0 a1 a2 sg, QueueTurn s i q 8 fl a0 a1 a2 sg → (s.entryRead i q).pathUnder q.vif a0 = none →
     exec .pool s = .next ((s.entryRead i q).complete sg 4 0 false 0)) ∧
   (∀ s i q fl a0 a1 a2 sg, QueueTurn s i q 7 fl a0 a1 a2 sg →
     let asid := a0 % 256
     let t : State := { s.entryRead i q with asids := if a1 = 0 then assocDel s.asids asid else assocPut s.asids asid a1 }
     (s.ownsAsid q.vif asid = false → exec .asidset s = .next ((s.entryRead i q).complete sg 4 0 false 0)) ∧
     (s.ownsAsid q.vif asid = true → a1 % 4096 = 0 → a1 + 4096 ≤ s.part.dcap →
       (t.asidFree asid = true → exec .asidset s = .next ((t.invalidate 4 asid 0 none).complete sg 0 0 false 0)) ∧
       (t.asidFree asid = false → exec .asidset s = .next { t with cmds := s.cmds ++ [q.started 7 a0 a1 a2 sg] }))) ∧
   (∀ s v c, s.issuer = .host v → s.cmds.find? (fun c => c.vif = v && c.opc = 7 && s.asidFree (c.arg0 % 256)) = some c →
     exec .asidset s = .next (State.complete { s.invalidate 4 (c.arg0 % 256) 0 none with cmds := s.cmds.filter (· ≠ c) } c.signal 0 0 false 0)) ∧
   (∀ (s : State) (asid : Nat) (e : TlbEntry), e ∈ (s.invalidate 4 asid 0 none).tlb ↔ e ∈ s.tlb ∧ e.asid ≠ asid ∧ e.global = false)) ∧
  ((∀ s i q fl a0 a1 a2 sg, QueueTurn s i q 4 fl a0 a1 a2 sg →
     let t := s.entryRead i q
     (s.ownsAsid q.vif (a2 % 256) = false → exec .load s = .next (t.complete sg 4 0 false 0)) ∧
     (s.ownsAsid q.vif (a2 % 256) = true →
       (a0 + a1 ≤ s.part.dcap ∨ (isSystem a0 = true ∧ isSystem (a0 + a1 - 1) = true)) →
       ∀ code handle u, t.loadObject q.vif (a2 % 256) a0 a1 (decide (fl / 2 = 1)) = (code, handle, u) →
         exec .load s = .next (u.boundary.complete sg code 0 false handle))) ∧
   (∀ (s : State) vif asid addr size, ∃ r u, s.loadObject vif asid addr size true = r ∧
     match s.signed vif (s.physBytes (span addr size)), s.parseObject vif asid (s.physBytes (span addr size)) with
     | false, _ => r = (8, 0, s)
     | true, none => r = (9, 0, s)
     | true, some c => r = (0, c.handle, u) ∧ u.codes = s.codes ++ [c] ∧ u.mem = s.mem ∧ u.asids = s.asids) ∧
   (∀ s i q fl a0 a1 a2 sg, QueueTurn s i q 5 fl a0 a1 a2 sg →
     let t := s.entryRead i q
     let h := a0 % 65536
     (s.codeOf q.vif h = none → exec .unload s = .next (t.complete sg 7 0 false 0)) ∧
     (∀ k, s.codeOf q.vif h = some k → s.codeInUse h = false → exec .unload s = .next ((t.unloadObject k).complete sg 0 0 false 0)) ∧
     (∀ k, s.codeOf q.vif h = some k → s.codeInUse h = true →
       exec .unload s = .next { t with cmds := s.cmds ++ [q.started 5 a0 a1 a2 sg] })) ∧
   (∀ s v c k, s.issuer = .host v → s.cmds.find? (fun c => c.vif = v && c.opc = 5 && !s.codeInUse (c.arg0 % 65536)) = some c →
     s.codeOf v (c.arg0 % 65536) = some k →
     exec .unload s = .next (State.complete { s.unloadObject k with cmds := (s.unloadObject k).cmds.filter (· ≠ c) } c.signal 0 0 false 0)))

/-- LAUNCH, TIMED_LAUNCH_START and LAUNCH_COMPLETE (R40, R431 to R435): a parameter block whose checks pass becomes a launch
with its fields, and one that fails has the status of the check in the record that it names; a timed launch starts at the
first tick at or after TSTART; a launch that is done, and whose Bridle records are written back, completes with OK. Which
parameter block is refused with which status (R40, R431, R432; of several failing checks the model takes the first in the
order below, log 31): BADRCB, BADCODE, BADSHAPE of what it asks of its kernel, BADCONTRACT, BADSHAPE, BADTRAV, NOFIT,
GBNOBAL. The order of the checks is the model's reading (log 31). -/
def Obligations.Launches : Prop :=
  ((∀ s i q fl a0 a1 a2 sg u l path, QueueTurn s i q 1 fl a0 a1 a2 sg → a0 % 256 = 0 →
     (a0 + 256 ≤ s.part.dcap ∨ (isSystem a0 = true ∧ isSystem (a0 + 255) = true)) →
     (s.entryRead i q).checkLaunch q a0 (s.physBytes (span a0 256)) = .inr (u, l, path) →
     ∃ t : State, exec .launch s = .next t ∧ t.launches = u.launches ++ [l] ∧ l.vif = q.vif ∧ l.queue = q.queue ∧ l.lpb = a0 ∧
       l.gx = s.numAt (a0 + 0x08) 2 ∧ l.gy = s.numAt (a0 + 0x0A) 2 ∧ l.gz = s.numAt (a0 + 0x0C) 1 ∧ l.ngrp = s.numAt (a0 + 0x0D) 1 ∧
       l.trav = s.numAt (a0 + 0x0E) 1 ∧ l.swz = s.numAt (a0 + 0x0F) 1 ∧ l.args.toNat = s.numAt (a0 + 0x20) 8 ∧
       l.rcb = s.numAt (a0 + 0x28) 8 ∧ l.signal.addr = s.numAt (a0 + 0x30) 8 ∧ l.signal.value.toNat = s.numAt (a0 + 0x38) 8 ∧
       l.tstart = s.numAt (a0 + 0x40) 8 ∧ l.seed.toNat = s.numAt (a0 + 0x48) 8 ∧ l.nextBseq = 0 ∧
       (s.numAt (a0 + 0x10) 1 ≠ 0 → l.contract = s.numAt (a0 + 0x10) 1) ∧ (s.numAt (a0 + 0x50) 4 ≠ 0 → l.tvec.toNat = s.numAt (a0 + 0x50) 4) ∧
       l.st = (if s.numAt (a0 + 0x11) 1 / 4 % 2 = 1 then .timed else .running)) ∧
   (∀ s i q fl a0 a1 a2 sg code, QueueTurn s i q 1 fl a0 a1 a2 sg → a0 % 256 = 0 →
     (a0 + 256 ≤ s.part.dcap ∨ (isSystem a0 = true ∧ isSystem (a0 + 255) = true)) →
     (s.entryRead i q).checkLaunch q a0 (s.physBytes (span a0 256)) = .inl code →
     let rcb := s.numAt (a0 + 0x28) 8
     let u := (s.entryRead i q).complete ⟨s.numAt (a0 + 0x30) 8, BitVec.ofNat 64 (s.numAt (a0 + 0x38) 8)⟩ code 0 false 0
     let region := rcb % 256 = 0 ∧ rcb + 256 ≤ s.part.dcap ∧ s.numAt rcb 1 = 4
     (region → exec .launch s = .next (u.writeRcbStatus rcb false (some code))) ∧ (¬ region → exec .launch s = .next u)) ∧
   (∀ s lid l, s.issuer = .launch lid → s.launches[lid]? = some l → l.st = .timed →
     exec .timedLaunchStart s = .next (if l.tstart ≤ s.time then s.modLaunch lid fun l => { l with st := .running } else s)) ∧
   (∀ s lid l t, s.issuer = .launch lid → s.launches[lid]? = some l → s.launchDone lid l = true → writeBackAll lid s = (t, []) →
     ∃ (u : State) (l' : Launch), exec .launchComplete s = .next u ∧ u.launches[lid]? = some l' ∧ l'.st = .completed ∧
       (∀ c ∈ u.chains, c.lid ≠ lid) ∧ (∀ r ∈ u.sharing, r.lid ≠ lid) ∧ u.blocks = t.blocks)) ∧
  (∀ (s : State) (q : QSlot) (lpb : Nat) (bs : List Byte), bs.length = 256 →
     let f (o n : Nat) : Nat := leNat ((bs.drop o).take n)
     let status := s.checkLaunch q lpb bs
     (s.launchPath q.vif (f 0x28 8) = none → status = .inl 4) ∧
     ∀ path e, s.launchPath q.vif (f 0x28 8) = some path → effPath path = some e →
       ((∀ c ∈ s.codes, c.asid = e.asid → c.handle ≠ f 0 2) → status = .inl 7) ∧
       (∀ c i, s.codes.findIdx? (fun c => c.asid = e.asid && c.handle = f 0 2) = some i → s.codes[i]? = some c →
         (c.kernels[f 4 4]? = none → status = .inl 7) ∧
         ∀ k, c.kernels[f 4 4]? = some k → c.appol = false → KernelChecks s bs c k e status))

/-- COMMCREATE, SETUP_EXCHANGE, COMMCREATE_TIMEOUT and COMMDESTROY (R414 to R416): a sound descriptor opens a communicator; its
set-up ends once every other rank has answered and the descriptor names this device at its rank, with the highest contract
that all allow and carry, or with the status that the answers or the time-out give; the handle and the status are written to
the descriptor. CODE 0 for a set-up that fails is the model's reading (log 62). -/
def Obligations.Communicators : Prop :=
  (∀ s i q fl a0 a1 a2 sg h, QueueTurn s i q 10 fl a0 a1 a2 sg →
    a0 + 64 ≤ s.part.dcap →
    let nrank := s.numAt a0 2
    let rank := s.numAt (a0 + 2) 2
    let allow := s.numAt (a0 + 4) 1
    1 ≤ nrank → nrank ≤ 2048 → rank < nrank → allow % 2 = 0 → allow < 128 → s.numAt (a0 + 5) 3 = 0 → s.numAt (a0 + 0x14) 4 = 0 →
    s.numAt (a0 + 0x1C) 36 = 0 →
    s.freeComm = some h → (s.comms.filter Comm.used).length < 256 →
    exec .commcreate s = .next { s.entryRead i q with
      comms := s.comms ++ [{ handle := h, vif := q.vif, desc := a0, cmd := q.rdidx, nrank := nrank, rank := rank, allow := allow,
                             members := (List.range nrank).map fun k => s.numAt (s.numAt (a0 + 8) 8 + 8 * k) 8,
                             tag := s.numAt (a0 + 0x10) 4, agreed := 0, live := false, opening := true, closing := false,
                             nextStep := 0, steps := [] }]
      cmds := s.cmds ++ [q.started 10 a0 a1 a2 sg] }) ∧
  (∀ s ci c answers k, s.issuer = .comm ci → s.comms[ci]? = some c → c.opening = true →
    answers.map PeerAnswer.rank = (List.range c.nrank).filter (fun r => r ≠ c.rank) →
    (∀ a ∈ answers, a.tag = c.tag ∧ a.nrank = c.nrank ∧ a.allow = c.allow ∧ a.members = c.members ∧ a.ownRank = a.rank ∧ a.hasRecord = true) →
    let fits (j : Nat) : Prop := 1 ≤ j ∧ j ≤ 6 ∧ c.allow / 2 ^ j % 2 = 1 ∧ ∀ a ∈ answers, a.carries / 2 ^ j % 2 = 1
    c.members[c.rank]? = some s.part.podId → fits k → (∀ j, fits j → j ≤ k) →
    ∃ (t : State) (c' : Comm), exec (.setupExchange answers) s = .next t ∧ t.comms[ci]? = some c' ∧ c'.live = true ∧
      c'.opening = false ∧ c'.agreed = k ∧ c'.handle = c.handle) ∧
  (∀ s ci c, s.issuer = .comm ci → s.comms[ci]? = some c → c.opening = true →
    ∃ (t : State) (c' : Comm), exec .commcreateTimeout s = .next t ∧ t.comms[ci]? = some c' ∧ c'.live = false ∧ c'.opening = false) ∧
  (∀ s i q fl a0 a1 a2 sg ci c, QueueTurn s i q 11 fl a0 a1 a2 sg → s.commOf q.vif (a0 % 65536) = some ci → s.comms[ci]? = some c →
    (c.idle = true → ∃ (t : State) (c' : Comm), exec .commdestroy s = .next t ∧ t.comms[ci]? = some c' ∧ c'.live = false ∧ t.cmds = s.cmds) ∧
    (c.idle = false → ∃ (t : State) (c' : Comm), exec .commdestroy s = .next t ∧ t.comms[ci]? = some c' ∧ c'.closing = true ∧
      c'.live = c.live ∧ t.cmds = s.cmds ++ [q.started 11 a0 a1 a2 sg])) ∧
  (∀ s v k ci c, s.issuer = .host v → s.cmds.find? (fun x => x.vif = v && x.opc = 11 && (match s.commOf v (x.arg0 % 65536) with
      | none => true
      | some ci => (s.comms[ci]?).any Comm.idle)) = some k → s.commOf v (k.arg0 % 65536) = some ci → s.comms[ci]? = some c →
    ∃ (t : State) (c' : Comm), exec .commdestroy s = .next t ∧ t.comms[ci]? = some c' ∧ c'.live = false ∧ t.cmds = s.cmds.filter (· ≠ k))

/-- DOORBELL and QUEUE_IDLE_UNMAP (R426, R427): a doorbell gives a mapped queue its write index, or puts it in error when the
index lies too far on; it maps a queue that has no slot into a free one; a queue without unread entries leaves its slot 256
µs after its last doorbell, RDIDX written back. What a queue in error does is the model's reading (log 27). -/
def Obligations.Doorbells : Prop :=
  (∀ s v queue (value : DWord) i q, s.issuer = .host v → s.stage = 5 → queue < 4096 → value.toNat < 2 ^ 32 → v < s.vifs.length →
    s.queues.find? (fun p => p.2.vif = v && p.2.queue = queue) = some (i, q) → assocFind s.queues i = some q → s.overflow = [] →
    let w := value.toNat
    let ahead (x : Nat) : Nat := (w + 2 ^ 32 - x % 2 ^ 32) % 2 ^ 32
    (ahead q.rdidx ≤ q.size → ahead q.wridx ≤ q.size →
      exec (.doorbell queue value) s = .next { s with queues := assocPut s.queues i { q with wridx := w, dbTime := s.time } }) ∧
    (q.size < ahead q.rdidx ∨ q.size < ahead q.wridx → ∃ (t : State) (x : Vif), exec (.doorbell queue value) s = .next t ∧
      assocFind t.queues i = none ∧ t.vifs[v]? = some x ∧ x.vistat.getLsbD 2 = true)) ∧
  (∀ s v queue (value : DWord) i d, s.issuer = .host v → s.stage = 5 → queue < 4096 → value.toNat < 2 ^ 32 → v < s.vifs.length →
    s.queues.find? (fun p => p.2.vif = v && p.2.queue = queue) = none → s.overflow = [] → s.readQueue v queue = some d →
    s.poison = [] → s.freeSlot = some i → (value.toNat + 2 ^ 32 - d.rdidx % 2 ^ 32) % 2 ^ 32 ≤ d.size →
    exec (.doorbell queue value) s = .next { s with
      queues := assocPut (assocPut s.queues i d) i { d with wridx := value.toNat, dbTime := s.time }
      mem := s.mem.putNum (s.queueDesc d.vif d.queue + 0x14) 1 1 }) ∧
  (∀ s i q, s.issuer = .queue i → assocFind s.queues i = some q → q.rdidx = q.wridx → q.dbTime + 256000 ≤ s.time → s.overflow = [] → s.poison = [] →
    exec .queueIdleUnmap s = .next { s with
      queues := assocDel s.queues i
      mem := (s.mem.putNum (s.queueDesc q.vif q.queue + 0x10) 4 q.rdidx).putNum (s.queueDesc q.vif q.queue + 0x14) 1 0 })

/-! The host, management and power -/

/-- Writes of interface registers (R464 to R466): VISTAT clears what is written as 1; APCTL and APVA take the bytes written,
APEN only for an ASID of the interface; a read-only register, and a doorbell of another size than 8 bytes, is left and sets
BADW; VIRESET kills every launch of the interface, one after another, or rolls it back, and makes one at its completion
instant non-replayable; QTBASE takes its base, 4 KiB aligned, once no queue of it is mapped. A read of BAR0 gives the
registers as R465 lays them out, and capability space from 0x1_0000 on; every request before the device has come up is
answered with Unsupported Request (log 5), and nothing is answered on a link that is down. The aperture (R146, R466): a
request through APVA and APASID reads and writes the bytes that they translate to, without a stamp check, one piece for each
aligned 4-byte unit in any order, at once if there is one only; later requests of the interface wait. One that faults, or
that meets a disabled aperture, is answered with an unsupported request, a fault with APFLT. VIRESET, the low bits of APVA
and QTBASE, and the answer before stage 5 are the model's reading (logs 5, 60, 61). -/
def Obligations.HostAccesses : Prop :=
  (∀ s v w, HostAccess s v w →
     (∀ value : DWord, exec (.vistatWrite value) s = .next (s.modVif v fun w => { w with vistat := w.vistat &&& ~~~value })) ∧
     (∀ size (value : DWord), 0 < size → size ≤ 8 →
       (∀ off, off + size ≤ 8 → exec (.viRegisterWrite (0x28 + off) size value) s = .next (s.modVif v fun w =>
         { w with apva := bytesInto w.apva off size value &&& ~~~0xFFFFFFFF })) ∧
       (∀ off, off + size ≤ 8 → exec (.viRegisterWrite (0x20 + off) size value) s = .next (s.modVif v fun w =>
         let x := bytesInto w.apctl off size value &&& 0x1FF
         { w with apctl := if w.ownsAsid (x.toNat % 256) then x else x &&& 0xFF })) ∧
       (∀ off, (off < 8 ∨ 0x10 ≤ off ∧ off < 0x20 ∨ 0x38 ≤ off ∧ off < 0x40 ∨ 0x100 ≤ off ∧ off < 0x140 ∨ 0x10000 ≤ off ∧ off < 0x20000 ∨
           (0x20000 ≤ off ∧ off < 0x30000 ∧ size ≠ 8)) →
         exec (.viRegisterWrite off size value) s = .next (s.modVif v fun w => { w with vistat := w.vistat ||| 1 }))) ∧
     ((∀ k l, s.launches[k]? = some l → l.vif = v → l.live = false ∧ (l.snap = false ∨ l.replayable = false ∨ s.atCompletion k l = false)) →
       exec (.vireset 1) s = .next s) ∧
     (∀ k l, s.launches[k]? = some l → l.vif = v → (∀ j m, s.launches[j]? = some m → m.vif = v → j = k) →
       (s.atCompletion k l = true → l.snap = true → l.replayable = true → ∃ (t : State) (l' : Launch), exec (.vireset 1) s = .next t ∧
         t.launches[k]? = some l' ∧ l' = { l with replayable := false } ∧ t.blocks = s.blocks ∧ t.mem = s.mem ∧
         t.telem = { s.telem with noreplay := s.telem.noreplay + 1 }) ∧
       (s.atCompletion k l = false → l.live = true →
         (l.snap = false ∨ l.replayable = false ∨ l.retry ≤ l.replays → exec (.vireset 1) s = .next (s.endKilled k l 0)) ∧
         (l.snap = true → l.replayable = true → l.replays < l.retry → exec (.vireset 1) s = .next (s.rollback k l 0)))) ∧
     exec (.vireset 1) s = .next (((List.range s.launches.length).filter fun k => (s.launches[k]?).any fun l => l.vif = v).foldl
       (fun u k => u.killOne 0 k) s) ∧
     (∀ (u : State) k l, u.launches[k]? = some l →
       (u.atCompletion k l = true → u.killOne 0 k = u.noReplay k) ∧
       (u.atCompletion k l = false → l.live = false → u.killOne 0 k = u) ∧
       (u.atCompletion k l = false → l.live = true →
         u.killOne 0 k = if l.snap = true ∧ l.replayable = true ∧ l.replays < l.retry then u.rollback k l 0 else u.endKilled k l 0)) ∧
     (∀ value : DWord, value ≠ 1 → exec (.vireset value) s = .next s) ∧
     (∀ value : DWord, (∀ p ∈ s.queues, p.2.vif ≠ v) → s.overflow = [] →
       exec (.qtbaseWrite value) s = .next (s.modVif v fun w => { w with qtbase := value &&& ~~~0xFFF })) ∧
     (∀ off value, (off, value) ∈ bar0Rows s v w →
       s.hostRead v off 8 = { s with out := s.out ++ [.registers v (bytesOfNat 8 (value % 2 ^ 64))] }) ∧
     (∀ off, off < 0x10000 → s.hostRead v (0x10000 + off) 1 = { s with out := s.out ++ [.registers v [s.physByte (0xC000000000 + off)]] }) ∧
     (∀ (k : Nat) off n (u : State), u = { s with stage := k } → k ≠ 5 →
       u.hostRead v off n = { u with out := s.out ++ [.unsupported v] } ∧
       (∀ value, exec (.vireset value) u = .next { u with out := s.out ++ [.unsupported v] })) ∧
     (∀ off n (u : State), u = { s with stopped := true } → u.hostRead v off n = u ∧ ∀ value, exec (.vireset value) u = .next u)) ∧
  ((∀ s v w offset, HostAccess s v w →
     let who : Who := ⟨w.apctl.toNat % 256, none, none, 256, 8, none⟩
     (∀ n, w.apctl.getLsbD 8 = false → exec (.apertureAccess offset (.read n)) s = .next { s with out := s.out ++ [.unsupported v] }) ∧
     (∀ bs, w.apctl.getLsbD 8 = false → exec (.apertureAccess offset (.write bs)) s = .next { s with out := s.out ++ [.unsupported v] }) ∧
     (∀ n sp, w.apctl.getLsbD 8 = true → offset + n ≤ 2 ^ 32 → s.translateSpan who .load none false (w.apva.toNat + offset) n = .inr sp →
       (∀ u ∈ sp.uses, ∀ e, u.leaf = some e → leafA e.1 = true) →
       (OneUnit sp.pas → s.poison = [] →
         exec (.apertureAccess offset (.read n)) s = .next { s with out := s.out ++ [.aperture v (sp.pas.map s.physByte)] }) ∧
       (¬ OneUnit sp.pas → exec (.apertureAccess offset (.read n)) s = .next (s.modVif v fun w => { w with
         aperture := some ⟨w.apctl.toNat % 256, w.apva.toNat + offset, sp.pas, none, []⟩ }))) ∧
     (∀ n f, w.apctl.getLsbD 8 = true → offset + n ≤ 2 ^ 32 → s.translateSpan who .load none false (w.apva.toNat + offset) n = .inl f →
       ∃ (t : State) (x : Vif), exec (.apertureAccess offset (.read n)) s = .next t ∧ t.vifs[v]? = some x ∧ x.vistat.getLsbD 1 = true ∧
         t.out = s.out ++ [.unsupported v] ∧ t.mem = s.mem) ∧
     (∀ bs sp, w.apctl.getLsbD 8 = true → offset + bs.length ≤ 2 ^ 32 →
       s.translateSpan who .store none false (w.apva.toNat + offset) bs.length = .inr sp →
       (∀ u ∈ sp.uses, ∀ e, u.leaf = some e → leafA e.1 = true ∧ leafD e.1 = true) →
       (OneUnit sp.pas → s.poison = [] → sp.pas.Nodup → s.mem.wf = true →
         ∃ t : State, exec (.apertureAccess offset (.write bs)) s = .next t ∧ t.out = s.out ++ [.aperture v []] ∧
           (∀ (k : Nat) (a : Nat) (x : Byte), sp.pas[k]? = some a → bs[k]? = some x → t.mem.byte a = x) ∧
           (∀ a, a ∉ sp.pas → t.mem.byte a = s.mem.byte a)) ∧
       (¬ OneUnit sp.pas → exec (.apertureAccess offset (.write bs)) s = .next (s.modVif v fun w => { w with
         aperture := some ⟨w.apctl.toNat % 256, w.apva.toNat + offset, sp.pas, some bs, []⟩ })))) ∧
   (∀ s v w k a, s.issuer = .host v → s.vifs[v]? = some w → w.aperture = some k → s.poison = [] →
     let now (x : Nat) : Bool := x / 4 = a / 4 && k.got.all fun q => q.1 ≠ x
     (k.data = none → exec (.apertureAccess 0 (.piece a)) s =
       .next (apertureGoesOn s v k (k.got ++ (k.pas.filter now).map fun x => (x, s.physByte x)))) ∧
     (∀ bs, k.data = some bs → exec (.apertureAccess 0 (.piece a)) s =
       (let cells := (k.pas.zip bs).filter fun q => now q.1
        .next (apertureGoesOn (s.putPhys cells) v k (k.got ++ cells))))) ∧
   (∀ s v w k, s.issuer = .host v → s.stage = 5 → s.vifs[v]? = some w → w.aperture = some k →
     (∀ offset n, exec (.apertureAccess offset (.read n)) s = .next s) ∧ (∀ value, exec (.vistatWrite value) s = .next s) ∧
     (∀ off size value, exec (.viRegisterWrite off size value) s = .next s) ∧ (∀ value, exec (.vireset value) s = .next s)))

/-- Requests of the management owner (R461, R462, R469, R473): a power limit between 600 W and 2400 W, the placement of an
interface on a port that has room for it, a live update with a verified image, which boots the standby complex and becomes
active when it can import the running state table, with no queue's place lost; of every other function such a request is
denied. Keys and measurements (R462, R471, R472): a physical function enrols up to 8 keys in an interface on its port, one
for each identifier, and removes them; any function reads the measurement log that is its own, signed; while neither complex
is verified a physical function does too (R470, DEDUCED: the root of trust keeps and signs the log), and VISTAT and
capability space read zero. A physical function reads the telemetry of the whole device. DENIED for a value out of range,
what the root of trust finds, and its answers while nothing is verified are the model's choice (logs 13, 28, 85). -/
def Obligations.ManagementRequests : Prop :=
  ((∀ s fn, s.issuer = .function fn → s.stage = 5 → fn = .physical s.firmware.owner → s.linkUp s.firmware.owner = true →
     (∀ watts, 600 ≤ watts → watts ≤ 2400 →
       exec (.setPowerLimit watts) s = .next { s with powerLimit := watts, out := s.out ++ [.accepted fn] }) ∧
     (∀ vif port, port < 2 → vif < s.vifs.length → exec (.firmwareConfiguration vif port) s = .next
       (if (s.vifs.zipIdx.filter fun p => p.2 ≠ vif && p.1.port = port).length < 63 then
         { s.modVif vif (fun v => { v with port := port }) with out := s.out ++ [.accepted fn] }
        else { s with out := s.out ++ [.denied fn] })) ∧
     (∀ addr size, addr + size ≤ s.part.dcap → ∃ t : State, exec (.liveUpdate addr size) s = .next t ∧
       let image := s.physBytes (span addr size)
       let log := s.firmware.measured ++ [.digest (Config.digest image)]
       match Config.firmwareImage image with
       | some (security, version, table) =>
         if security < s.part.rollback then t = { s with out := s.out ++ [.refusedUpdate fn] }
         else if Config.importsTable image s.firmware.running.tableVersion then
           t.firmware.activeB = !s.firmware.activeB ∧ t.firmware.running.version = version ∧ t.firmware.running.tableVersion = table ∧
           t.firmware.measured = log ∧ (∀ i, assocFind t.queues i = assocFind s.queues i) ∧
           t.blocks = s.blocks ∧ t.launches = s.launches ∧ t.mem = s.mem ∧ t.out = s.out ++ [.accepted fn]
         else t = { s with firmware := { s.firmware with measured := log }, out := s.out ++ [.refusedUpdate fn] }
       | none => t = { s with out := s.out ++ [.refusedUpdate fn] })) ∧
   (∀ s fn i, s.issuer = .function fn → s.stage = 5 → s.linkUp (s.portOf fn) = true → fn ≠ .physical s.firmware.owner →
     ((∃ w, i = .setPowerLimit w) ∨ (∃ v p, i = .firmwareConfiguration v p) ∨ (∃ a n, i = .liveUpdate a n)) →
     exec i s = .next { s with out := s.out ++ [.denied fn] })) ∧
  ((∀ s p vif v key body, s.issuer = .function (.physical p) → s.stage = 5 → s.linkUp p = true → s.vifs[vif]? = some v → v.port = p →
     (let rest := v.keys.filter fun k => k.1 ≠ key
      rest.length < 8 → exec (.keyEnroll vif key body) s = .next { s.modVif vif (fun w => { w with keys := rest ++ [(key, body)] }) with
        out := s.out ++ [.accepted (.physical p)] }) ∧
     (8 ≤ (v.keys.filter fun k => k.1 ≠ key).length → exec (.keyEnroll vif key body) s = .next { s with out := s.out ++ [.denied (.physical p)] }) ∧
     exec (.keyRemove vif key) s = .next { s.modVif vif (fun w => { w with keys := w.keys.filter fun k => k.1 ≠ key }) with
       out := s.out ++ [.accepted (.physical p)] }) ∧
   (∀ (s : State) p, s.linkUp p = true → s.stage = 5 → s.readTelemetry p = { s with out := s.out ++ [.telemetry p [s.telem.temp, s.telem.pwr,
     s.telem.energy, s.telem.ecccor, s.telem.eccunc, s.telem.sigmisn, s.telem.replayn, s.telem.noreplay]] }) ∧
   (∀ s fn log, s.issuer = .function fn → s.linkUp (s.portOf fn) = true →
     (s.stage = 5 ∨ (∃ p, fn = .physical p) ∧ s.firmware.okA = false ∧ s.firmware.okB = false) →
     log = (s.firmware.measured.map fun
       | .made second => Config.bootDigest second
       | .digest d => d) ++ (match fn with
       | .physical _ => s.vifs.flatMap Vif.measured
       | .virtual v => ((s.vifs[v]?).map Vif.measured).getD []) →
     exec .getMeasurements s = .next { s with out := s.out ++ [.measurements fn log (Config.signLog 0 log)] } ∧
     exec .vendorMeasurementBlock s = .next { s with out := s.out ++ [.measurements fn log (Config.signLog 1 log)] }) ∧
   (∀ (s : State) p off len, s.linkUp p = true → s.stage ≠ 5 → s.firmware.okA = false → s.firmware.okB = false →
     (0x30 ≤ off ∧ off + len ≤ 0x38 ∨ 0x10000 ≤ off ∧ off + len ≤ 0x20000) →
     s.physicalRead p off len = { s with out := s.out ++ [.unverified p (List.replicate len 0)] }))

/-- Events of the device (R451 to R453, R467, R468, R473, R474): the standby complex takes over with a verified image, from the
last state table, and keeps what the front end has recorded; a power window at or below the limit is counted; from 105 °C
the device throttles and from 115 °C it stops, its links down; an error found in a register, an accumulator or a tile is
counted and noted; a scrub counts each error, corrects what it can and marks the rest as poisoned. SHEET_SCRUB of a core's
slice (R453), SNAPSHOT_UNIT_COPY (R452, R454) of a unit that a held write is about to change, with the words of it that are
poisoned, or the launch's end as a replayable one where the ballast cannot hold it, and POWER_ON_RESET (R470, R475): the
device as it is after reset, with firmware's RCBs, but for the host's memory, tether time, the part without its retired
cores, and the firmware, of which each image is verified anew; bring-up then goes on stage by stage, if one of them may run.
Errors are inputs (log 15), what POWER_ON_RESET keeps, the state table's record and the images that run are the model's
reading (logs 64, 81, 85). -/
def Obligations.DeviceLevelEvents : Prop :=
  (∀ s, s.issuer = .device →
     (s.stage = 5 → (if s.firmware.activeB then s.firmware.okA else s.firmware.okB) = true → ∃ t : State,
       exec .heartbeatTimeout s = .next t ∧ t.firmware.activeB = !s.firmware.activeB ∧ t.launches = s.launches ∧ t.blocks = s.blocks ∧
       t.mem = s.mem ∧ t.firmware.measured = s.firmware.measured ∧
       t.firmware.running = (if s.firmware.activeB then s.firmware.imageA else s.firmware.imageB) ∧
       ∀ i, assocFind t.queues i = (assocFind s.queues i).map fun q => match assocFind s.firmware.table.queues i with
         | some r => if r.vif = q.vif ∧ r.queue = q.queue then { q with rdidx := r.rdidx } else q
         | none => q) ∧
     (∀ watts, watts ≤ s.powerLimit → exec (.powerWindow watts) s = .next { s with telem := { s.telem with
       pwr := BitVec.ofNat 64 watts
       energy := s.telem.energy + BitVec.ofNat 64 watts } }) ∧
     (∀ c, c < 115 → exec (.thermalThrottle c) s = .next { s with
       throttled := decide (105 ≤ c)
       telem := { s.telem with temp := BitVec.ofNat 64 c } }) ∧
     (∀ c i, 115 ≤ c → i = .thermalThrottle c ∨ i = .thermalShutdown c → ∃ t : State, exec i s = .next t ∧ t.stopped = true ∧
       t.telem.temp = BitVec.ofNat 64 c ∧ (∀ l ∈ t.launches, l.live = false) ∧ ∀ p, t.linkUp p = false) ∧
     s.upset .corrected = { s with telem := { s.telem with ecccor := s.telem.ecccor + 1 } } ∧
     (∀ g h c, s.group? g = some h → ∃ k : Group, (s.upset (.register g c)).group? g = some k ∧ c ∈ k.bad ∧ (∀ r, k.cell r = h.cell r) ∧
       (s.upset (.register g c)).telem.eccunc = s.telem.eccunc + 1) ∧
     (∀ g h, s.group? g = some h → ∃ k : Group, (s.upset (.xa g)).group? g = some k ∧ k.xaBad = true ∧
       (s.upset (.xa g)).telem.eccunc = s.telem.eccunc + 1) ∧
     (∀ bid b n key, s.block? bid = some b → ∃ b' : Block, (s.upset (.tile bid n key)).block? bid = some b' ∧ (n, key) ∈ b'.badTiles ∧
       (s.upset (.tile bid n key)).telem.eccunc = s.telem.eccunc + 1) ∧
     (∀ a uncorrectable, a % 32 = 0 → (s.isDram a = true ∨ isBacked a = true) → exec (.dramRefreshScrub [(a, uncorrectable)]) s = .next
       (if uncorrectable then { s with
          poison := if s.poison.contains a then s.poison else s.poison ++ [a]
          telem := { s.telem with eccunc := s.telem.eccunc + 1 } }
        else { s with telem := { s.telem with ecccor := s.telem.ecccor + 1 } }))) ∧
  ((∀ s c a uncorrectable, s.issuer = .core c → a % 8 = 0 → 0x8000000000 + c * 0x600000 ≤ a → a < 0x8000000000 + (c + 1) * 0x600000 →
     c < s.part.ncore → exec (.sheetScrub [(a, uncorrectable)]) s = .next
       (if uncorrectable then { s with
          poison := if s.poison.contains a then s.poison else s.poison ++ [a]
          telem := { s.telem with eccunc := s.telem.eccunc + 1 } }
        else { s with telem := { s.telem with ecccor := s.telem.ecccor + 1 } })) ∧
   (∀ s lid l unit, s.issuer = .launch lid → s.launches[lid]? = some l → unit % 4096 = 0 → s.unitHeld lid unit = true →
     l.snap = true → l.replayable = true → s.isDram unit = true → (∀ u ∈ l.units, u.base ≠ unit) → s.mem.wf = true →
     (s.ballastFits l.rcb 4096 = false → ∃ (t : State) (l' : Launch), exec (.snapshotUnitCopy unit) s = .next t ∧ t.launches[lid]? = some l' ∧
       l' = { l with replayable := false } ∧ t.mem = s.mem ∧ t.telem.noreplay = s.telem.noreplay + 1) ∧
     (s.ballastFits l.rcb 4096 = true → ∃ (t : State) (l' : Launch), exec (.snapshotUnitCopy unit) s = .next t ∧ t.launches[lid]? = some l' ∧
       l'.units = l.units ++ [⟨unit, (List.range 4096).map (fun k => s.physByte (unit + k)), s.poison.filter fun w => w / 4096 * 4096 = unit⟩] ∧
       t.ballast = s.ballast ++ [⟨l.rcb, 4096, .snapshot lid⟩] ∧
       ∀ a, (∀ r ∈ s.pathOf l.rcb, a < r.addr + 0x40 ∨ r.addr + 0x58 ≤ a) → t.mem.byte a = s.mem.byte a)) ∧
   (∀ s, s.issuer = .device → ∃ t : State, exec .powerOnReset s = .next t ∧ t.launches = [] ∧ t.blocks = [] ∧ t.copies = [] ∧
     t.queues = [] ∧ t.codes = [] ∧ t.comms = [] ∧ t.bound = [] ∧ t.poison = [] ∧ t.stopped = false ∧ t.time = s.time ∧
     (s.mem.wf = true → (∀ a, isSystem a = true → t.mem.byte a = s.mem.byte a) ∧
       (∀ a, isSystem a = false → (a < 0xFF00 ∨ 0x14000 ≤ a) → t.mem.byte a = 0) ∧
       ∀ r ∈ Rcb.root t.part :: (List.range 64).map (Rcb.interface t.part), ∀ o, o < 0x40 → t.mem.byte (r.addr + o) = r.byteAt o) ∧
     t.part.ncore = ((List.range s.part.ncore).filter fun c => !s.cretire.getLsbD c).length ∧ t.cretire = 0 ∧
     t.telem = State.reset.telem ∧ t.powerLimit = State.reset.powerLimit ∧ t.stage = 1 ∧ t.attached = s.attached ∧
     (t.firmware.imageA, t.firmware.imageB) = (s.firmware.imageA, s.firmware.imageB) ∧
     t.firmware.okA = (s.firmware.imageA.signed && decide (s.part.rollback ≤ s.firmware.imageA.security)) ∧
     t.firmware.okB = (s.firmware.imageB.signed && decide (s.part.rollback ≤ s.firmware.imageB.security)) ∧
     t.firmware.activeB = (!t.firmware.okA && t.firmware.okB) ∧ (t.firmware.okA = false → t.firmware.okB = false → t.firmware.measured = []) ∧
     t.firmware.owner = if s.attached[0]? = some true then 0 else s.part.ownerAlone) ∧
   (∀ s : State, s.stage < 5 → s.stopped = false →
     s.bringUp = if s.firmware.okA ∨ s.firmware.okB then { s with stage := s.stage + 1 } else s))

/-! Barrier counts -/

/-- Arrivals and exits (R350), each in one move: a group's arrival, when it is performed, adds its count; one of the sequencer
(here MARRB) or of the gang port (here a ganged part after its last band) adds TGT; the exit of a group that is not the
block's last lowers TGT by one at every barrier. No lag ever exceeds 65,535 (R349). -/
def Obligations.BarrierCounts : Prop :=
  (∀ (s : State) (g : GRef) (b : Block) (h : Group) (p : Pend) (bar n : Nat), s.issuer = .group g → s.block? g.bid = some b →
    b.groups[g.gid]? = some h → h.pend.find? (fun q => q.ser = p.ser) = some p → s.performable g p = true → p.body = .arrive bar n →
    ∃ (t : State) (b' : Block), exec (.accessPerform p.ser) s = .next t ∧ t.block? g.bid = some b' ∧ BarCounted b.tgt n bar b b' ∧
      b'.tgt = b.tgt) ∧
  (∀ (s : State) (c : SCtx) (f : WordMB), Sequences s c → c.q.drains = [] → f.bar ≠ 0 →
    ∃ (t : State) (b' : Block), exec (.marrb f) s = .next t ∧ t.block? c.bid = some b' ∧ BarCounted c.b.tgt c.b.tgt f.bar.toNat c.b b' ∧
      b'.tgt = c.b.tgt) ∧
  (∀ (s : State) (bid : Nat) (b : Block) (l : Launch) (p : GangPart) (ps : List GangPart), s.issuer = .block bid → s.block? bid = some b →
    s.launches[b.lid]? = some l → b.parts = p :: ps → b.place = .resident → l.live = true → p.begun = true → p.work.ready = true →
    p.work.mrp = 7 → p.work.arr ≠ 0 →
    ∃ (t : State) (b' : Block), exec .gangPartRun s = .next t ∧ t.block? bid = some b' ∧ BarCounted b.tgt b.tgt p.work.arr b b' ∧
      b'.tgt = b.tgt) ∧
  (∀ (f : WordB) (s : State) (c : Ctx), Quiet s c →
    Passes c (planB c 0x02B f (f.a = 0 && f.cc = 0 && f.disp = 0 && !c.h.sup) [] 0) [] → c.h.exited = false →
    (c.h.slot (SlotId.other c.x)).st = .empty → c.h.depth = 0 → c.h.tailBusy = false → 2 ≤ c.b.tgt →
    ∃ (t : State) (b' : Block), exec (.exit f) s = .next t ∧ t.block? c.g.bid = some b' ∧ b'.tgt = c.b.tgt - 1 ∧
      ∀ (i : Nat) x, c.b.bars[i]? = some x → x.gen < 2 ^ 32 → ∃ y, b'.bars[i]? = some y ∧ Counted (c.b.tgt - 1) 0 x y) ∧
  (∀ (b : Barrier) (n tgt k : Nat) (p : BParty), 0 < tgt → b.gen < 2 ^ 32 → assocWf 0 b.seenG = true → (∀ g, p = .grp g → g < n) →
    b.seen p < 2 ^ 32 → b.lag p ≤ 65535 → (b.arrive n tgt k).lag p = min 65535 (b.lag p + (b.cnt + k) / tgt))

/-! The step -/

/-- A step runs what its party has fetched (R73, R78, R105, R193; logs 2 and 3). The word of a slot's clause at the slot's place
in it, for a slot that may issue or whose wait is over; a header at the PC, when no clause is in progress; a sequencer's
word at its PC; an event of the opcode table that has no word. Around the instruction there is the end of the step alone:
time goes on and the sets of groups follow. Who moves is the model's field and free choice (log 2), time is free (log 3). -/
def Obligations.StepRunsInstruction : Prop :=
  ∀ (s : State) (r : List Actor), s.stopped = false →
    let u : State := { s with turn := r }
    (∀ g x c k w, s.turn = .issue (.slot g x) :: r → u.ctxOf g x = some c → u.inFirmware c = false → u.mayIssue c = true →
      (c.sl.canIssue = true ∨ ∃ e, c.sl.st = .atEvent e ∧ u.waitOver g x e = true) →
      c.sl.clause = some k → k.words[k.pos]? = some w →
      step s = tickResult (exec (decodeInstr w) { u with issuer := .slot g x })) ∧
    (∀ g x c w ws t, s.turn = .issue (.slot g x) :: r → u.ctxOf g x = some c → u.inFirmware c = false → u.mayIssue c = true →
      (c.sl.canIssue = true ∨ ∃ e, c.sl.st = .atEvent e ∧ u.waitOver g x e = true) →
      c.sl.clause = none → c.h.acquiresMet = true → u.readCode (u.whoGroup g) c.sl.pc.toNat 1 = .inr (w :: ws, t) → isHeader w = true →
      step s = tickResult (exec (decodeHeader w) { t with issuer := .slot g x })) ∧
    (∀ bid b q w ws t, s.turn = .issue (.block bid) :: r → u.block? bid = some b → b.seqr = some q → u.seqrReady b q = true →
      (u.modBlock bid fun b => { b with seqr := some { q with st := .running } }).readCode (u.whoBlock bid) q.pc.toNat 1 = .inr (w :: ws, t) →
      step s = tickResult (exec (decodeMatrix w) { t with issuer := .block bid })) ∧
    (∀ p i, s.turn = .event p i :: r → (encode i = none) → step s = tickResult (exec i { u with issuer := p })) ∧
    (∀ cells, s.turn = .hostStore cells :: r → step s = .next (u.hostStores cells).tick) ∧
    (s.turn = [] → step s = match Config.schedule s.fresh with
      | .event p i => if encode i = none then tickResult (exec i { s with issuer := p }) else .next s.tick
      | a => tickResult (s.act a))

/-! Encoding -/

/-- The decoder reads an instruction's word as that instruction, every field as it was, and leaves the bytes after it (R74, R83,
R103 to R107). -/
def Obligations.DecodeOfEncode : Prop :=
  ∀ (i : Instr) (w : DWord) (rest : List Byte), i.wf = true → encode i = some w →
    decode (streamOf i) (bytesOfNat 8 w.toNat ++ rest) = .ok (i, rest)

/-- Every word of either stream stands for one well-formed instruction, which has that word as its encoding (R104, R107). -/
def Obligations.EveryWordDecodes : Prop :=
  ∀ (st : Stream) (w : DWord), (decodeWord st w).wf = true ∧ encode (decodeWord st w) = some w ∧
    (matrixIllegal w = true → decodeMatrix w = .illegalMatrixWord w) ∧
    (opListed (opField w) = false → decodeInstr w = .illegalOpcode w)

/-- Words that the manual writes out with their fields, one of each format (the examples under R83 to R91, R74, R213, R330, R352,
R366, R368, R411 and "Nested splits"), read as it says. -/
def Obligations.DecodedExamples : Prop :=
  decodeClauseWord 0xFC60_0000_0000_0000 = .clauseHeader ⟨0x3F, 1, 4, 0, 0, 0, 0, 0⟩ ∧
  decodeInstr 0x4108_2004_02A3_008B = .ffma ⟨2, 0, 2, 0, 0, 0x004, 0x005, 0x08C, 0x004, 11⟩ ∧
  decodeInstr 0x264C_7081_0022_4046 = .vset ⟨3, 0, 7, 0, 0, 0x081, 0x000, 0x089, 2, 6⟩ ∧
  decodeInstr 0x0100_0140_7840_0005 = .sadd ⟨0, 0, 0x005, 0x003, 0x184, 0, 0, 5⟩ ∧
  decodeInstr 0x0940_7408_000C_0016 = .bsplit ⟨0, 0, 7, 0x081, 0, 0x000C_0016⟩ ∧
  decodeInstr 0x8040_7020_0900_8040 = .ld ⟨0, 0, 7, 4, 2, 2, 0, 1, 0, 2, 0, 0, 0⟩ ∧
  decodeInstr 0x8280_0180_4040_8009 = .acass ⟨0, 0, 6, 2, 4, 0, 1, 0, 0, 2, 1⟩ ∧
  decodeInstr 0xA080_0403_0400_200A = .cpyt ⟨0, 0, 0x010, 0x018, 1, 0, 0, 1, 0, 10⟩ ∧
  decodeInstr 0xC040_080A_0280_0000 = .mbar ⟨0, 0, 1, 1, 2, 0x02, 1, 0, 0, 0⟩ ∧
  decodeInstr 0xE2C0_0140_8000_040A = .tkpass ⟨0, 0, 0x005, 0x004, 0, 0, 4, 0x0A⟩ ∧
  decodeMatrix 0x0D02_14C7_0018_2101 = .mmag ⟨0, 4, 5, 6, 7, 0, 0, 1, 8, 2, 1, 1⟩ ∧
  decodeMatrix 0x0E05_3000_B000_4000 = .mdrn ⟨0, 10, 12, 0, 11, 0, 4, 0, 0⟩

/-! Reset -/

/-- What reset leaves (R13, R199 to R201, R434, R465, R474, R475): nothing is launched, queued, copied or loaded, no error is
recorded, the counters of TELEM and the registers of every interface hold their reset values, no core is retired, bring-up
has reached its last stage, and memory is canonical: it holds firmware's RCBs, and reads zero elsewhere. Model's choices in
it: an unlisted byte reads 0 (log 1), the full part (log 4), bring-up done (log 5), the firmware's values (log 6). -/
def Obligations.ResetState : Prop :=
  State.reset.launches = [] ∧ State.reset.blocks = [] ∧ State.reset.copies = [] ∧ State.reset.queues = [] ∧ State.reset.codes = [] ∧
  State.reset.comms = [] ∧ State.reset.poison = [] ∧ State.reset.cretire = 0 ∧ State.reset.stage = 5 ∧ State.reset.stopped = false ∧
  State.reset.telem = ⟨0, 0, 0, 0, 0, 0, 0, 0⟩ ∧
  (∀ v ∈ State.reset.vifs, v.qtbase = 0 ∧ v.apctl = 0 ∧ v.apva = 0 ∧ v.vistat = 0 ∧ v.keys = []) ∧
  State.reset.part.ncore = 256 ∧ State.reset.mem.wf = true ∧
  (∀ a, (a < 0xFF00 ∨ 0x14000 ≤ a) → State.reset.mem.byte a = 0) ∧
  ∀ r ∈ State.reset.rcbs, ∀ o, o < 0x40 → State.reset.mem.byte (r.addr + o) = r.byteAt o

/-- Memory stays canonical: whoever moves, a step from a state with canonical memory, sound or not in every other respect, leads
to one. The canonical form, and that an unlisted byte reads 0, are the model's choice (log 1). -/
def Obligations.MemoryStaysCanonical : Prop :=
  ∀ s t : State, s.mem.wf = true → step s = .next t → t.mem.wf = true

/-! What register instructions leave -/

/-- The frame of the scalar, mask, vector and floating-point instructions (R203, R206, R268, R273 to R279, R286, R297): only the
destination's cells change, in the lanes of EXEC where it is a vector; no flag of GSTAT but a floating-point condition's. The
floating-point forms are stated with no floating-point trap enabled (R297). -/
def Obligations.RegisterInstructionFrame : Prop :=
  ∀ s c, Quiet s c → c.h.wf = true → c.sl.st = .running →
    (∀ i r d a os, scalarRow i = some r → Passes c (r.form.plan r.op r.f) (d :: a :: os) →
      ∃ (t : State) (k : Group), exec i s = .next t ∧ t.group? c.g = some k ∧ LeavesRest c s t k (d.cells c.h.sup c.x []) 0) ∧
    (∀ i r d a os, maskRow i = some r → Passes c (planK r.op r.f r.two Want.mask) (d :: a :: os) →
      ∃ (t : State) (k : Group), exec i s = .next t ∧ t.group? c.g = some k ∧ LeavesRest c s t k (d.cells c.h.sup c.x []) 0) ∧
    (∀ i r d os, elementRow i = some r →
      Passes c (c.planV r.op r.f r.legal (vUses r.f.ty.toNat r.sources r.f) []) (d :: os) →
      ∃ (t : State) (k : Group), exec i s = .next t ∧ t.group? c.g = some k ∧
        LeavesRest c s t k (d.cells c.h.sup c.x (laneList c.exec)) 0) ∧
    (∀ i r d os, floatRow i = some r → c.h.enables &&& 0x1F = 0 →
      Passes c (c.planV r.op r.f (r.fields.ok r.f && r.legal) (vUses r.f.ty.toNat r.sources r.f) []) (d :: os) →
      ∃ (t : State) (k : Group) (flags : Nat), exec i s = .next t ∧ t.group? c.g = some k ∧ flags < 32 ∧
        LeavesRest c s t k (d.cells c.h.sup c.x (laneList c.exec)) flags)
end

