-- ==== Sys2Proof/Laws/State.lean ====
section
/-!
SUPPORT. The fields of State after each of its updates.
-/
namespace Sys2Proof.Machine

section Fields
variable (s : State)

@[simp] theorem State.modBlock_turn (b : Nat) (f : Block → Block) : (s.modBlock b f).turn = s.turn := rfl
@[simp] theorem State.modBlock_issuer (b : Nat) (f : Block → Block) : (s.modBlock b f).issuer = s.issuer := rfl
@[simp] theorem State.modBlock_fresh (b : Nat) (f : Block → Block) : (s.modBlock b f).fresh = s.fresh := rfl
@[simp] theorem State.modBlock_time (b : Nat) (f : Block → Block) : (s.modBlock b f).time = s.time := rfl
@[simp] theorem State.modBlock_tsync (b : Nat) (f : Block → Block) : (s.modBlock b f).tsync = s.tsync := rfl
@[simp] theorem State.modBlock_stage (b : Nat) (f : Block → Block) : (s.modBlock b f).stage = s.stage := rfl
@[simp] theorem State.modBlock_stopped (b : Nat) (f : Block → Block) : (s.modBlock b f).stopped = s.stopped := rfl
@[simp] theorem State.modBlock_attached (b : Nat) (f : Block → Block) : (s.modBlock b f).attached = s.attached := rfl
@[simp] theorem State.modBlock_part (b : Nat) (f : Block → Block) : (s.modBlock b f).part = s.part := rfl
@[simp] theorem State.modBlock_cretire (b : Nat) (f : Block → Block) : (s.modBlock b f).cretire = s.cretire := rfl
@[simp] theorem State.modBlock_powerLimit (b : Nat) (f : Block → Block) : (s.modBlock b f).powerLimit = s.powerLimit := rfl
@[simp] theorem State.modBlock_throttled (b : Nat) (f : Block → Block) : (s.modBlock b f).throttled = s.throttled := rfl
@[simp] theorem State.modBlock_mem (b : Nat) (f : Block → Block) : (s.modBlock b f).mem = s.mem := rfl
@[simp] theorem State.modBlock_poison (b : Nat) (f : Block → Block) : (s.modBlock b f).poison = s.poison := rfl
@[simp] theorem State.modBlock_hostErrs (b : Nat) (f : Block → Block) : (s.modBlock b f).hostErrs = s.hostErrs := rfl
@[simp] theorem State.modBlock_asids (b : Nat) (f : Block → Block) : (s.modBlock b f).asids = s.asids := rfl
@[simp] theorem State.modBlock_tlb (b : Nat) (f : Block → Block) : (s.modBlock b f).tlb = s.tlb := rfl
@[simp] theorem State.modBlock_vifs (b : Nat) (f : Block → Block) : (s.modBlock b f).vifs = s.vifs := rfl
@[simp] theorem State.modBlock_queues (b : Nat) (f : Block → Block) : (s.modBlock b f).queues = s.queues := rfl
@[simp] theorem State.modBlock_served (b : Nat) (f : Block → Block) : (s.modBlock b f).served = s.served := rfl
@[simp] theorem State.modBlock_overflow (b : Nat) (f : Block → Block) : (s.modBlock b f).overflow = s.overflow := rfl
@[simp] theorem State.modBlock_cmds (b : Nat) (f : Block → Block) : (s.modBlock b f).cmds = s.cmds := rfl
@[simp] theorem State.modBlock_rcbs (b : Nat) (f : Block → Block) : (s.modBlock b f).rcbs = s.rcbs := rfl
@[simp] theorem State.modBlock_ballast (b : Nat) (f : Block → Block) : (s.modBlock b f).ballast = s.ballast := rfl
@[simp] theorem State.modBlock_pools (b : Nat) (f : Block → Block) : (s.modBlock b f).pools = s.pools := rfl
@[simp] theorem State.modBlock_codes (b : Nat) (f : Block → Block) : (s.modBlock b f).codes = s.codes := rfl
@[simp] theorem State.modBlock_fwPages (b : Nat) (f : Block → Block) : (s.modBlock b f).fwPages = s.fwPages := rfl
@[simp] theorem State.modBlock_launches (b : Nat) (f : Block → Block) : (s.modBlock b f).launches = s.launches := rfl
@[simp] theorem State.modBlock_cores (b : Nat) (f : Block → Block) : (s.modBlock b f).cores = s.cores := rfl
@[simp] theorem State.modBlock_copies (b : Nat) (f : Block → Block) : (s.modBlock b f).copies = s.copies := rfl
@[simp] theorem State.modBlock_chains (b : Nat) (f : Block → Block) : (s.modBlock b f).chains = s.chains := rfl
@[simp] theorem State.modBlock_sharing (b : Nat) (f : Block → Block) : (s.modBlock b f).sharing = s.sharing := rfl
@[simp] theorem State.modBlock_comms (b : Nat) (f : Block → Block) : (s.modBlock b f).comms = s.comms := rfl
@[simp] theorem State.modBlock_bound (b : Nat) (f : Block → Block) : (s.modBlock b f).bound = s.bound := rfl
@[simp] theorem State.modBlock_firmware (b : Nat) (f : Block → Block) : (s.modBlock b f).firmware = s.firmware := rfl
@[simp] theorem State.modBlock_telem (b : Nat) (f : Block → Block) : (s.modBlock b f).telem = s.telem := rfl
@[simp] theorem State.modBlock_out (b : Nat) (f : Block → Block) : (s.modBlock b f).out = s.out := rfl

@[simp] theorem State.modGroup_turn (g : GRef) (f : Group → Group) : (s.modGroup g f).turn = s.turn := rfl
@[simp] theorem State.modGroup_issuer (g : GRef) (f : Group → Group) : (s.modGroup g f).issuer = s.issuer := rfl
@[simp] theorem State.modGroup_fresh (g : GRef) (f : Group → Group) : (s.modGroup g f).fresh = s.fresh := rfl
@[simp] theorem State.modGroup_time (g : GRef) (f : Group → Group) : (s.modGroup g f).time = s.time := rfl
@[simp] theorem State.modGroup_tsync (g : GRef) (f : Group → Group) : (s.modGroup g f).tsync = s.tsync := rfl
@[simp] theorem State.modGroup_stage (g : GRef) (f : Group → Group) : (s.modGroup g f).stage = s.stage := rfl
@[simp] theorem State.modGroup_stopped (g : GRef) (f : Group → Group) : (s.modGroup g f).stopped = s.stopped := rfl
@[simp] theorem State.modGroup_attached (g : GRef) (f : Group → Group) : (s.modGroup g f).attached = s.attached := rfl
@[simp] theorem State.modGroup_part (g : GRef) (f : Group → Group) : (s.modGroup g f).part = s.part := rfl
@[simp] theorem State.modGroup_cretire (g : GRef) (f : Group → Group) : (s.modGroup g f).cretire = s.cretire := rfl
@[simp] theorem State.modGroup_powerLimit (g : GRef) (f : Group → Group) : (s.modGroup g f).powerLimit = s.powerLimit := rfl
@[simp] theorem State.modGroup_throttled (g : GRef) (f : Group → Group) : (s.modGroup g f).throttled = s.throttled := rfl
@[simp] theorem State.modGroup_mem (g : GRef) (f : Group → Group) : (s.modGroup g f).mem = s.mem := rfl
@[simp] theorem State.modGroup_poison (g : GRef) (f : Group → Group) : (s.modGroup g f).poison = s.poison := rfl
@[simp] theorem State.modGroup_hostErrs (g : GRef) (f : Group → Group) : (s.modGroup g f).hostErrs = s.hostErrs := rfl
@[simp] theorem State.modGroup_asids (g : GRef) (f : Group → Group) : (s.modGroup g f).asids = s.asids := rfl
@[simp] theorem State.modGroup_tlb (g : GRef) (f : Group → Group) : (s.modGroup g f).tlb = s.tlb := rfl
@[simp] theorem State.modGroup_vifs (g : GRef) (f : Group → Group) : (s.modGroup g f).vifs = s.vifs := rfl
@[simp] theorem State.modGroup_queues (g : GRef) (f : Group → Group) : (s.modGroup g f).queues = s.queues := rfl
@[simp] theorem State.modGroup_served (g : GRef) (f : Group → Group) : (s.modGroup g f).served = s.served := rfl
@[simp] theorem State.modGroup_overflow (g : GRef) (f : Group → Group) : (s.modGroup g f).overflow = s.overflow := rfl
@[simp] theorem State.modGroup_cmds (g : GRef) (f : Group → Group) : (s.modGroup g f).cmds = s.cmds := rfl
@[simp] theorem State.modGroup_rcbs (g : GRef) (f : Group → Group) : (s.modGroup g f).rcbs = s.rcbs := rfl
@[simp] theorem State.modGroup_ballast (g : GRef) (f : Group → Group) : (s.modGroup g f).ballast = s.ballast := rfl
@[simp] theorem State.modGroup_pools (g : GRef) (f : Group → Group) : (s.modGroup g f).pools = s.pools := rfl
@[simp] theorem State.modGroup_codes (g : GRef) (f : Group → Group) : (s.modGroup g f).codes = s.codes := rfl
@[simp] theorem State.modGroup_fwPages (g : GRef) (f : Group → Group) : (s.modGroup g f).fwPages = s.fwPages := rfl
@[simp] theorem State.modGroup_launches (g : GRef) (f : Group → Group) : (s.modGroup g f).launches = s.launches := rfl
@[simp] theorem State.modGroup_cores (g : GRef) (f : Group → Group) : (s.modGroup g f).cores = s.cores := rfl
@[simp] theorem State.modGroup_copies (g : GRef) (f : Group → Group) : (s.modGroup g f).copies = s.copies := rfl
@[simp] theorem State.modGroup_chains (g : GRef) (f : Group → Group) : (s.modGroup g f).chains = s.chains := rfl
@[simp] theorem State.modGroup_sharing (g : GRef) (f : Group → Group) : (s.modGroup g f).sharing = s.sharing := rfl
@[simp] theorem State.modGroup_comms (g : GRef) (f : Group → Group) : (s.modGroup g f).comms = s.comms := rfl
@[simp] theorem State.modGroup_bound (g : GRef) (f : Group → Group) : (s.modGroup g f).bound = s.bound := rfl
@[simp] theorem State.modGroup_firmware (g : GRef) (f : Group → Group) : (s.modGroup g f).firmware = s.firmware := rfl
@[simp] theorem State.modGroup_telem (g : GRef) (f : Group → Group) : (s.modGroup g f).telem = s.telem := rfl
@[simp] theorem State.modGroup_out (g : GRef) (f : Group → Group) : (s.modGroup g f).out = s.out := rfl

@[simp] theorem State.modSlot_turn (g : GRef) (x : SlotId) (f : Slot → Slot) : (s.modSlot g x f).turn = s.turn := rfl
@[simp] theorem State.modSlot_issuer (g : GRef) (x : SlotId) (f : Slot → Slot) : (s.modSlot g x f).issuer = s.issuer := rfl
@[simp] theorem State.modSlot_fresh (g : GRef) (x : SlotId) (f : Slot → Slot) : (s.modSlot g x f).fresh = s.fresh := rfl
@[simp] theorem State.modSlot_time (g : GRef) (x : SlotId) (f : Slot → Slot) : (s.modSlot g x f).time = s.time := rfl
@[simp] theorem State.modSlot_tsync (g : GRef) (x : SlotId) (f : Slot → Slot) : (s.modSlot g x f).tsync = s.tsync := rfl
@[simp] theorem State.modSlot_stage (g : GRef) (x : SlotId) (f : Slot → Slot) : (s.modSlot g x f).stage = s.stage := rfl
@[simp] theorem State.modSlot_stopped (g : GRef) (x : SlotId) (f : Slot → Slot) : (s.modSlot g x f).stopped = s.stopped := rfl
@[simp] theorem State.modSlot_attached (g : GRef) (x : SlotId) (f : Slot → Slot) : (s.modSlot g x f).attached = s.attached := rfl
@[simp] theorem State.modSlot_part (g : GRef) (x : SlotId) (f : Slot → Slot) : (s.modSlot g x f).part = s.part := rfl
@[simp] theorem State.modSlot_cretire (g : GRef) (x : SlotId) (f : Slot → Slot) : (s.modSlot g x f).cretire = s.cretire := rfl
@[simp] theorem State.modSlot_powerLimit (g : GRef) (x : SlotId) (f : Slot → Slot) : (s.modSlot g x f).powerLimit = s.powerLimit := rfl
@[simp] theorem State.modSlot_throttled (g : GRef) (x : SlotId) (f : Slot → Slot) : (s.modSlot g x f).throttled = s.throttled := rfl
@[simp] theorem State.modSlot_mem (g : GRef) (x : SlotId) (f : Slot → Slot) : (s.modSlot g x f).mem = s.mem := rfl
@[simp] theorem State.modSlot_poison (g : GRef) (x : SlotId) (f : Slot → Slot) : (s.modSlot g x f).poison = s.poison := rfl
@[simp] theorem State.modSlot_hostErrs (g : GRef) (x : SlotId) (f : Slot → Slot) : (s.modSlot g x f).hostErrs = s.hostErrs := rfl
@[simp] theorem State.modSlot_asids (g : GRef) (x : SlotId) (f : Slot → Slot) : (s.modSlot g x f).asids = s.asids := rfl
@[simp] theorem State.modSlot_tlb (g : GRef) (x : SlotId) (f : Slot → Slot) : (s.modSlot g x f).tlb = s.tlb := rfl
@[simp] theorem State.modSlot_vifs (g : GRef) (x : SlotId) (f : Slot → Slot) : (s.modSlot g x f).vifs = s.vifs := rfl
@[simp] theorem State.modSlot_queues (g : GRef) (x : SlotId) (f : Slot → Slot) : (s.modSlot g x f).queues = s.queues := rfl
@[simp] theorem State.modSlot_served (g : GRef) (x : SlotId) (f : Slot → Slot) : (s.modSlot g x f).served = s.served := rfl
@[simp] theorem State.modSlot_overflow (g : GRef) (x : SlotId) (f : Slot → Slot) : (s.modSlot g x f).overflow = s.overflow := rfl
@[simp] theorem State.modSlot_cmds (g : GRef) (x : SlotId) (f : Slot → Slot) : (s.modSlot g x f).cmds = s.cmds := rfl
@[simp] theorem State.modSlot_rcbs (g : GRef) (x : SlotId) (f : Slot → Slot) : (s.modSlot g x f).rcbs = s.rcbs := rfl
@[simp] theorem State.modSlot_ballast (g : GRef) (x : SlotId) (f : Slot → Slot) : (s.modSlot g x f).ballast = s.ballast := rfl
@[simp] theorem State.modSlot_pools (g : GRef) (x : SlotId) (f : Slot → Slot) : (s.modSlot g x f).pools = s.pools := rfl
@[simp] theorem State.modSlot_codes (g : GRef) (x : SlotId) (f : Slot → Slot) : (s.modSlot g x f).codes = s.codes := rfl
@[simp] theorem State.modSlot_fwPages (g : GRef) (x : SlotId) (f : Slot → Slot) : (s.modSlot g x f).fwPages = s.fwPages := rfl
@[simp] theorem State.modSlot_launches (g : GRef) (x : SlotId) (f : Slot → Slot) : (s.modSlot g x f).launches = s.launches := rfl
@[simp] theorem State.modSlot_cores (g : GRef) (x : SlotId) (f : Slot → Slot) : (s.modSlot g x f).cores = s.cores := rfl
@[simp] theorem State.modSlot_copies (g : GRef) (x : SlotId) (f : Slot → Slot) : (s.modSlot g x f).copies = s.copies := rfl
@[simp] theorem State.modSlot_chains (g : GRef) (x : SlotId) (f : Slot → Slot) : (s.modSlot g x f).chains = s.chains := rfl
@[simp] theorem State.modSlot_sharing (g : GRef) (x : SlotId) (f : Slot → Slot) : (s.modSlot g x f).sharing = s.sharing := rfl
@[simp] theorem State.modSlot_comms (g : GRef) (x : SlotId) (f : Slot → Slot) : (s.modSlot g x f).comms = s.comms := rfl
@[simp] theorem State.modSlot_bound (g : GRef) (x : SlotId) (f : Slot → Slot) : (s.modSlot g x f).bound = s.bound := rfl
@[simp] theorem State.modSlot_firmware (g : GRef) (x : SlotId) (f : Slot → Slot) : (s.modSlot g x f).firmware = s.firmware := rfl
@[simp] theorem State.modSlot_telem (g : GRef) (x : SlotId) (f : Slot → Slot) : (s.modSlot g x f).telem = s.telem := rfl
@[simp] theorem State.modSlot_out (g : GRef) (x : SlotId) (f : Slot → Slot) : (s.modSlot g x f).out = s.out := rfl

@[simp] theorem State.modLaunch_turn (l : Nat) (f : Launch → Launch) : (s.modLaunch l f).turn = s.turn := rfl
@[simp] theorem State.modLaunch_issuer (l : Nat) (f : Launch → Launch) : (s.modLaunch l f).issuer = s.issuer := rfl
@[simp] theorem State.modLaunch_fresh (l : Nat) (f : Launch → Launch) : (s.modLaunch l f).fresh = s.fresh := rfl
@[simp] theorem State.modLaunch_time (l : Nat) (f : Launch → Launch) : (s.modLaunch l f).time = s.time := rfl
@[simp] theorem State.modLaunch_tsync (l : Nat) (f : Launch → Launch) : (s.modLaunch l f).tsync = s.tsync := rfl
@[simp] theorem State.modLaunch_stage (l : Nat) (f : Launch → Launch) : (s.modLaunch l f).stage = s.stage := rfl
@[simp] theorem State.modLaunch_stopped (l : Nat) (f : Launch → Launch) : (s.modLaunch l f).stopped = s.stopped := rfl
@[simp] theorem State.modLaunch_attached (l : Nat) (f : Launch → Launch) : (s.modLaunch l f).attached = s.attached := rfl
@[simp] theorem State.modLaunch_part (l : Nat) (f : Launch → Launch) : (s.modLaunch l f).part = s.part := rfl
@[simp] theorem State.modLaunch_cretire (l : Nat) (f : Launch → Launch) : (s.modLaunch l f).cretire = s.cretire := rfl
@[simp] theorem State.modLaunch_powerLimit (l : Nat) (f : Launch → Launch) : (s.modLaunch l f).powerLimit = s.powerLimit := rfl
@[simp] theorem State.modLaunch_throttled (l : Nat) (f : Launch → Launch) : (s.modLaunch l f).throttled = s.throttled := rfl
@[simp] theorem State.modLaunch_mem (l : Nat) (f : Launch → Launch) : (s.modLaunch l f).mem = s.mem := rfl
@[simp] theorem State.modLaunch_poison (l : Nat) (f : Launch → Launch) : (s.modLaunch l f).poison = s.poison := rfl
@[simp] theorem State.modLaunch_hostErrs (l : Nat) (f : Launch → Launch) : (s.modLaunch l f).hostErrs = s.hostErrs := rfl
@[simp] theorem State.modLaunch_asids (l : Nat) (f : Launch → Launch) : (s.modLaunch l f).asids = s.asids := rfl
@[simp] theorem State.modLaunch_tlb (l : Nat) (f : Launch → Launch) : (s.modLaunch l f).tlb = s.tlb := rfl
@[simp] theorem State.modLaunch_vifs (l : Nat) (f : Launch → Launch) : (s.modLaunch l f).vifs = s.vifs := rfl
@[simp] theorem State.modLaunch_queues (l : Nat) (f : Launch → Launch) : (s.modLaunch l f).queues = s.queues := rfl
@[simp] theorem State.modLaunch_served (l : Nat) (f : Launch → Launch) : (s.modLaunch l f).served = s.served := rfl
@[simp] theorem State.modLaunch_overflow (l : Nat) (f : Launch → Launch) : (s.modLaunch l f).overflow = s.overflow := rfl
@[simp] theorem State.modLaunch_cmds (l : Nat) (f : Launch → Launch) : (s.modLaunch l f).cmds = s.cmds := rfl
@[simp] theorem State.modLaunch_rcbs (l : Nat) (f : Launch → Launch) : (s.modLaunch l f).rcbs = s.rcbs := rfl
@[simp] theorem State.modLaunch_ballast (l : Nat) (f : Launch → Launch) : (s.modLaunch l f).ballast = s.ballast := rfl
@[simp] theorem State.modLaunch_pools (l : Nat) (f : Launch → Launch) : (s.modLaunch l f).pools = s.pools := rfl
@[simp] theorem State.modLaunch_codes (l : Nat) (f : Launch → Launch) : (s.modLaunch l f).codes = s.codes := rfl
@[simp] theorem State.modLaunch_fwPages (l : Nat) (f : Launch → Launch) : (s.modLaunch l f).fwPages = s.fwPages := rfl
@[simp] theorem State.modLaunch_blocks (l : Nat) (f : Launch → Launch) : (s.modLaunch l f).blocks = s.blocks := rfl
@[simp] theorem State.modLaunch_cores (l : Nat) (f : Launch → Launch) : (s.modLaunch l f).cores = s.cores := rfl
@[simp] theorem State.modLaunch_copies (l : Nat) (f : Launch → Launch) : (s.modLaunch l f).copies = s.copies := rfl
@[simp] theorem State.modLaunch_chains (l : Nat) (f : Launch → Launch) : (s.modLaunch l f).chains = s.chains := rfl
@[simp] theorem State.modLaunch_sharing (l : Nat) (f : Launch → Launch) : (s.modLaunch l f).sharing = s.sharing := rfl
@[simp] theorem State.modLaunch_comms (l : Nat) (f : Launch → Launch) : (s.modLaunch l f).comms = s.comms := rfl
@[simp] theorem State.modLaunch_bound (l : Nat) (f : Launch → Launch) : (s.modLaunch l f).bound = s.bound := rfl
@[simp] theorem State.modLaunch_firmware (l : Nat) (f : Launch → Launch) : (s.modLaunch l f).firmware = s.firmware := rfl
@[simp] theorem State.modLaunch_telem (l : Nat) (f : Launch → Launch) : (s.modLaunch l f).telem = s.telem := rfl
@[simp] theorem State.modLaunch_out (l : Nat) (f : Launch → Launch) : (s.modLaunch l f).out = s.out := rfl

@[simp] theorem State.modCore_turn (c : Nat) (f : Core → Core) : (s.modCore c f).turn = s.turn := rfl
@[simp] theorem State.modCore_issuer (c : Nat) (f : Core → Core) : (s.modCore c f).issuer = s.issuer := rfl
@[simp] theorem State.modCore_fresh (c : Nat) (f : Core → Core) : (s.modCore c f).fresh = s.fresh := rfl
@[simp] theorem State.modCore_time (c : Nat) (f : Core → Core) : (s.modCore c f).time = s.time := rfl
@[simp] theorem State.modCore_tsync (c : Nat) (f : Core → Core) : (s.modCore c f).tsync = s.tsync := rfl
@[simp] theorem State.modCore_stage (c : Nat) (f : Core → Core) : (s.modCore c f).stage = s.stage := rfl
@[simp] theorem State.modCore_stopped (c : Nat) (f : Core → Core) : (s.modCore c f).stopped = s.stopped := rfl
@[simp] theorem State.modCore_attached (c : Nat) (f : Core → Core) : (s.modCore c f).attached = s.attached := rfl
@[simp] theorem State.modCore_part (c : Nat) (f : Core → Core) : (s.modCore c f).part = s.part := rfl
@[simp] theorem State.modCore_cretire (c : Nat) (f : Core → Core) : (s.modCore c f).cretire = s.cretire := rfl
@[simp] theorem State.modCore_powerLimit (c : Nat) (f : Core → Core) : (s.modCore c f).powerLimit = s.powerLimit := rfl
@[simp] theorem State.modCore_throttled (c : Nat) (f : Core → Core) : (s.modCore c f).throttled = s.throttled := rfl
@[simp] theorem State.modCore_mem (c : Nat) (f : Core → Core) : (s.modCore c f).mem = s.mem := rfl
@[simp] theorem State.modCore_poison (c : Nat) (f : Core → Core) : (s.modCore c f).poison = s.poison := rfl
@[simp] theorem State.modCore_hostErrs (c : Nat) (f : Core → Core) : (s.modCore c f).hostErrs = s.hostErrs := rfl
@[simp] theorem State.modCore_asids (c : Nat) (f : Core → Core) : (s.modCore c f).asids = s.asids := rfl
@[simp] theorem State.modCore_tlb (c : Nat) (f : Core → Core) : (s.modCore c f).tlb = s.tlb := rfl
@[simp] theorem State.modCore_vifs (c : Nat) (f : Core → Core) : (s.modCore c f).vifs = s.vifs := rfl
@[simp] theorem State.modCore_queues (c : Nat) (f : Core → Core) : (s.modCore c f).queues = s.queues := rfl
@[simp] theorem State.modCore_served (c : Nat) (f : Core → Core) : (s.modCore c f).served = s.served := rfl
@[simp] theorem State.modCore_overflow (c : Nat) (f : Core → Core) : (s.modCore c f).overflow = s.overflow := rfl
@[simp] theorem State.modCore_cmds (c : Nat) (f : Core → Core) : (s.modCore c f).cmds = s.cmds := rfl
@[simp] theorem State.modCore_rcbs (c : Nat) (f : Core → Core) : (s.modCore c f).rcbs = s.rcbs := rfl
@[simp] theorem State.modCore_ballast (c : Nat) (f : Core → Core) : (s.modCore c f).ballast = s.ballast := rfl
@[simp] theorem State.modCore_pools (c : Nat) (f : Core → Core) : (s.modCore c f).pools = s.pools := rfl
@[simp] theorem State.modCore_codes (c : Nat) (f : Core → Core) : (s.modCore c f).codes = s.codes := rfl
@[simp] theorem State.modCore_fwPages (c : Nat) (f : Core → Core) : (s.modCore c f).fwPages = s.fwPages := rfl
@[simp] theorem State.modCore_launches (c : Nat) (f : Core → Core) : (s.modCore c f).launches = s.launches := rfl
@[simp] theorem State.modCore_blocks (c : Nat) (f : Core → Core) : (s.modCore c f).blocks = s.blocks := rfl
@[simp] theorem State.modCore_copies (c : Nat) (f : Core → Core) : (s.modCore c f).copies = s.copies := rfl
@[simp] theorem State.modCore_chains (c : Nat) (f : Core → Core) : (s.modCore c f).chains = s.chains := rfl
@[simp] theorem State.modCore_sharing (c : Nat) (f : Core → Core) : (s.modCore c f).sharing = s.sharing := rfl
@[simp] theorem State.modCore_comms (c : Nat) (f : Core → Core) : (s.modCore c f).comms = s.comms := rfl
@[simp] theorem State.modCore_bound (c : Nat) (f : Core → Core) : (s.modCore c f).bound = s.bound := rfl
@[simp] theorem State.modCore_firmware (c : Nat) (f : Core → Core) : (s.modCore c f).firmware = s.firmware := rfl
@[simp] theorem State.modCore_telem (c : Nat) (f : Core → Core) : (s.modCore c f).telem = s.telem := rfl
@[simp] theorem State.modCore_out (c : Nat) (f : Core → Core) : (s.modCore c f).out = s.out := rfl

@[simp] theorem State.modCopy_turn (c : Nat) (f : Copy → Copy) : (s.modCopy c f).turn = s.turn := rfl
@[simp] theorem State.modCopy_issuer (c : Nat) (f : Copy → Copy) : (s.modCopy c f).issuer = s.issuer := rfl
@[simp] theorem State.modCopy_fresh (c : Nat) (f : Copy → Copy) : (s.modCopy c f).fresh = s.fresh := rfl
@[simp] theorem State.modCopy_time (c : Nat) (f : Copy → Copy) : (s.modCopy c f).time = s.time := rfl
@[simp] theorem State.modCopy_tsync (c : Nat) (f : Copy → Copy) : (s.modCopy c f).tsync = s.tsync := rfl
@[simp] theorem State.modCopy_stage (c : Nat) (f : Copy → Copy) : (s.modCopy c f).stage = s.stage := rfl
@[simp] theorem State.modCopy_stopped (c : Nat) (f : Copy → Copy) : (s.modCopy c f).stopped = s.stopped := rfl
@[simp] theorem State.modCopy_attached (c : Nat) (f : Copy → Copy) : (s.modCopy c f).attached = s.attached := rfl
@[simp] theorem State.modCopy_part (c : Nat) (f : Copy → Copy) : (s.modCopy c f).part = s.part := rfl
@[simp] theorem State.modCopy_cretire (c : Nat) (f : Copy → Copy) : (s.modCopy c f).cretire = s.cretire := rfl
@[simp] theorem State.modCopy_powerLimit (c : Nat) (f : Copy → Copy) : (s.modCopy c f).powerLimit = s.powerLimit := rfl
@[simp] theorem State.modCopy_throttled (c : Nat) (f : Copy → Copy) : (s.modCopy c f).throttled = s.throttled := rfl
@[simp] theorem State.modCopy_mem (c : Nat) (f : Copy → Copy) : (s.modCopy c f).mem = s.mem := rfl
@[simp] theorem State.modCopy_poison (c : Nat) (f : Copy → Copy) : (s.modCopy c f).poison = s.poison := rfl
@[simp] theorem State.modCopy_hostErrs (c : Nat) (f : Copy → Copy) : (s.modCopy c f).hostErrs = s.hostErrs := rfl
@[simp] theorem State.modCopy_asids (c : Nat) (f : Copy → Copy) : (s.modCopy c f).asids = s.asids := rfl
@[simp] theorem State.modCopy_tlb (c : Nat) (f : Copy → Copy) : (s.modCopy c f).tlb = s.tlb := rfl
@[simp] theorem State.modCopy_vifs (c : Nat) (f : Copy → Copy) : (s.modCopy c f).vifs = s.vifs := rfl
@[simp] theorem State.modCopy_queues (c : Nat) (f : Copy → Copy) : (s.modCopy c f).queues = s.queues := rfl
@[simp] theorem State.modCopy_served (c : Nat) (f : Copy → Copy) : (s.modCopy c f).served = s.served := rfl
@[simp] theorem State.modCopy_overflow (c : Nat) (f : Copy → Copy) : (s.modCopy c f).overflow = s.overflow := rfl
@[simp] theorem State.modCopy_cmds (c : Nat) (f : Copy → Copy) : (s.modCopy c f).cmds = s.cmds := rfl
@[simp] theorem State.modCopy_rcbs (c : Nat) (f : Copy → Copy) : (s.modCopy c f).rcbs = s.rcbs := rfl
@[simp] theorem State.modCopy_ballast (c : Nat) (f : Copy → Copy) : (s.modCopy c f).ballast = s.ballast := rfl
@[simp] theorem State.modCopy_pools (c : Nat) (f : Copy → Copy) : (s.modCopy c f).pools = s.pools := rfl
@[simp] theorem State.modCopy_codes (c : Nat) (f : Copy → Copy) : (s.modCopy c f).codes = s.codes := rfl
@[simp] theorem State.modCopy_fwPages (c : Nat) (f : Copy → Copy) : (s.modCopy c f).fwPages = s.fwPages := rfl
@[simp] theorem State.modCopy_launches (c : Nat) (f : Copy → Copy) : (s.modCopy c f).launches = s.launches := rfl
@[simp] theorem State.modCopy_blocks (c : Nat) (f : Copy → Copy) : (s.modCopy c f).blocks = s.blocks := rfl
@[simp] theorem State.modCopy_cores (c : Nat) (f : Copy → Copy) : (s.modCopy c f).cores = s.cores := rfl
@[simp] theorem State.modCopy_chains (c : Nat) (f : Copy → Copy) : (s.modCopy c f).chains = s.chains := rfl
@[simp] theorem State.modCopy_sharing (c : Nat) (f : Copy → Copy) : (s.modCopy c f).sharing = s.sharing := rfl
@[simp] theorem State.modCopy_comms (c : Nat) (f : Copy → Copy) : (s.modCopy c f).comms = s.comms := rfl
@[simp] theorem State.modCopy_bound (c : Nat) (f : Copy → Copy) : (s.modCopy c f).bound = s.bound := rfl
@[simp] theorem State.modCopy_firmware (c : Nat) (f : Copy → Copy) : (s.modCopy c f).firmware = s.firmware := rfl
@[simp] theorem State.modCopy_telem (c : Nat) (f : Copy → Copy) : (s.modCopy c f).telem = s.telem := rfl
@[simp] theorem State.modCopy_out (c : Nat) (f : Copy → Copy) : (s.modCopy c f).out = s.out := rfl

@[simp] theorem State.modVif_turn (v : Nat) (f : Vif → Vif) : (s.modVif v f).turn = s.turn := rfl
@[simp] theorem State.modVif_issuer (v : Nat) (f : Vif → Vif) : (s.modVif v f).issuer = s.issuer := rfl
@[simp] theorem State.modVif_fresh (v : Nat) (f : Vif → Vif) : (s.modVif v f).fresh = s.fresh := rfl
@[simp] theorem State.modVif_time (v : Nat) (f : Vif → Vif) : (s.modVif v f).time = s.time := rfl
@[simp] theorem State.modVif_tsync (v : Nat) (f : Vif → Vif) : (s.modVif v f).tsync = s.tsync := rfl
@[simp] theorem State.modVif_stage (v : Nat) (f : Vif → Vif) : (s.modVif v f).stage = s.stage := rfl
@[simp] theorem State.modVif_stopped (v : Nat) (f : Vif → Vif) : (s.modVif v f).stopped = s.stopped := rfl
@[simp] theorem State.modVif_attached (v : Nat) (f : Vif → Vif) : (s.modVif v f).attached = s.attached := rfl
@[simp] theorem State.modVif_part (v : Nat) (f : Vif → Vif) : (s.modVif v f).part = s.part := rfl
@[simp] theorem State.modVif_cretire (v : Nat) (f : Vif → Vif) : (s.modVif v f).cretire = s.cretire := rfl
@[simp] theorem State.modVif_powerLimit (v : Nat) (f : Vif → Vif) : (s.modVif v f).powerLimit = s.powerLimit := rfl
@[simp] theorem State.modVif_throttled (v : Nat) (f : Vif → Vif) : (s.modVif v f).throttled = s.throttled := rfl
@[simp] theorem State.modVif_mem (v : Nat) (f : Vif → Vif) : (s.modVif v f).mem = s.mem := rfl
@[simp] theorem State.modVif_poison (v : Nat) (f : Vif → Vif) : (s.modVif v f).poison = s.poison := rfl
@[simp] theorem State.modVif_hostErrs (v : Nat) (f : Vif → Vif) : (s.modVif v f).hostErrs = s.hostErrs := rfl
@[simp] theorem State.modVif_asids (v : Nat) (f : Vif → Vif) : (s.modVif v f).asids = s.asids := rfl
@[simp] theorem State.modVif_tlb (v : Nat) (f : Vif → Vif) : (s.modVif v f).tlb = s.tlb := rfl
@[simp] theorem State.modVif_queues (v : Nat) (f : Vif → Vif) : (s.modVif v f).queues = s.queues := rfl
@[simp] theorem State.modVif_served (v : Nat) (f : Vif → Vif) : (s.modVif v f).served = s.served := rfl
@[simp] theorem State.modVif_overflow (v : Nat) (f : Vif → Vif) : (s.modVif v f).overflow = s.overflow := rfl
@[simp] theorem State.modVif_cmds (v : Nat) (f : Vif → Vif) : (s.modVif v f).cmds = s.cmds := rfl
@[simp] theorem State.modVif_rcbs (v : Nat) (f : Vif → Vif) : (s.modVif v f).rcbs = s.rcbs := rfl
@[simp] theorem State.modVif_ballast (v : Nat) (f : Vif → Vif) : (s.modVif v f).ballast = s.ballast := rfl
@[simp] theorem State.modVif_pools (v : Nat) (f : Vif → Vif) : (s.modVif v f).pools = s.pools := rfl
@[simp] theorem State.modVif_codes (v : Nat) (f : Vif → Vif) : (s.modVif v f).codes = s.codes := rfl
@[simp] theorem State.modVif_fwPages (v : Nat) (f : Vif → Vif) : (s.modVif v f).fwPages = s.fwPages := rfl
@[simp] theorem State.modVif_launches (v : Nat) (f : Vif → Vif) : (s.modVif v f).launches = s.launches := rfl
@[simp] theorem State.modVif_blocks (v : Nat) (f : Vif → Vif) : (s.modVif v f).blocks = s.blocks := rfl
@[simp] theorem State.modVif_cores (v : Nat) (f : Vif → Vif) : (s.modVif v f).cores = s.cores := rfl
@[simp] theorem State.modVif_copies (v : Nat) (f : Vif → Vif) : (s.modVif v f).copies = s.copies := rfl
@[simp] theorem State.modVif_chains (v : Nat) (f : Vif → Vif) : (s.modVif v f).chains = s.chains := rfl
@[simp] theorem State.modVif_sharing (v : Nat) (f : Vif → Vif) : (s.modVif v f).sharing = s.sharing := rfl
@[simp] theorem State.modVif_comms (v : Nat) (f : Vif → Vif) : (s.modVif v f).comms = s.comms := rfl
@[simp] theorem State.modVif_bound (v : Nat) (f : Vif → Vif) : (s.modVif v f).bound = s.bound := rfl
@[simp] theorem State.modVif_firmware (v : Nat) (f : Vif → Vif) : (s.modVif v f).firmware = s.firmware := rfl
@[simp] theorem State.modVif_telem (v : Nat) (f : Vif → Vif) : (s.modVif v f).telem = s.telem := rfl
@[simp] theorem State.modVif_out (v : Nat) (f : Vif → Vif) : (s.modVif v f).out = s.out := rfl

@[simp] theorem State.setDepth_turn (g : GRef) (d : Nat) : (s.setDepth g d).turn = s.turn := rfl
@[simp] theorem State.setDepth_issuer (g : GRef) (d : Nat) : (s.setDepth g d).issuer = s.issuer := rfl
@[simp] theorem State.setDepth_fresh (g : GRef) (d : Nat) : (s.setDepth g d).fresh = s.fresh := rfl
@[simp] theorem State.setDepth_time (g : GRef) (d : Nat) : (s.setDepth g d).time = s.time := rfl
@[simp] theorem State.setDepth_tsync (g : GRef) (d : Nat) : (s.setDepth g d).tsync = s.tsync := rfl
@[simp] theorem State.setDepth_stage (g : GRef) (d : Nat) : (s.setDepth g d).stage = s.stage := rfl
@[simp] theorem State.setDepth_stopped (g : GRef) (d : Nat) : (s.setDepth g d).stopped = s.stopped := rfl
@[simp] theorem State.setDepth_attached (g : GRef) (d : Nat) : (s.setDepth g d).attached = s.attached := rfl
@[simp] theorem State.setDepth_part (g : GRef) (d : Nat) : (s.setDepth g d).part = s.part := rfl
@[simp] theorem State.setDepth_cretire (g : GRef) (d : Nat) : (s.setDepth g d).cretire = s.cretire := rfl
@[simp] theorem State.setDepth_powerLimit (g : GRef) (d : Nat) : (s.setDepth g d).powerLimit = s.powerLimit := rfl
@[simp] theorem State.setDepth_throttled (g : GRef) (d : Nat) : (s.setDepth g d).throttled = s.throttled := rfl
@[simp] theorem State.setDepth_mem (g : GRef) (d : Nat) : (s.setDepth g d).mem = s.mem := rfl
@[simp] theorem State.setDepth_poison (g : GRef) (d : Nat) : (s.setDepth g d).poison = s.poison := rfl
@[simp] theorem State.setDepth_hostErrs (g : GRef) (d : Nat) : (s.setDepth g d).hostErrs = s.hostErrs := rfl
@[simp] theorem State.setDepth_asids (g : GRef) (d : Nat) : (s.setDepth g d).asids = s.asids := rfl
@[simp] theorem State.setDepth_tlb (g : GRef) (d : Nat) : (s.setDepth g d).tlb = s.tlb := rfl
@[simp] theorem State.setDepth_vifs (g : GRef) (d : Nat) : (s.setDepth g d).vifs = s.vifs := rfl
@[simp] theorem State.setDepth_queues (g : GRef) (d : Nat) : (s.setDepth g d).queues = s.queues := rfl
@[simp] theorem State.setDepth_served (g : GRef) (d : Nat) : (s.setDepth g d).served = s.served := rfl
@[simp] theorem State.setDepth_overflow (g : GRef) (d : Nat) : (s.setDepth g d).overflow = s.overflow := rfl
@[simp] theorem State.setDepth_cmds (g : GRef) (d : Nat) : (s.setDepth g d).cmds = s.cmds := rfl
@[simp] theorem State.setDepth_rcbs (g : GRef) (d : Nat) : (s.setDepth g d).rcbs = s.rcbs := rfl
@[simp] theorem State.setDepth_ballast (g : GRef) (d : Nat) : (s.setDepth g d).ballast = s.ballast := rfl
@[simp] theorem State.setDepth_pools (g : GRef) (d : Nat) : (s.setDepth g d).pools = s.pools := rfl
@[simp] theorem State.setDepth_codes (g : GRef) (d : Nat) : (s.setDepth g d).codes = s.codes := rfl
@[simp] theorem State.setDepth_fwPages (g : GRef) (d : Nat) : (s.setDepth g d).fwPages = s.fwPages := rfl
@[simp] theorem State.setDepth_launches (g : GRef) (d : Nat) : (s.setDepth g d).launches = s.launches := rfl
@[simp] theorem State.setDepth_cores (g : GRef) (d : Nat) : (s.setDepth g d).cores = s.cores := rfl
@[simp] theorem State.setDepth_copies (g : GRef) (d : Nat) : (s.setDepth g d).copies = s.copies := rfl
@[simp] theorem State.setDepth_chains (g : GRef) (d : Nat) : (s.setDepth g d).chains = s.chains := rfl
@[simp] theorem State.setDepth_sharing (g : GRef) (d : Nat) : (s.setDepth g d).sharing = s.sharing := rfl
@[simp] theorem State.setDepth_comms (g : GRef) (d : Nat) : (s.setDepth g d).comms = s.comms := rfl
@[simp] theorem State.setDepth_bound (g : GRef) (d : Nat) : (s.setDepth g d).bound = s.bound := rfl
@[simp] theorem State.setDepth_firmware (g : GRef) (d : Nat) : (s.setDepth g d).firmware = s.firmware := rfl
@[simp] theorem State.setDepth_telem (g : GRef) (d : Nat) : (s.setDepth g d).telem = s.telem := rfl
@[simp] theorem State.setDepth_out (g : GRef) (d : Nat) : (s.setDepth g d).out = s.out := rfl

end Fields

end Sys2Proof.Machine
end

