-- ==== Sys2Proof/Laws/Table.lean ====
section
/-!
SUPPORT. The laws of sparse tables and of memory: a read after a write, and that every operation keeps the canonical
form.
-/
namespace Sys2Proof.Machine

section Assoc
variable {α : Type} [DecidableEq α] {d : Nat → α}

theorem assocGet_set (m : List (Nat × α)) (k j : Nat) (v : α) (h : assocWfBy d m = true) :
    assocGet (d j) (assocSet (d k) m k v) j = if j = k then v else assocGet (d j) m j := by
  induction m with
  | nil =>
    by_cases hv : v = d k
    · by_cases hj : j = k <;> simp [assocSet, assocGet, hv, hj]
    · simp [assocSet, assocGet, hv]
  | cons p r ih =>
    obtain ⟨a, x⟩ := p
    simp only [assocWfBy, Bool.and_eq_true, List.all_eq_true, decide_eq_true_eq] at h
    obtain ⟨⟨hx, hr⟩, hw⟩ := h
    have above : ∀ i, i ≤ a → assocGet (d i) r i = d i := by
      intro i hi
      clear ih hw
      induction r with
      | nil => rfl
      | cons q t iht =>
        have hq := hr q (by simp)
        simp only [assocGet]
        rw [if_neg (by omega)]
        exact iht fun y hy => hr y (List.mem_cons_of_mem _ hy)
    simp only [assocSet]
    split
    · rename_i hk
      by_cases hv : v = d k
      · simp only [hv, if_true]
        by_cases hj : j = k
        · subst hj
          simp only [assocGet, if_true]
          rw [if_neg (by omega), above j (by omega)]
        · simp [hj]
      · simp only [hv, if_false, assocGet]
    · split
      · rename_i hk
        subst hk
        by_cases hv : v = d k
        · simp only [hv, if_true]
          by_cases hj : j = k
          · subst hj
            simp [above]
          · simp [assocGet, hj]
        · simp only [hv, if_false, assocGet]
          by_cases hj : j = k <;> simp [hj]
      · rename_i h1 h2
        simp only [assocGet]
        by_cases hj : j = a
        · subst hj
          rw [if_pos rfl, if_neg (by omega), if_pos rfl]
        · rw [if_neg hj, ih hw, if_neg hj]

theorem assocSet_above (m : List (Nat × α)) (b k : Nat) (v : α)
    (h : m.all (fun p => b < p.1) = true) (hk : b < k) : (assocSet (d k) m k v).all (fun p => b < p.1) = true := by
  induction m with
  | nil => by_cases hv : v = d k <;> simp [assocSet, hv, hk]
  | cons p r ih =>
    obtain ⟨a, x⟩ := p
    simp only [List.all_cons, Bool.and_eq_true] at h
    simp only [assocSet]
    split
    · split <;> simp [h, hk]
    · split
      · split <;> simp [h, hk]
      · simp [h, ih h.2]

/-- A write keeps the canonical form. -/
theorem assocWf_set (m : List (Nat × α)) (k : Nat) (v : α) (h : assocWfBy d m = true) :
    assocWfBy d (assocSet (d k) m k v) = true := by
  induction m with
  | nil => by_cases hv : v = d k <;> simp [assocSet, assocWfBy, hv]
  | cons p r ih =>
    obtain ⟨a, x⟩ := p
    have h0 := h
    simp only [assocWfBy, Bool.and_eq_true, decide_eq_true_eq] at h
    obtain ⟨⟨hx, hr⟩, hw⟩ := h
    simp only [assocSet]
    split
    · rename_i hk
      split
      · exact h0
      · rename_i hv
        have : ((a, x) :: r).all (fun p => k < p.1) = true := by
          simp only [List.all_cons, hk, decide_true, Bool.true_and, List.all_eq_true, decide_eq_true_eq] at hr ⊢
          exact fun q hq => by have := hr q hq; omega
        simp only [assocWfBy, Bool.and_eq_true]
        exact ⟨⟨by simpa using hv, this⟩, ⟨by simpa using hx, hr⟩, hw⟩
    · split
      · rename_i hk
        split
        · exact hw
        · rename_i hv
          simp only [assocWfBy, Bool.and_eq_true]
          exact ⟨⟨by simpa using hv, by subst hk; exact hr⟩, hw⟩
      · rename_i h1 h2
        simp only [assocWfBy, Bool.and_eq_true]
        exact ⟨⟨by simpa using hx, assocSet_above r a k v hr (by omega)⟩, ih hw⟩

/-- Leaving entries out keeps the canonical form. -/
theorem assocWf_filter (m : List (Nat × α)) (p : Nat × α → Bool) (h : assocWfBy d m = true) :
    assocWfBy d (m.filter p) = true := by
  induction m with
  | nil => rfl
  | cons q r ih =>
    obtain ⟨a, x⟩ := q
    simp only [assocWfBy, Bool.and_eq_true] at h
    obtain ⟨⟨hx, hr⟩, hw⟩ := h
    simp only [List.filter_cons]
    split
    · simp only [assocWfBy, Bool.and_eq_true]
      refine ⟨⟨hx, ?_⟩, ih hw⟩
      simp only [List.all_eq_true] at hr ⊢
      exact fun q hq => hr q (List.mem_filter.mp hq).1
    · exact ih hw

end Assoc

theorem Memory.wf_nil : Memory.wf [] = true := rfl

theorem Memory.wf_put (m : Memory) (a : Nat) (b : Byte) (h : m.wf = true) : (m.put a b).wf = true :=
  assocWf_set m a b h

theorem Memory.wf_putAt (ps : List (Nat × Byte)) (m : Memory) (h : m.wf = true) : (m.putAt ps).wf = true := by
  induction ps generalizing m with
  | nil => exact h
  | cons p r ih => exact ih _ (m.wf_put p.1 p.2 h)

theorem Memory.wf_putBytes (m : Memory) (a : Nat) (bs : List Byte) (h : m.wf = true) : (m.putBytes a bs).wf = true :=
  Memory.wf_putAt _ _ h

theorem Memory.wf_putNum (m : Memory) (a n v : Nat) (h : m.wf = true) : (m.putNum a n v).wf = true :=
  Memory.wf_putAt _ _ h

theorem Memory.wf_clear (m : Memory) (lo n : Nat) (h : m.wf = true) : (m.clear lo n).wf = true :=
  Memory.wf_putAt _ _ (assocWf_filter m _ h)

theorem Memory.byte_put (m : Memory) (a j : Nat) (b : Byte) (h : m.wf = true) :
    (m.put a b).byte j = if j = a then b else m.byte j :=
  assocGet_set m a j b h

/-- A byte whose address no pair names reads as before. -/
theorem Memory.byte_putAt_other (ps : List (Nat × Byte)) (m : Memory) (j : Nat) (h : m.wf = true)
    (hj : ∀ p ∈ ps, p.1 ≠ j) : (m.putAt ps).byte j = m.byte j := by
  induction ps generalizing m with
  | nil => rfl
  | cons p r ih =>
    have h1 : (m.put p.1 p.2).byte j = m.byte j := by
      rw [m.byte_put _ _ _ h, if_neg (fun e => hj p (by simp) e.symm)]
    exact (ih _ (m.wf_put _ _ h) fun q hq => hj q (List.mem_cons_of_mem _ hq)).trans h1

/-- A byte reads as the last pair that names its address. -/
theorem Memory.byte_putAt_last (ps : List (Nat × Byte)) (m : Memory) (j : Nat) (b : Byte) (h : m.wf = true)
    : (m.putAt (ps ++ [(j, b)])).byte j = b := by
  induction ps generalizing m with
  | nil =>
    show (m.put j b).byte j = b
    rw [m.byte_put _ _ _ h, if_pos rfl]
  | cons p r ih => exact ih _ (m.wf_put _ _ h)

end Sys2Proof.Machine
end

