-- ==== Sys2Proof/Laws/Access.lean ====
section
/-!
SUPPORT. Reaching the parts of State after an update of one of them.
-/
namespace Sys2Proof.Machine

theorem State.group?_modGroup (s : State) (g : GRef) (f : Group → Group) :
    (s.modGroup g f).group? g = (s.group? g).map f := by
  simp only [State.group?, State.block?, State.modGroup, State.modBlock, List.getElem?_modify, if_pos]
  cases s.blocks[g.bid]? with
  | none => rfl
  | some b => simp [Block.modGroup]

theorem State.group?_modGroup_other (s : State) (g k : GRef) (f : Group → Group) (h : k ≠ g) :
    (s.modGroup g f).group? k = s.group? k := by
  simp only [State.group?, State.block?, State.modGroup, State.modBlock, List.getElem?_modify]
  cases hb : s.blocks[k.bid]? with
  | none => rfl
  | some b =>
    by_cases hbid : g.bid = k.bid
    · have hgid : g.gid ≠ k.gid := fun e => h (by cases g; cases k; simp_all)
      simp [hbid, Block.modGroup, hgid]
    · simp [hbid]

theorem modify_congr {α : Type} (l : List α) (i : Nat) (f k : α → α) (h : ∀ a, l[i]? = some a → f a = k a) :
    l.modify i f = l.modify i k := by
  apply List.ext_getElem?
  intro j
  simp only [List.getElem?_modify]
  by_cases hj : i = j
  · subst hj
    cases ha : l[i]? with
    | none => rfl
    | some a => simp [h a ha]
  · simp [hj]

theorem modify_modify {α : Type} (l : List α) (i : Nat) (f k : α → α) :
    (l.modify i f).modify i k = l.modify i fun a => k (f a) := by
  apply List.ext_getElem?
  intro j
  simp only [List.getElem?_modify]
  by_cases hj : i = j
  · subst hj
    cases l[i]? <;> simp
  · simp [hj]

/-- Two changes of a group one after the other. -/
theorem State.modGroup_modGroup (s : State) (g : GRef) (f k : Group → Group) :
    (s.modGroup g f).modGroup g k = s.modGroup g fun h => k (f h) := by
  simp only [State.modGroup, State.modBlock, modify_modify, Block.modGroup]

/-- Two changes of a group that agree on the group there is. -/
theorem State.modGroup_congr (s : State) (g : GRef) (f k : Group → Group) (h : ∀ a, s.group? g = some a → f a = k a) :
    s.modGroup g f = s.modGroup g k := by
  simp only [State.modGroup, State.modBlock]
  congr 1
  apply modify_congr
  intro b hb
  simp only [Block.modGroup]
  congr 1
  apply modify_congr
  intro a ha
  exact h a (by simp [State.group?, State.block?, hb, ha])

@[simp] theorem Group.slot_modSlot (h : Group) (x : SlotId) (f : Slot → Slot) : (h.modSlot x f).slot x = f (h.slot x) := by
  cases x <;> rfl

@[simp] theorem Group.slot_setSlot (h : Group) (x : SlotId) (v : Slot) : (h.setSlot x v).slot x = v := by
  cases x <;> rfl

theorem Group.slot_modSlot_other (h : Group) (x : SlotId) (f : Slot → Slot) :
    (h.modSlot x f).slot (SlotId.other x) = h.slot (SlotId.other x) := by
  cases x <;> rfl

theorem State.slot?_modSlot (s : State) (g : GRef) (x : SlotId) (f : Slot → Slot) :
    (s.modSlot g x f).slot? g x = (s.slot? g x).map f := by
  simp only [State.slot?, State.modSlot, State.group?_modGroup, Option.map_map]
  congr 1
  funext h
  simp

/-- The context of a slot is its group's place in the state. -/
theorem State.group?_of_ctxOf {s : State} {g : GRef} {x : SlotId} {c : Ctx} (h : s.ctxOf g x = some c) :
    c.g = g ∧ c.x = x ∧ s.group? g = some c.h ∧ s.block? g.bid = some c.b ∧ s.launches[c.b.lid]? = some c.l := by
  simp only [State.ctxOf] at h
  cases hb : s.block? g.bid with
  | none => simp [hb] at h
  | some b =>
    simp only [hb] at h
    split at h
    · rename_i k l hk hl
      simp only [Option.some.injEq] at h
      subst h
      exact ⟨rfl, rfl, by simp [State.group?, hb, hk], rfl, hl⟩
    · simp at h

theorem State.group?_of_ctx {s : State} {c : Ctx} (h : s.ctx? = some c) : s.group? c.g = some c.h := by
  simp only [State.ctx?] at h
  split at h
  · rename_i g x
    obtain ⟨hg, -, hk, -⟩ := State.group?_of_ctxOf h
    rw [hg, hk]
  · simp at h

theorem State.slot?_of_ctx {s : State} {c : Ctx} (h : s.ctx? = some c) : s.slot? c.g c.x = some c.sl := by
  simp [State.slot?, State.group?_of_ctx h, Ctx.sl]

/-- A meaning of a word that a slot issues, in the slot's context. -/
theorem State.issue_of_ctx {s : State} {c : Ctx} (h : s.ctx? = some c) (f : Ctx → State) : s.issue f = .next (f c) := by
  simp [State.issue, h]

end Sys2Proof.Machine
end

