-- ==== Sys2Proof/Laws/Finish.lean ====
section
/-!
SUPPORT. An instruction whose checks pass runs, and one that ends quietly leaves its slot past it.
-/
namespace Sys2Proof.Machine

theorem checked_of_passes {s : State} {c : Ctx} {p : Plan} {os : List Opnd} (h : Passes c p os) (k : List Opnd → State) :
    s.checked c p k = k os := by
  have none_missing : ((os.map some).any Option.isNone) = false := by simp
  have filtered : (os.map some).filterMap id = os := by simp [List.filterMap_map]
  have priv : (p.priv && !c.h.sup) = false := by
    cases hp : p.priv with
    | false => rfl
    | true => simp [h.mode hp]
  have bounds : (os.any fun o => !o.inBounds c.nS c.nV c.h.sup) = false := by
    simp only [List.any_eq_false, Bool.not_eq_true', Bool.not_eq_false]
    exact h.exist
  have old : (c.h.sbchk.getLsbD 0 && (c.readCells p (p.uses.zip os)).any (c.h.stale c.x)) = false := by
    cases hs : c.h.sbchk.getLsbD 0 with
    | false => rfl
    | true =>
      simp only [Bool.true_and, List.any_eq_false]
      exact fun x hx => by simp [h.fresh hs x hx]
  simp only [State.checked, h.named, h.legal, none_missing, filtered, priv, bounds, h.free, old, h.sound, Bool.not_true,
    Bool.or_self, Bool.false_eq_true, if_false]

/-- The group at c.g in a state reached by a change of that group alone. -/
theorem Quiet.group {s : State} {c : Ctx} (q : Quiet s c) (f : Group → Group) :
    (s.modGroup c.g f).group? c.g = some (f c.h) := by
  rw [State.group?_modGroup, State.group?_of_ctx q.issues]
  rfl

/-- A clause ends after its last word, and where there is none. -/
theorem retire_ended (sl : Slot) (r : Retire) : (sl.retire r).2 = sl.clause.all fun k => k.words.length ≤ k.pos + 1 := by
  simp only [Slot.retire]
  cases sl.clause with
  | none => rfl
  | some k =>
    by_cases h : k.pos + 1 < k.words.length
    · simp [h]
    · simp [h, Nat.le_of_not_lt h]

/-- The end of an instruction after a change of its group that leaves the slot's clause, the pending FPEXC and the armed
step as they are. -/
theorem finishWith_of_quiet {s : State} {c : Ctx} (q : Quiet s c) (iword : DWord) (r : Retire) (tail : State → State)
    (f : Group → Group) (hc : ((f c.h).slot c.x).clause = c.sl.clause) (hx : ((f c.h).slot c.x).fpx = none) :
    (s.modGroup c.g f).finishWith c iword r tail =
      (tail (((s.modGroup c.g f).modSlot c.g c.x fun sl => (sl.retire r).1).clauseGoesOn c c.lastWord)).endStep c iword := by
  have hs : (s.modGroup c.g f).slot? c.g c.x = some ((f c.h).slot c.x) := by simp [State.slot?, q.group]
  have hm : ∀ a : Slot → Slot, ((s.modGroup c.g f).modSlot c.g c.x fun _ => a ((f c.h).slot c.x))
      = (s.modGroup c.g f).modSlot c.g c.x a := by
    intro a
    apply State.modGroup_congr
    intro k hk
    rw [q.group] at hk
    cases hk
    rfl
  have last : (((f c.h).slot c.x).retire r).2 = c.lastWord := by rw [retire_ended, hc]; rfl
  have sckFalse : (c.sl.clause.any fun k => k.sck && k.whole && decide (k.sig ≠ (((f c.h).slot c.x).retire r).1.sig))
      = false := by
    cases hk : c.sl.clause with
    | none => rfl
    | some k => simp [q.sck k hk]
  simp only [State.finishWith, hs, hc, hx, sckFalse, Bool.and_false, Bool.false_eq_true, if_false, last]
  rw [hm fun sl => (sl.retire r).1]

/-- No single step is armed, so none ends. -/
theorem endStep_of_off {s : State} {c : Ctx} {iword : DWord} (h : c.h.step = .off) : s.endStep c iword = s := by
  simp [State.endStep, State.endStepAt, h]

/-- The ordinary end of an instruction. -/
theorem finish_of_quiet {s : State} {c : Ctx} (q : Quiet s c) (iword : DWord) (op : BitVec 10) (stl : BitVec 4)
    (next : DWord) (f : Group → Group) (hc : ((f c.h).slot c.x).clause = c.sl.clause)
    (hx : ((f c.h).slot c.x).fpx = none) :
    (s.modGroup c.g f).finish c iword ⟨op, stl, false, next, none⟩ = (s.modGroup c.g f).ended c op stl next := by
  rw [State.finish, finishWith_of_quiet q iword _ id f hc hx]
  exact endStep_of_off q.step

end Sys2Proof.Machine
end

