-- ==== Sys2Proof/Laws/Effect.lean ====
section
/-!
SUPPORT. What the effect of an instruction of classes 0 to 3 leaves of its group, and the instruction's end.
-/
namespace Sys2Proof.Machine

/-- Where a slot stands: its clause, its pending FPEXC, its PC and whether it runs, and the lanes that it owns. -/
def Slot.standing (sl : Slot) : Option Clause × Option Fpx × DWord × SlotSt × Lanes := (sl.clause, sl.fpx, sl.pc, sl.st, sl.own)

/-- A change of a group's registers leaves where its slots stand, and its single step. -/
def KeepsSlots (h k : Group) : Prop := ∀ x, ((k.slot x).standing, k.step) = ((h.slot x).standing, h.step)

theorem KeepsSlots.trans {h k l : Group} (a : KeepsSlots h k) (b : KeepsSlots k l) : KeepsSlots h l := fun x => (b x).trans (a x)

theorem KeepsSlots.clause {h k : Group} (e : KeepsSlots h k) (x : SlotId) : (k.slot x).clause = (h.slot x).clause :=
  congrArg (fun w => w.1.1) (e x)

theorem KeepsSlots.fpx {h k : Group} (e : KeepsSlots h k) (x : SlotId) : (k.slot x).fpx = (h.slot x).fpx :=
  congrArg (fun w => w.1.2.1) (e x)

theorem keepsSlots_setCell (h : Group) (c : RegCell) (v : Word) : KeepsSlots h (h.setCell c v) := by
  intro x
  cases c with
  | exec y w => cases y <;> cases x <;> rfl
  | _ => cases x <;> rfl

theorem keepsSlots_mend (h : Group) (l : List RegCell) : KeepsSlots h (h.mend l) := by
  intro x
  cases x <;> rfl

theorem keepsSlots_setCells (h : Group) (l : List (RegCell × Word)) : KeepsSlots h (h.setCells l) := by
  refine KeepsSlots.trans ?_ (keepsSlots_mend _ _)
  generalize l = m
  induction m generalizing h with
  | nil => exact fun _ => rfl
  | cons p r ih => exact (keepsSlots_setCell h p.1 p.2).trans (ih _)

theorem keepsSlots_setFixed (h : Group) (x : SlotId) (lat : Nat) (l : List (RegCell × Word)) :
    KeepsSlots h (h.setFixed x lat l) := by
  refine KeepsSlots.trans ?_ (keepsSlots_setCells _ l)
  intro y
  cases x <;> cases y <;> rfl

theorem collect_none (sl : Slot) (w : DWord) : sl.collect w 0 = sl := by simp [Slot.collect]

theorem keepsSlots_applyEff (h : Group) (x : SlotId) (w : DWord) (lat : Nat) (e : Eff)
    (he : enabledLanes h.enables e.conds = 0) : KeepsSlots h (h.applyEff x w lat e) := by
  refine (keepsSlots_setFixed h x lat e.writes).trans ?_
  simp only [Group.applyEff, he, collect_none]
  intro y
  cases x <;> cases y <;> rfl

/-- An instruction of classes 0 to 3 whose checks pass and which ends quietly: no trap follows its effect and no enabled
floating-point condition arises. -/
theorem regular_of_passes {s : State} {c : Ctx} {p : Plan} {os : List Opnd} (q : Quiet s c) (h : Passes c p os)
    (op : BitVec 10) (stl : BitVec 4) (lat : Nat) (f : List Opnd → Eff) (ha : (f os).after = none)
    (hc : enabledLanes c.h.enables (f os).conds = 0) :
    s.regular c p op stl lat f = s.withEffect c p.iword op stl lat (f os) := by
  have k := keepsSlots_applyEff c.h c.x p.iword lat (f os) hc
  rw [State.regular, checked_of_passes h]
  simp only [ha, State.finishNext]
  exact finish_of_quiet q p.iword op stl _ _ (k.clause c.x) ((k.fpx c.x).trans q.fpx)

end Sys2Proof.Machine
end

