-- ==== Sys2Proof/Laws/Encoding.lean ====
section
/-!
SUPPORT. Encoding and decoding: each format's fields come back from its word, an opcode from its word, and a word from its
bytes.
-/
namespace Sys2Proof

theorem WordV.ofWord_clauseWord (op : BitVec 10) (f : WordV) : WordV.ofWord (clauseWord op f.bits) = f := by
  cases f
  simp (disch := decide) only [WordV.ofWord, clauseWord, WordV.bits, BitVec.extractLsb'_append_eq_of_add_le,
    BitVec.extractLsb'_append_eq_of_le, BitVec.extractLsb'_eq_self, Nat.reduceSub]

theorem WordVI.ofWord_clauseWord (op : BitVec 10) (f : WordVI) : WordVI.ofWord (clauseWord op f.bits) = f := by
  cases f
  simp (disch := decide) only [WordVI.ofWord, clauseWord, WordVI.bits, BitVec.extractLsb'_append_eq_of_add_le,
    BitVec.extractLsb'_append_eq_of_le, BitVec.extractLsb'_eq_self, Nat.reduceSub]

theorem WordS.ofWord_clauseWord (op : BitVec 10) (f : WordS) : WordS.ofWord (clauseWord op f.bits) = f := by
  cases f
  simp (disch := decide) only [WordS.ofWord, clauseWord, WordS.bits, BitVec.extractLsb'_append_eq_of_add_le,
    BitVec.extractLsb'_append_eq_of_le, BitVec.extractLsb'_eq_self, Nat.reduceSub]

theorem WordSI.ofWord_clauseWord (op : BitVec 10) (f : WordSI) : WordSI.ofWord (clauseWord op f.bits) = f := by
  cases f
  simp (disch := decide) only [WordSI.ofWord, clauseWord, WordSI.bits, BitVec.extractLsb'_append_eq_of_add_le,
    BitVec.extractLsb'_append_eq_of_le, BitVec.extractLsb'_eq_self, Nat.reduceSub]

theorem WordB.ofWord_clauseWord (op : BitVec 10) (f : WordB) : WordB.ofWord (clauseWord op f.bits) = f := by
  cases f
  simp (disch := decide) only [WordB.ofWord, clauseWord, WordB.bits, BitVec.extractLsb'_append_eq_of_add_le,
    BitVec.extractLsb'_append_eq_of_le, BitVec.extractLsb'_eq_self, Nat.reduceSub]

theorem WordM.ofWord_clauseWord (op : BitVec 10) (f : WordM) : WordM.ofWord (clauseWord op f.bits) = f := by
  cases f
  simp (disch := decide) only [WordM.ofWord, clauseWord, WordM.bits, BitVec.extractLsb'_append_eq_of_add_le,
    BitVec.extractLsb'_append_eq_of_le, BitVec.extractLsb'_eq_self, Nat.reduceSub]

theorem WordMA.ofWord_clauseWord (op : BitVec 10) (f : WordMA) : WordMA.ofWord (clauseWord op f.bits) = f := by
  cases f
  simp (disch := decide) only [WordMA.ofWord, clauseWord, WordMA.bits, BitVec.extractLsb'_append_eq_of_add_le,
    BitVec.extractLsb'_append_eq_of_le, BitVec.extractLsb'_eq_self, Nat.reduceSub]

theorem WordC.ofWord_clauseWord (op : BitVec 10) (f : WordC) : WordC.ofWord (clauseWord op f.bits) = f := by
  cases f
  simp (disch := decide) only [WordC.ofWord, clauseWord, WordC.bits, BitVec.extractLsb'_append_eq_of_add_le,
    BitVec.extractLsb'_append_eq_of_le, BitVec.extractLsb'_eq_self, Nat.reduceSub]

theorem WordX.ofWord_clauseWord (op : BitVec 10) (f : WordX) : WordX.ofWord (clauseWord op f.bits) = f := by
  cases f
  simp (disch := decide) only [WordX.ofWord, clauseWord, WordX.bits, BitVec.extractLsb'_append_eq_of_add_le,
    BitVec.extractLsb'_append_eq_of_le, BitVec.extractLsb'_eq_self, Nat.reduceSub]

theorem WordY.ofWord_clauseWord (op : BitVec 10) (f : WordY) : WordY.ofWord (clauseWord op f.bits) = f := by
  cases f
  simp (disch := decide) only [WordY.ofWord, clauseWord, WordY.bits, BitVec.extractLsb'_append_eq_of_add_le,
    BitVec.extractLsb'_append_eq_of_le, BitVec.extractLsb'_eq_self, Nat.reduceSub]

theorem WordMR.ofWord_matrixWord (mop : BitVec 8) (f : WordMR) : WordMR.ofWord (matrixWord mop f.bits) = f := by
  cases f
  simp (disch := decide) only [WordMR.ofWord, matrixWord, WordMR.bits, BitVec.extractLsb'_append_eq_of_add_le,
    BitVec.extractLsb'_append_eq_of_le, BitVec.extractLsb'_eq_self, Nat.reduceSub]

theorem WordMB.ofWord_matrixWord (mop : BitVec 8) (f : WordMB) : WordMB.ofWord (matrixWord mop f.bits) = f := by
  cases f
  simp (disch := decide) only [WordMB.ofWord, matrixWord, WordMB.bits, BitVec.extractLsb'_append_eq_of_add_le,
    BitVec.extractLsb'_append_eq_of_le, BitVec.extractLsb'_eq_self, Nat.reduceSub]

theorem WordMT.ofWord_matrixWord (mop : BitVec 8) (f : WordMT) : WordMT.ofWord (matrixWord mop f.bits) = f := by
  cases f
  simp (disch := decide) only [WordMT.ofWord, matrixWord, WordMT.bits, BitVec.extractLsb'_append_eq_of_add_le,
    BitVec.extractLsb'_append_eq_of_le, BitVec.extractLsb'_eq_self, Nat.reduceSub]

theorem WordMM.ofWord_matrixWord (mop : BitVec 8) (f : WordMM) : WordMM.ofWord (matrixWord mop f.bits) = f := by
  cases f
  simp (disch := decide) only [WordMM.ofWord, matrixWord, WordMM.bits, BitVec.extractLsb'_append_eq_of_add_le,
    BitVec.extractLsb'_append_eq_of_le, BitVec.extractLsb'_eq_self, Nat.reduceSub]

theorem WordMD.ofWord_matrixWord (mop : BitVec 8) (f : WordMD) : WordMD.ofWord (matrixWord mop f.bits) = f := by
  cases f
  simp (disch := decide) only [WordMD.ofWord, matrixWord, WordMD.bits, BitVec.extractLsb'_append_eq_of_add_le,
    BitVec.extractLsb'_append_eq_of_le, BitVec.extractLsb'_eq_self, Nat.reduceSub]

theorem WordME.ofWord_matrixWord (mop : BitVec 8) (f : WordME) : WordME.ofWord (matrixWord mop f.bits) = f := by
  cases f
  simp (disch := decide) only [WordME.ofWord, matrixWord, WordME.bits, BitVec.extractLsb'_append_eq_of_add_le,
    BitVec.extractLsb'_eq_self]

theorem WordH.ofWord_bits (f : WordH) : WordH.ofWord f.bits = f := by
  cases f
  simp (disch := decide) only [WordH.ofWord, WordH.bits, BitVec.extractLsb'_append_eq_of_add_le,
    BitVec.extractLsb'_append_eq_of_le, BitVec.extractLsb'_eq_self, Nat.reduceSub]

theorem opField_clauseWord (op : BitVec 10) (b : BitVec 54) : opField (clauseWord op b) = op.toNat := by
  simp (disch := decide) only [opField, clauseWord, BitVec.extractLsb'_append_eq_of_le, BitVec.extractLsb'_eq_self, Nat.reduceSub]

theorem mopField_matrixWord (mop : BitVec 8) (b : BitVec 56) : mopField (matrixWord mop b) = mop.toNat := by
  simp (disch := decide) only [mopField, matrixWord, BitVec.extractLsb'_append_eq_of_le, BitVec.extractLsb'_eq_self, Nat.reduceSub]

theorem mark_clauseWord (op : BitVec 10) (b : BitVec 54) : (clauseWord op b).extractLsb' 58 6 = op.extractLsb' 4 6 := by
  simp (disch := decide) only [clauseWord, BitVec.extractLsb'_append_eq_of_le, Nat.reduceSub]

/-- A clause word is read by its opcode (R83, R103). -/
theorem decodeClauseWord_of_op {op : BitVec 10} {b : BitVec 54} {i : Instr} (hm : op.extractLsb' 4 6 ≠ 0x3F)
    (hd : decodeOp op.toNat (clauseWord op b) = some i) : decodeClauseWord (clauseWord op b) = i := by
  rw [decodeClauseWord, mark_clauseWord, if_neg hm, decodeInstr, opField_clauseWord, hd]
  rfl

/-- A matrix-stream word that is legal is read by its operation (R105 to R107). -/
theorem decodeMatrix_of_mop {w : DWord} {i : Instr} (hd : decodeMop w = some i) (hl : i.matrixLegal = true) :
    decodeMatrix w = i := by
  simp [decodeMatrix, hd, hl]

theorem bytesOfNat_length (n v : Nat) : (bytesOfNat n v).length = n := by
  induction n generalizing v with
  | zero => rfl
  | succ k ih => simp [bytesOfNat, ih]

theorem wordOfBytes_bytesOfNat (n v : Nat) : wordOfBytes (bytesOfNat n v) = v % 256 ^ n := by
  induction n generalizing v with
  | zero => simp [bytesOfNat, wordOfBytes, Nat.mod_one]
  | succ k ih =>
    simp only [bytesOfNat, wordOfBytes, ih, BitVec.toNat_ofNat, Nat.reducePow]
    rw [Nat.pow_succ', Nat.mod_mul]

/-- A word laid out in eight bytes is read back, and the bytes after it are left. -/
theorem decode_bytes (st : Stream) (w : DWord) (rest : List Byte) :
    decode st (bytesOfNat 8 w.toNat ++ rest) = .ok (decodeWord st w, rest) := by
  have hl := bytesOfNat_length 8 w.toNat
  have hn : ¬ (bytesOfNat 8 w.toNat ++ rest).length < 8 := by simp [hl]
  have ht : (bytesOfNat 8 w.toNat ++ rest).take 8 = bytesOfNat 8 w.toNat := by
    rw [List.take_append_of_le_length (by omega), List.take_of_length_le (by omega)]
  have hd : (bytesOfNat 8 w.toNat ++ rest).drop 8 = rest := by
    rw [List.drop_append_of_le_length (by omega), List.drop_of_length_le (by omega), List.nil_append]
  rw [decode, if_neg hn, ht, hd, wordOfBytes_bytesOfNat, Nat.mod_eq_of_lt (by have := w.isLt; omega), BitVec.ofNat_toNat,
    BitVec.setWidth_eq]

/-- An index that R103 does not list has no instruction. -/
theorem decodeOp_of_unlisted {op : Nat} {w : DWord} (h : opListed op = false) : decodeOp op w = none := by
  have low : op % 128 < 128 := Nat.mod_lt _ (by decide)
  generalize hi : op % 128 = ix at low
  simp only [opListed, hi, Bool.and_eq_false_iff, decide_eq_false_iff_not] at h
  rw [decodeOp, hi]
  split <;> rename_i hc <;> simp only [hc, classSize] at h
  · unfold decodeClass0; split <;> first | rfl | omega
  · unfold decodeClass1; split <;> first | rfl | omega
  · unfold decodeClass2; split <;> first | rfl | omega
  · unfold decodeClass3; split <;> first | rfl | omega
  · unfold decodeClass4; split <;> first | rfl | omega
  · unfold decodeClass5; split <;> first | rfl | omega
  · unfold decodeClass6; split <;> first | rfl | omega
  · unfold decodeClass7; split <;> first | rfl | omega
  · rfl

theorem decodeInstr_of_unlisted {w : DWord} (h : opListed (w.extractLsb' 54 10).toNat = false) :
    decodeInstr w = .illegalOpcode w := by
  rw [decodeInstr, opField, decodeOp_of_unlisted h]
  rfl

/-- What R107 calls illegal is read as such. -/
theorem decodeMatrix_of_illegal {w : DWord} (h : matrixIllegal w = true) : decodeMatrix w = .illegalMatrixWord w := by
  have split_ : ∀ i, decodeMop w = some i → i.matrixLegal = false := by
    intro i hi
    simp only [decodeMop, mopField] at hi
    simp only [matrixIllegal] at h
    split at hi <;> rename_i hm <;> simp only [hm, Option.some.injEq, reduceCtorEq] at hi h <;> (try split at hi) <;> subst hi <;>
      simp [Instr.matrixLegal, fmtCodeOk, WordMR.ofWord, WordMB.ofWord, WordMT.ofWord, WordMM.ofWord, WordMD.ofWord,
        WordME.ofWord, BitVec.toNat_eq, BitVec.extractLsb'_toNat, Nat.shiftRight_eq_div_pow] at h ⊢ <;> omega
  rw [decodeMatrix]
  cases hd : decodeMop w with
  | none => rfl
  | some i => simp [split_ i hd]

end Sys2Proof
end

