-- ==== Sys2Proof/Laws/Meets.lean ====
section
/-!
SUPPORT. Quiet and Passes as checks that can be evaluated, for states that meet the hypotheses of statements.
-/
namespace Sys2Proof.Machine

/-- What Quiet asks of the context in which a slot issues. -/
def Ctx.quiet (c : Ctx) : Bool := c.sl.fpx.isNone && decide (c.h.step = .off) && c.sl.clause.all fun k => !k.sck

/-- What Passes asks of a plan and its operands. -/
def Ctx.passes (c : Ctx) (p : Plan) (os : List Opnd) : Bool :=
  p.legal && decide (p.uses.map (fun u => (resolve c.ix u.want u.field).map (Opnd.shift u.above)) = os.map some) &&
    (!p.priv || c.h.sup) && os.all (fun o => o.inBounds c.nS c.nV c.h.sup) && !c.h.busy (c.touchedCells p (p.uses.zip os)) &&
    (!c.h.sbchk.getLsbD 0 || (c.readCells p (p.uses.zip os)).all fun x => !c.h.stale c.x x) && !c.readsBad p (p.uses.zip os)

theorem quiet_of {s : State} {c : Ctx} (hc : s.ctx? = some c) (h : c.quiet = true) : Quiet s c := by
  simp only [Ctx.quiet, Bool.and_eq_true, Option.isNone_iff_eq_none, decide_eq_true_eq] at h
  refine ⟨hc, h.1.1, h.1.2, fun k hk => ?_⟩
  simpa [hk] using h.2

theorem passes_of {c : Ctx} {p : Plan} {os : List Opnd} (h : c.passes p os = true) : Passes c p os := by
  simp only [Ctx.passes, Bool.and_eq_true, Bool.or_eq_true, Bool.not_eq_true', decide_eq_true_eq, List.all_eq_true] at h
  obtain ⟨⟨⟨⟨⟨⟨hl, hn⟩, hm⟩, hb⟩, hf⟩, hs⟩, hr⟩ := h
  refine ⟨hl, hn, fun hp => ?_, hb, hf, fun hc x hx => ?_, hr⟩
  · rcases hm with hm | hm
    · rw [hp] at hm; cases hm
    · exact hm
  · rcases hs with hs | hs
    · rw [hc] at hs; cases hs
    · exact hs x hx

/-- A state in which slot A of group 0 issues an instruction that passes the checks of its plan and ends quietly, and whose
context has a further property. -/
theorem meets (s : State) (p : Ctx → Plan) (os : List Opnd) (q : Ctx → Bool)
    (h : (s.ctx?.any fun c => c.quiet && c.passes (p c) os && q c) = true) :
    ∃ c, Quiet s c ∧ Passes c (p c) os ∧ q c = true := by
  cases hc : s.ctx? with
  | none => simp [hc] at h
  | some c =>
    simp only [hc, Option.any_some, Bool.and_eq_true] at h
    exact ⟨c, quiet_of hc h.1.1, passes_of h.1.2, h.2⟩

end Sys2Proof.Machine
end

