-- ==== Sys2Proof/Laws/Operands.lean ====
section
/-!
SUPPORT. The values of operands: what fields resolve to, and that a value fits its type.
-/
namespace Sys2Proof.Machine

theorem ofWords_lt (l : List Word) : ofWords l < 2 ^ (32 * l.length) := by
  induction l with
  | nil => simp [ofWords]
  | cons w r ih =>
    have hw := w.isLt
    have e : 2 ^ (32 * (w :: r).length) = 2 ^ 32 * 2 ^ (32 * r.length) := by
      rw [← Nat.pow_add]; congr 1; simp; omega
    rw [e]
    simp only [ofWords]
    have h2 : 2 ^ 32 * (ofWords r + 1) ≤ 2 ^ 32 * 2 ^ (32 * r.length) := Nat.mul_le_mul_left _ ih
    omega

theorem wrap_lt (x : Int) (n : Nat) : wrap x n < 2 ^ n := by
  have hp : (0 : Int) < ((2 ^ n : Nat) : Int) := by exact_mod_cast Nat.two_pow_pos n
  have h1 := Int.emod_lt_of_pos x hp
  have h2 := Int.emod_nonneg x (by omega : ((2 ^ n : Nat) : Int) ≠ 0)
  simp only [wrap]
  omega

theorem constPattern_lt (k : Nat) : constPattern k < 2 ^ 32 := by
  have all : ∀ v ∈ [0xFFFFFFFF, 0x80000000, 0x7FFFFFFF, 0x0000FFFF, 0xFFFF0000, 0x000000FF, 0xFF000000, 0x00FF00FF,
      0xFF00FF00, 0x0F0F0F0F, 0xF0F0F0F0, 0x33333333, 0x55555555, 0xAAAAAAAA, 0x01010101, 0x80808080], v < 2 ^ 32 := by
    decide
  simp only [constPattern]
  cases h : ([0xFFFFFFFF, 0x80000000, 0x7FFFFFFF, 0x0000FFFF, 0xFFFF0000, 0x000000FF, 0xFF000000, 0x00FF00FF, 0xFF00FF00,
    0x0F0F0F0F, 0xF0F0F0F0, 0x33333333, 0x55555555, 0xAAAAAAAA, 0x01010101, 0x80808080][k - 0x70]?) with
  | none => simp
  | some v => exact all v (List.mem_of_getElem? h)

/-- The six scalar types: 32 bits in one register or 64 bits in two. -/
theorem tyScalar_regs {t : Nat} (h : tyScalar t = true) : tyWidth t = 32 * tyRegs t ∧ ffOf t = none ∧ tyElems t = 1 ∧
    (kiteOf t).isSome = false ∧ t ≤ 20 := by
  have cases : t = 0 ∨ t = 15 ∨ t = 5 ∨ t = 6 ∨ t = 7 ∨ t = 8 := by
    simp only [tyScalar, tyInt32, tB32, tB64, Bool.or_eq_true, Bool.and_eq_true, decide_eq_true_eq] at h
    omega
  rcases cases with rfl | rfl | rfl | rfl | rfl | rfl <;> decide

/-- A constant of a scalar type fits the type. -/
theorem inlineConst_lt {t k v : Nat} (ht : tyScalar t = true) (h : inlineConst t k = some v) : v < 2 ^ tyWidth t := by
  obtain ⟨hw, hf, he, hk, hle⟩ := tyScalar_regs ht
  have one (x : Nat) (hx : x < 2 ^ tyWidth t) : splat t x < 2 ^ tyWidth t := by
    simp [splat, he, packElems, Nat.mod_eq_of_lt hx, hx]
  simp only [inlineConst, hk, hf, he, Bool.false_or, Option.map_none, decide_eq_true_eq] at h
  rw [if_neg (by omega)] at h
  split at h
  · cases h
    exact one _ (wrap_lt _ _)
  · split at h
    · cases h
    · cases h
      have hp := constPattern_lt k
      split
      · rename_i hwide
        have : tyWidth t = 64 := by
          rw [hw]
          simp [tyRegs, hwide]
        rw [this]
        omega
      · simp only [Nat.lt_irrefl, if_false]
        exact Nat.mod_lt _ (Nat.two_pow_pos _)

/-- The value of a scalar operand of a scalar type fits the type. -/
theorem scalar_lt {c : Ctx} {t : Nat} {f : BitVec 9} {o : Opnd} (ht : tyScalar t = true)
    (h : resolve c.ix (Want.ssrc t) f = some o) : c.scalar o < 2 ^ tyWidth t := by
  have regs (r : Nat) : c.scalar (.s r (tyRegs t)) < 2 ^ tyWidth t := by
    have := ofWords_lt ((List.range (tyRegs t)).map fun i => c.h.readCell c.x (sCell c.h.sup c.x (r + i)))
    rw [(tyScalar_regs ht).1]
    simpa [Ctx.scalar, Ctx.lane] using this
  simp only [resolve, Want.ssrc] at h
  split at h
  · simp only [if_true, Bool.true_and] at h
    split at h
    · cases h; exact regs _
    · cases h
  · simp at h
  · simp only [if_true, Bool.true_and] at h
    split at h
    · cases h; exact regs _
    · cases h
  · simp only [if_true, Option.map_eq_some_iff] at h
    obtain ⟨v, hv, rfl⟩ := h
    exact inlineConst_lt ht hv

end Sys2Proof.Machine
end

