-- ==== Sys2Proof/Laws/PerInstr.lean ====
section
/-!
SUPPORT. The family Encoding: the decoder reads each well-formed instruction's word as that instruction. One lemma for each
constructor of Instr.
-/
namespace Sys2Proof.Laws
section
set_option Elab.async false

/-- The decoder reads the instruction's word as the instruction. -/
def Encoding.Statement (i : Instr) : Prop :=
  ∀ w, i.wf = true → encode i = some w → decodeWord (Machine.streamOf i) w = i

/-- An event has no word. -/
theorem Encoding.of_none {i : Instr} (h : encode i = none) : Encoding.Statement i := by
  intro w _ he
  rw [h] at he
  cases he

/-- A clause word of an opcode that one instruction has. -/
theorem Encoding.of_op {i : Instr} {op : BitVec 10} {b : BitVec 54} (he : encode i = some (clauseWord op b))
    (hs : Machine.streamOf i = .clause) (hm : op.extractLsb' 4 6 ≠ 0x3F)
    (hd : i.wf = true → decodeOp op.toNat (clauseWord op b) = some i) : Encoding.Statement i := by
  intro w hw hx
  rw [he] at hx
  cases hx
  rw [hs]
  exact decodeClauseWord_of_op hm (hd hw)

/-- A legal word of the matrix stream. -/
theorem Encoding.of_mop {i : Instr} {mop : BitVec 8} {b : BitVec 56} (he : encode i = some (matrixWord mop b))
    (hs : Machine.streamOf i = .matrix) (hl : i.wf = true → i.matrixLegal = true)
    (hd : i.wf = true → decodeMop (matrixWord mop b) = some i) : Encoding.Statement i := by
  intro w hw hx
  rw [he] at hx
  cases hx
  rw [hs]
  exact decodeMatrix_of_mop (hd hw) (hl hw)

theorem Encoding.nop (f : WordS) : Encoding.Statement (.nop f) :=
  of_op rfl rfl (by decide) fun _ => congrArg (fun x => some (Instr.nop x)) (WordS.ofWord_clauseWord 0x001 f)
theorem Encoding.smov (f : WordS) : Encoding.Statement (.smov f) :=
  of_op rfl rfl (by decide) fun _ => congrArg (fun x => some (Instr.smov x)) (WordS.ofWord_clauseWord 0x002 f)
theorem Encoding.smovi (f : WordSI) : Encoding.Statement (.smovi f) :=
  of_op rfl rfl (by decide) fun h => by
    simp [Instr.wf] at h
    simp [decodeOp, decodeClass0, WordSI.ofWord_clauseWord, h]
theorem Encoding.smoviB64 (f : WordSI) : Encoding.Statement (.smoviB64 f) :=
  of_op rfl rfl (by decide) fun h => by
    simp [Instr.wf] at h
    simp [decodeOp, decodeClass0, WordSI.ofWord_clauseWord, h]
theorem Encoding.sadd (f : WordS) : Encoding.Statement (.sadd f) :=
  of_op rfl rfl (by decide) fun _ => congrArg (fun x => some (Instr.sadd x)) (WordS.ofWord_clauseWord 0x004 f)
theorem Encoding.saddc (f : WordS) : Encoding.Statement (.saddc f) :=
  of_op rfl rfl (by decide) fun h => by
    simp [Instr.wf] at h
    simp [decodeOp, decodeClass0, WordS.ofWord_clauseWord, h]
theorem Encoding.saddcC (f : WordS) : Encoding.Statement (.saddcC f) :=
  of_op rfl rfl (by decide) fun h => by
    simp [Instr.wf] at h
    simp [decodeOp, decodeClass0, WordS.ofWord_clauseWord, h]
theorem Encoding.ssub (f : WordS) : Encoding.Statement (.ssub f) :=
  of_op rfl rfl (by decide) fun _ => congrArg (fun x => some (Instr.ssub x)) (WordS.ofWord_clauseWord 0x006 f)
theorem Encoding.ssubb (f : WordS) : Encoding.Statement (.ssubb f) :=
  of_op rfl rfl (by decide) fun h => by
    simp [Instr.wf] at h
    simp [decodeOp, decodeClass0, WordS.ofWord_clauseWord, h]
theorem Encoding.ssubbC (f : WordS) : Encoding.Statement (.ssubbC f) :=
  of_op rfl rfl (by decide) fun h => by
    simp [Instr.wf] at h
    simp [decodeOp, decodeClass0, WordS.ofWord_clauseWord, h]
theorem Encoding.smul (f : WordS) : Encoding.Statement (.smul f) :=
  of_op rfl rfl (by decide) fun _ => congrArg (fun x => some (Instr.smul x)) (WordS.ofWord_clauseWord 0x008 f)
theorem Encoding.smulh (f : WordS) : Encoding.Statement (.smulh f) :=
  of_op rfl rfl (by decide) fun _ => congrArg (fun x => some (Instr.smulh x)) (WordS.ofWord_clauseWord 0x009 f)
theorem Encoding.sand (f : WordS) : Encoding.Statement (.sand f) :=
  of_op rfl rfl (by decide) fun _ => congrArg (fun x => some (Instr.sand x)) (WordS.ofWord_clauseWord 0x00A f)
theorem Encoding.sor (f : WordS) : Encoding.Statement (.sor f) :=
  of_op rfl rfl (by decide) fun _ => congrArg (fun x => some (Instr.sor x)) (WordS.ofWord_clauseWord 0x00B f)
theorem Encoding.sxor (f : WordS) : Encoding.Statement (.sxor f) :=
  of_op rfl rfl (by decide) fun _ => congrArg (fun x => some (Instr.sxor x)) (WordS.ofWord_clauseWord 0x00C f)
theorem Encoding.sandn (f : WordS) : Encoding.Statement (.sandn f) :=
  of_op rfl rfl (by decide) fun _ => congrArg (fun x => some (Instr.sandn x)) (WordS.ofWord_clauseWord 0x00D f)
theorem Encoding.sshl (f : WordS) : Encoding.Statement (.sshl f) :=
  of_op rfl rfl (by decide) fun _ => congrArg (fun x => some (Instr.sshl x)) (WordS.ofWord_clauseWord 0x00E f)
theorem Encoding.sshr (f : WordS) : Encoding.Statement (.sshr f) :=
  of_op rfl rfl (by decide) fun _ => congrArg (fun x => some (Instr.sshr x)) (WordS.ofWord_clauseWord 0x00F f)
theorem Encoding.ssra (f : WordS) : Encoding.Statement (.ssra f) :=
  of_op rfl rfl (by decide) fun _ => congrArg (fun x => some (Instr.ssra x)) (WordS.ofWord_clauseWord 0x010 f)
theorem Encoding.smin (f : WordS) : Encoding.Statement (.smin f) :=
  of_op rfl rfl (by decide) fun _ => congrArg (fun x => some (Instr.smin x)) (WordS.ofWord_clauseWord 0x011 f)
theorem Encoding.smax (f : WordS) : Encoding.Statement (.smax f) :=
  of_op rfl rfl (by decide) fun _ => congrArg (fun x => some (Instr.smax x)) (WordS.ofWord_clauseWord 0x012 f)
theorem Encoding.sset (f : WordS) : Encoding.Statement (.sset f) :=
  of_op rfl rfl (by decide) fun _ => congrArg (fun x => some (Instr.sset x)) (WordS.ofWord_clauseWord 0x013 f)
theorem Encoding.ssel (f : WordS) : Encoding.Statement (.ssel f) :=
  of_op rfl rfl (by decide) fun _ => congrArg (fun x => some (Instr.ssel x)) (WordS.ofWord_clauseWord 0x014 f)
theorem Encoding.sclz (f : WordS) : Encoding.Statement (.sclz f) :=
  of_op rfl rfl (by decide) fun _ => congrArg (fun x => some (Instr.sclz x)) (WordS.ofWord_clauseWord 0x015 f)
theorem Encoding.sffs (f : WordS) : Encoding.Statement (.sffs f) :=
  of_op rfl rfl (by decide) fun _ => congrArg (fun x => some (Instr.sffs x)) (WordS.ofWord_clauseWord 0x016 f)
theorem Encoding.spopc (f : WordS) : Encoding.Statement (.spopc f) :=
  of_op rfl rfl (by decide) fun _ => congrArg (fun x => some (Instr.spopc x)) (WordS.ofWord_clauseWord 0x017 f)
theorem Encoding.saddp (f : WordS) : Encoding.Statement (.saddp f) :=
  of_op rfl rfl (by decide) fun _ => congrArg (fun x => some (Instr.saddp x)) (WordS.ofWord_clauseWord 0x018 f)
theorem Encoding.slea (f : WordS) : Encoding.Statement (.slea f) :=
  of_op rfl rfl (by decide) fun _ => congrArg (fun x => some (Instr.slea x)) (WordS.ofWord_clauseWord 0x019 f)
theorem Encoding.ixset (f : WordS) : Encoding.Statement (.ixset f) :=
  of_op rfl rfl (by decide) fun _ => congrArg (fun x => some (Instr.ixset x)) (WordS.ofWord_clauseWord 0x01A f)
theorem Encoding.kmov (f : WordS) : Encoding.Statement (.kmov f) :=
  of_op rfl rfl (by decide) fun _ => congrArg (fun x => some (Instr.kmov x)) (WordS.ofWord_clauseWord 0x01B f)
theorem Encoding.kand (f : WordS) : Encoding.Statement (.kand f) :=
  of_op rfl rfl (by decide) fun _ => congrArg (fun x => some (Instr.kand x)) (WordS.ofWord_clauseWord 0x01C f)
theorem Encoding.kor (f : WordS) : Encoding.Statement (.kor f) :=
  of_op rfl rfl (by decide) fun _ => congrArg (fun x => some (Instr.kor x)) (WordS.ofWord_clauseWord 0x01D f)
theorem Encoding.kxor (f : WordS) : Encoding.Statement (.kxor f) :=
  of_op rfl rfl (by decide) fun _ => congrArg (fun x => some (Instr.kxor x)) (WordS.ofWord_clauseWord 0x01E f)
theorem Encoding.kandn (f : WordS) : Encoding.Statement (.kandn f) :=
  of_op rfl rfl (by decide) fun _ => congrArg (fun x => some (Instr.kandn x)) (WordS.ofWord_clauseWord 0x01F f)
theorem Encoding.knot (f : WordS) : Encoding.Statement (.knot f) :=
  of_op rfl rfl (by decide) fun _ => congrArg (fun x => some (Instr.knot x)) (WordS.ofWord_clauseWord 0x020 f)
theorem Encoding.kpopc (f : WordS) : Encoding.Statement (.kpopc f) :=
  of_op rfl rfl (by decide) fun _ => congrArg (fun x => some (Instr.kpopc x)) (WordS.ofWord_clauseWord 0x021 f)
theorem Encoding.kffs (f : WordS) : Encoding.Statement (.kffs f) :=
  of_op rfl rfl (by decide) fun _ => congrArg (fun x => some (Instr.kffs x)) (WordS.ofWord_clauseWord 0x022 f)
theorem Encoding.bra (f : WordB) : Encoding.Statement (.bra f) :=
  of_op rfl rfl (by decide) fun _ => congrArg (fun x => some (Instr.bra x)) (WordB.ofWord_clauseWord 0x023 f)
theorem Encoding.brc (f : WordB) : Encoding.Statement (.brc f) :=
  of_op rfl rfl (by decide) fun _ => congrArg (fun x => some (Instr.brc x)) (WordB.ofWord_clauseWord 0x024 f)
theorem Encoding.bsplit (f : WordB) : Encoding.Statement (.bsplit f) :=
  of_op rfl rfl (by decide) fun _ => congrArg (fun x => some (Instr.bsplit x)) (WordB.ofWord_clauseWord 0x025 f)
theorem Encoding.bjoin (f : WordB) : Encoding.Statement (.bjoin f) :=
  of_op rfl rfl (by decide) fun _ => congrArg (fun x => some (Instr.bjoin x)) (WordB.ofWord_clauseWord 0x026 f)
theorem Encoding.call (f : WordB) : Encoding.Statement (.call f) :=
  of_op rfl rfl (by decide) fun _ => congrArg (fun x => some (Instr.call x)) (WordB.ofWord_clauseWord 0x027 f)
theorem Encoding.calli (f : WordB) : Encoding.Statement (.calli f) :=
  of_op rfl rfl (by decide) fun _ => congrArg (fun x => some (Instr.calli x)) (WordB.ofWord_clauseWord 0x028 f)
theorem Encoding.callt (f : WordB) : Encoding.Statement (.callt f) :=
  of_op rfl rfl (by decide) fun _ => congrArg (fun x => some (Instr.callt x)) (WordB.ofWord_clauseWord 0x029 f)
theorem Encoding.ret (f : WordB) : Encoding.Statement (.ret f) :=
  of_op rfl rfl (by decide) fun _ => congrArg (fun x => some (Instr.ret x)) (WordB.ofWord_clauseWord 0x02A f)
theorem Encoding.exit (f : WordB) : Encoding.Statement (.exit f) :=
  of_op rfl rfl (by decide) fun _ => congrArg (fun x => some (Instr.exit x)) (WordB.ofWord_clauseWord 0x02B f)
theorem Encoding.yield (f : WordB) : Encoding.Statement (.yield f) :=
  of_op rfl rfl (by decide) fun _ => congrArg (fun x => some (Instr.yield x)) (WordB.ofWord_clauseWord 0x02C f)
theorem Encoding.bbar (f : WordB) : Encoding.Statement (.bbar f) :=
  of_op rfl rfl (by decide) fun _ => congrArg (fun x => some (Instr.bbar x)) (WordB.ofWord_clauseWord 0x02D f)
theorem Encoding.gbar (f : WordB) : Encoding.Statement (.gbar f) :=
  of_op rfl rfl (by decide) fun _ => congrArg (fun x => some (Instr.gbar x)) (WordB.ofWord_clauseWord 0x02E f)
theorem Encoding.trap (f : WordSI) : Encoding.Statement (.trap f) :=
  of_op rfl rfl (by decide) fun _ => congrArg (fun x => some (Instr.trap x)) (WordSI.ofWord_clauseWord 0x02F f)
theorem Encoding.eret (f : WordS) : Encoding.Statement (.eret f) :=
  of_op rfl rfl (by decide) fun _ => congrArg (fun x => some (Instr.eret x)) (WordS.ofWord_clauseWord 0x030 f)
theorem Encoding.sigset (f : WordSI) : Encoding.Statement (.sigset f) :=
  of_op rfl rfl (by decide) fun _ => congrArg (fun x => some (Instr.sigset x)) (WordSI.ofWord_clauseWord 0x031 f)
theorem Encoding.srd (f : WordSI) : Encoding.Statement (.srd f) :=
  of_op rfl rfl (by decide) fun h => by
    simp [Instr.wf] at h
    simp [decodeOp, decodeClass0, WordSI.ofWord_clauseWord, h]
theorem Encoding.srdTimelo (f : WordSI) : Encoding.Statement (.srdTimelo f) :=
  of_op rfl rfl (by decide) fun h => by
    simp [Instr.wf] at h
    simp [decodeOp, decodeClass0, WordSI.ofWord_clauseWord, h]
theorem Encoding.srdTimehi (f : WordSI) : Encoding.Statement (.srdTimehi f) :=
  of_op rfl rfl (by decide) fun h => by
    simp [Instr.wf] at h
    simp [decodeOp, decodeClass0, WordSI.ofWord_clauseWord, h]
theorem Encoding.swr (f : WordSI) : Encoding.Statement (.swr f) :=
  of_op rfl rfl (by decide) fun h => by
    simp [Instr.wf] at h
    simp [decodeOp, decodeClass0, WordSI.ofWord_clauseWord, h]
theorem Encoding.swrGstat (f : WordSI) : Encoding.Statement (.swrGstat f) :=
  of_op rfl rfl (by decide) fun h => by
    simp [Instr.wf] at h
    simp [decodeOp, decodeClass0, WordSI.ofWord_clauseWord, h]
theorem Encoding.brk (f : WordSI) : Encoding.Statement (.brk f) :=
  of_op rfl rfl (by decide) fun _ => congrArg (fun x => some (Instr.brk x)) (WordSI.ofWord_clauseWord 0x034 f)
theorem Encoding.clauseHeader (f : WordH) : Encoding.Statement (.clauseHeader f) := by
  intro w hw he
  cases he
  have hm : f.bits.extractLsb' 58 6 = 0x3F := by
    have := WordH.ofWord_bits f
    have e : (WordH.ofWord f.bits).mark = f.bits.extractLsb' 58 6 := rfl
    rw [this] at e
    rw [← e]
    simpa [Instr.wf] using hw
  show decodeClauseWord f.bits = _
  rw [decodeClauseWord, if_pos hm, decodeHeader, WordH.ofWord_bits]

theorem Encoding.vmov (f : WordV) : Encoding.Statement (.vmov f) :=
  of_op rfl rfl (by decide) fun _ => congrArg (fun x => some (Instr.vmov x)) (WordV.ofWord_clauseWord 0x081 f)
theorem Encoding.vmovi (f : WordVI) : Encoding.Statement (.vmovi f) :=
  of_op rfl rfl (by decide) fun _ => congrArg (fun x => some (Instr.vmovi x)) (WordVI.ofWord_clauseWord 0x082 f)
theorem Encoding.vadd (f : WordV) : Encoding.Statement (.vadd f) :=
  of_op rfl rfl (by decide) fun _ => congrArg (fun x => some (Instr.vadd x)) (WordV.ofWord_clauseWord 0x083 f)
theorem Encoding.vsub (f : WordV) : Encoding.Statement (.vsub f) :=
  of_op rfl rfl (by decide) fun _ => congrArg (fun x => some (Instr.vsub x)) (WordV.ofWord_clauseWord 0x084 f)
theorem Encoding.vmul (f : WordV) : Encoding.Statement (.vmul f) :=
  of_op rfl rfl (by decide) fun _ => congrArg (fun x => some (Instr.vmul x)) (WordV.ofWord_clauseWord 0x085 f)
theorem Encoding.vmulh (f : WordV) : Encoding.Statement (.vmulh f) :=
  of_op rfl rfl (by decide) fun _ => congrArg (fun x => some (Instr.vmulh x)) (WordV.ofWord_clauseWord 0x086 f)
theorem Encoding.vmad (f : WordV) : Encoding.Statement (.vmad f) :=
  of_op rfl rfl (by decide) fun _ => congrArg (fun x => some (Instr.vmad x)) (WordV.ofWord_clauseWord 0x087 f)
theorem Encoding.vabsd (f : WordV) : Encoding.Statement (.vabsd f) :=
  of_op rfl rfl (by decide) fun _ => congrArg (fun x => some (Instr.vabsd x)) (WordV.ofWord_clauseWord 0x088 f)
theorem Encoding.vmin (f : WordV) : Encoding.Statement (.vmin f) :=
  of_op rfl rfl (by decide) fun _ => congrArg (fun x => some (Instr.vmin x)) (WordV.ofWord_clauseWord 0x089 f)
theorem Encoding.vmax (f : WordV) : Encoding.Statement (.vmax f) :=
  of_op rfl rfl (by decide) fun _ => congrArg (fun x => some (Instr.vmax x)) (WordV.ofWord_clauseWord 0x08A f)
theorem Encoding.vand (f : WordV) : Encoding.Statement (.vand f) :=
  of_op rfl rfl (by decide) fun _ => congrArg (fun x => some (Instr.vand x)) (WordV.ofWord_clauseWord 0x08B f)
theorem Encoding.vor (f : WordV) : Encoding.Statement (.vor f) :=
  of_op rfl rfl (by decide) fun _ => congrArg (fun x => some (Instr.vor x)) (WordV.ofWord_clauseWord 0x08C f)
theorem Encoding.vxor (f : WordV) : Encoding.Statement (.vxor f) :=
  of_op rfl rfl (by decide) fun _ => congrArg (fun x => some (Instr.vxor x)) (WordV.ofWord_clauseWord 0x08D f)
theorem Encoding.vandn (f : WordV) : Encoding.Statement (.vandn f) :=
  of_op rfl rfl (by decide) fun _ => congrArg (fun x => some (Instr.vandn x)) (WordV.ofWord_clauseWord 0x08E f)
theorem Encoding.vshl (f : WordV) : Encoding.Statement (.vshl f) :=
  of_op rfl rfl (by decide) fun _ => congrArg (fun x => some (Instr.vshl x)) (WordV.ofWord_clauseWord 0x08F f)
theorem Encoding.vshr (f : WordV) : Encoding.Statement (.vshr f) :=
  of_op rfl rfl (by decide) fun _ => congrArg (fun x => some (Instr.vshr x)) (WordV.ofWord_clauseWord 0x090 f)
theorem Encoding.vsra (f : WordV) : Encoding.Statement (.vsra f) :=
  of_op rfl rfl (by decide) fun _ => congrArg (fun x => some (Instr.vsra x)) (WordV.ofWord_clauseWord 0x091 f)
theorem Encoding.vrot (f : WordV) : Encoding.Statement (.vrot f) :=
  of_op rfl rfl (by decide) fun _ => congrArg (fun x => some (Instr.vrot x)) (WordV.ofWord_clauseWord 0x092 f)
theorem Encoding.vclz (f : WordV) : Encoding.Statement (.vclz f) :=
  of_op rfl rfl (by decide) fun _ => congrArg (fun x => some (Instr.vclz x)) (WordV.ofWord_clauseWord 0x093 f)
theorem Encoding.vffs (f : WordV) : Encoding.Statement (.vffs f) :=
  of_op rfl rfl (by decide) fun _ => congrArg (fun x => some (Instr.vffs x)) (WordV.ofWord_clauseWord 0x094 f)
theorem Encoding.vpopc (f : WordV) : Encoding.Statement (.vpopc f) :=
  of_op rfl rfl (by decide) fun _ => congrArg (fun x => some (Instr.vpopc x)) (WordV.ofWord_clauseWord 0x095 f)
theorem Encoding.vbrev (f : WordV) : Encoding.Statement (.vbrev f) :=
  of_op rfl rfl (by decide) fun _ => congrArg (fun x => some (Instr.vbrev x)) (WordV.ofWord_clauseWord 0x096 f)
theorem Encoding.vbfe (f : WordV) : Encoding.Statement (.vbfe f) :=
  of_op rfl rfl (by decide) fun _ => congrArg (fun x => some (Instr.vbfe x)) (WordV.ofWord_clauseWord 0x097 f)
theorem Encoding.vbfi (f : WordV) : Encoding.Statement (.vbfi f) :=
  of_op rfl rfl (by decide) fun _ => congrArg (fun x => some (Instr.vbfi x)) (WordV.ofWord_clauseWord 0x098 f)
theorem Encoding.vset (f : WordV) : Encoding.Statement (.vset f) :=
  of_op rfl rfl (by decide) fun _ => congrArg (fun x => some (Instr.vset x)) (WordV.ofWord_clauseWord 0x099 f)
theorem Encoding.vsel (f : WordV) : Encoding.Statement (.vsel f) :=
  of_op rfl rfl (by decide) fun _ => congrArg (fun x => some (Instr.vsel x)) (WordV.ofWord_clauseWord 0x09A f)
theorem Encoding.vsat (f : WordV) : Encoding.Statement (.vsat f) :=
  of_op rfl rfl (by decide) fun _ => congrArg (fun x => some (Instr.vsat x)) (WordV.ofWord_clauseWord 0x09B f)
theorem Encoding.vpack (f : WordV) : Encoding.Statement (.vpack f) :=
  of_op rfl rfl (by decide) fun _ => congrArg (fun x => some (Instr.vpack x)) (WordV.ofWord_clauseWord 0x09C f)
theorem Encoding.vunpk (f : WordV) : Encoding.Statement (.vunpk f) :=
  of_op rfl rfl (by decide) fun _ => congrArg (fun x => some (Instr.vunpk x)) (WordV.ofWord_clauseWord 0x09D f)
theorem Encoding.vshfl (f : WordV) : Encoding.Statement (.vshfl f) :=
  of_op rfl rfl (by decide) fun _ => congrArg (fun x => some (Instr.vshfl x)) (WordV.ofWord_clauseWord 0x09E f)
theorem Encoding.vshfi (f : WordVI) : Encoding.Statement (.vshfi f) :=
  of_op rfl rfl (by decide) fun _ => congrArg (fun x => some (Instr.vshfi x)) (WordVI.ofWord_clauseWord 0x09F f)
theorem Encoding.vbcast (f : WordV) : Encoding.Statement (.vbcast f) :=
  of_op rfl rfl (by decide) fun _ => congrArg (fun x => some (Instr.vbcast x)) (WordV.ofWord_clauseWord 0x0A0 f)
theorem Encoding.vcmprs (f : WordV) : Encoding.Statement (.vcmprs f) :=
  of_op rfl rfl (by decide) fun _ => congrArg (fun x => some (Instr.vcmprs x)) (WordV.ofWord_clauseWord 0x0A1 f)
theorem Encoding.vlane (f : WordV) : Encoding.Statement (.vlane f) :=
  of_op rfl rfl (by decide) fun _ => congrArg (fun x => some (Instr.vlane x)) (WordV.ofWord_clauseWord 0x0A2 f)
theorem Encoding.vrdln (f : WordV) : Encoding.Statement (.vrdln f) :=
  of_op rfl rfl (by decide) fun _ => congrArg (fun x => some (Instr.vrdln x)) (WordV.ofWord_clauseWord 0x0A3 f)
theorem Encoding.vwrln (f : WordV) : Encoding.Statement (.vwrln f) :=
  of_op rfl rfl (by decide) fun _ => congrArg (fun x => some (Instr.vwrln x)) (WordV.ofWord_clauseWord 0x0A4 f)
theorem Encoding.vred (f : WordV) : Encoding.Statement (.vred f) :=
  of_op rfl rfl (by decide) fun _ => congrArg (fun x => some (Instr.vred x)) (WordV.ofWord_clauseWord 0x0A5 f)
theorem Encoding.fadd (f : WordV) : Encoding.Statement (.fadd f) :=
  of_op rfl rfl (by decide) fun _ => congrArg (fun x => some (Instr.fadd x)) (WordV.ofWord_clauseWord 0x101 f)
theorem Encoding.fsub (f : WordV) : Encoding.Statement (.fsub f) :=
  of_op rfl rfl (by decide) fun _ => congrArg (fun x => some (Instr.fsub x)) (WordV.ofWord_clauseWord 0x102 f)
theorem Encoding.fmul (f : WordV) : Encoding.Statement (.fmul f) :=
  of_op rfl rfl (by decide) fun _ => congrArg (fun x => some (Instr.fmul x)) (WordV.ofWord_clauseWord 0x103 f)
theorem Encoding.ffma (f : WordV) : Encoding.Statement (.ffma f) :=
  of_op rfl rfl (by decide) fun _ => congrArg (fun x => some (Instr.ffma x)) (WordV.ofWord_clauseWord 0x104 f)
theorem Encoding.fmin (f : WordV) : Encoding.Statement (.fmin f) :=
  of_op rfl rfl (by decide) fun _ => congrArg (fun x => some (Instr.fmin x)) (WordV.ofWord_clauseWord 0x105 f)
theorem Encoding.fmax (f : WordV) : Encoding.Statement (.fmax f) :=
  of_op rfl rfl (by decide) fun _ => congrArg (fun x => some (Instr.fmax x)) (WordV.ofWord_clauseWord 0x106 f)
theorem Encoding.fabs (f : WordV) : Encoding.Statement (.fabs f) :=
  of_op rfl rfl (by decide) fun _ => congrArg (fun x => some (Instr.fabs x)) (WordV.ofWord_clauseWord 0x107 f)
theorem Encoding.fneg (f : WordV) : Encoding.Statement (.fneg f) :=
  of_op rfl rfl (by decide) fun _ => congrArg (fun x => some (Instr.fneg x)) (WordV.ofWord_clauseWord 0x108 f)
theorem Encoding.fcpsn (f : WordV) : Encoding.Statement (.fcpsn f) :=
  of_op rfl rfl (by decide) fun _ => congrArg (fun x => some (Instr.fcpsn x)) (WordV.ofWord_clauseWord 0x109 f)
theorem Encoding.fset (f : WordV) : Encoding.Statement (.fset f) :=
  of_op rfl rfl (by decide) fun _ => congrArg (fun x => some (Instr.fset x)) (WordV.ofWord_clauseWord 0x10A f)
theorem Encoding.fclass (f : WordV) : Encoding.Statement (.fclass f) :=
  of_op rfl rfl (by decide) fun _ => congrArg (fun x => some (Instr.fclass x)) (WordV.ofWord_clauseWord 0x10B f)
theorem Encoding.frnd (f : WordV) : Encoding.Statement (.frnd f) :=
  of_op rfl rfl (by decide) fun _ => congrArg (fun x => some (Instr.frnd x)) (WordV.ofWord_clauseWord 0x10C f)
theorem Encoding.fcvt (f : WordV) : Encoding.Statement (.fcvt f) :=
  of_op rfl rfl (by decide) fun _ => congrArg (fun x => some (Instr.fcvt x)) (WordV.ofWord_clauseWord 0x10D f)
theorem Encoding.fcvti (f : WordV) : Encoding.Statement (.fcvti f) :=
  of_op rfl rfl (by decide) fun _ => congrArg (fun x => some (Instr.fcvti x)) (WordV.ofWord_clauseWord 0x10E f)
theorem Encoding.icvtf (f : WordV) : Encoding.Statement (.icvtf f) :=
  of_op rfl rfl (by decide) fun _ => congrArg (fun x => some (Instr.icvtf x)) (WordV.ofWord_clauseWord 0x10F f)
theorem Encoding.fdot2 (f : WordV) : Encoding.Statement (.fdot2 f) :=
  of_op rfl rfl (by decide) fun _ => congrArg (fun x => some (Instr.fdot2 x)) (WordV.ofWord_clauseWord 0x110 f)
theorem Encoding.xclr (f : WordV) : Encoding.Statement (.xclr f) :=
  of_op rfl rfl (by decide) fun _ => congrArg (fun x => some (Instr.xclr x)) (WordV.ofWord_clauseWord 0x111 f)
theorem Encoding.xadd (f : WordV) : Encoding.Statement (.xadd f) :=
  of_op rfl rfl (by decide) fun _ => congrArg (fun x => some (Instr.xadd x)) (WordV.ofWord_clauseWord 0x112 f)
theorem Encoding.xmadd (f : WordV) : Encoding.Statement (.xmadd f) :=
  of_op rfl rfl (by decide) fun _ => congrArg (fun x => some (Instr.xmadd x)) (WordV.ofWord_clauseWord 0x113 f)
theorem Encoding.xrnd (f : WordV) : Encoding.Statement (.xrnd f) :=
  of_op rfl rfl (by decide) fun _ => congrArg (fun x => some (Instr.xrnd x)) (WordV.ofWord_clauseWord 0x114 f)
theorem Encoding.xscan (f : WordV) : Encoding.Statement (.xscan f) :=
  of_op rfl rfl (by decide) fun _ => congrArg (fun x => some (Instr.xscan x)) (WordV.ofWord_clauseWord 0x115 f)
theorem Encoding.xrd (f : WordV) : Encoding.Statement (.xrd f) :=
  of_op rfl rfl (by decide) fun _ => congrArg (fun x => some (Instr.xrd x)) (WordV.ofWord_clauseWord 0x116 f)
theorem Encoding.xwr (f : WordV) : Encoding.Statement (.xwr f) :=
  of_op rfl rfl (by decide) fun _ => congrArg (fun x => some (Instr.xwr x)) (WordV.ofWord_clauseWord 0x117 f)
theorem Encoding.xstat (f : WordV) : Encoding.Statement (.xstat f) :=
  of_op rfl rfl (by decide) fun _ => congrArg (fun x => some (Instr.xstat x)) (WordV.ofWord_clauseWord 0x118 f)
theorem Encoding.ex2f (f : WordV) : Encoding.Statement (.ex2f f) :=
  of_op rfl rfl (by decide) fun _ => congrArg (fun x => some (Instr.ex2f x)) (WordV.ofWord_clauseWord 0x181 f)
theorem Encoding.ex2r (f : WordV) : Encoding.Statement (.ex2r f) :=
  of_op rfl rfl (by decide) fun _ => congrArg (fun x => some (Instr.ex2r x)) (WordV.ofWord_clauseWord 0x182 f)
theorem Encoding.lg2f (f : WordV) : Encoding.Statement (.lg2f f) :=
  of_op rfl rfl (by decide) fun _ => congrArg (fun x => some (Instr.lg2f x)) (WordV.ofWord_clauseWord 0x183 f)
theorem Encoding.lg2r (f : WordV) : Encoding.Statement (.lg2r f) :=
  of_op rfl rfl (by decide) fun _ => congrArg (fun x => some (Instr.lg2r x)) (WordV.ofWord_clauseWord 0x184 f)
theorem Encoding.rcpf (f : WordV) : Encoding.Statement (.rcpf f) :=
  of_op rfl rfl (by decide) fun _ => congrArg (fun x => some (Instr.rcpf x)) (WordV.ofWord_clauseWord 0x185 f)
theorem Encoding.rcpr (f : WordV) : Encoding.Statement (.rcpr f) :=
  of_op rfl rfl (by decide) fun _ => congrArg (fun x => some (Instr.rcpr x)) (WordV.ofWord_clauseWord 0x186 f)
theorem Encoding.rsqf (f : WordV) : Encoding.Statement (.rsqf f) :=
  of_op rfl rfl (by decide) fun _ => congrArg (fun x => some (Instr.rsqf x)) (WordV.ofWord_clauseWord 0x187 f)
theorem Encoding.rsqr (f : WordV) : Encoding.Statement (.rsqr f) :=
  of_op rfl rfl (by decide) fun _ => congrArg (fun x => some (Instr.rsqr x)) (WordV.ofWord_clauseWord 0x188 f)
theorem Encoding.sqtf (f : WordV) : Encoding.Statement (.sqtf f) :=
  of_op rfl rfl (by decide) fun _ => congrArg (fun x => some (Instr.sqtf x)) (WordV.ofWord_clauseWord 0x189 f)
theorem Encoding.sqtr (f : WordV) : Encoding.Statement (.sqtr f) :=
  of_op rfl rfl (by decide) fun _ => congrArg (fun x => some (Instr.sqtr x)) (WordV.ofWord_clauseWord 0x18A f)
theorem Encoding.divf (f : WordV) : Encoding.Statement (.divf f) :=
  of_op rfl rfl (by decide) fun _ => congrArg (fun x => some (Instr.divf x)) (WordV.ofWord_clauseWord 0x18B f)
theorem Encoding.divr (f : WordV) : Encoding.Statement (.divr f) :=
  of_op rfl rfl (by decide) fun _ => congrArg (fun x => some (Instr.divr x)) (WordV.ofWord_clauseWord 0x18C f)
theorem Encoding.sinf (f : WordV) : Encoding.Statement (.sinf f) :=
  of_op rfl rfl (by decide) fun _ => congrArg (fun x => some (Instr.sinf x)) (WordV.ofWord_clauseWord 0x18D f)
theorem Encoding.sinr (f : WordV) : Encoding.Statement (.sinr f) :=
  of_op rfl rfl (by decide) fun _ => congrArg (fun x => some (Instr.sinr x)) (WordV.ofWord_clauseWord 0x18E f)
theorem Encoding.cosf (f : WordV) : Encoding.Statement (.cosf f) :=
  of_op rfl rfl (by decide) fun _ => congrArg (fun x => some (Instr.cosf x)) (WordV.ofWord_clauseWord 0x18F f)
theorem Encoding.cosr (f : WordV) : Encoding.Statement (.cosr f) :=
  of_op rfl rfl (by decide) fun _ => congrArg (fun x => some (Instr.cosr x)) (WordV.ofWord_clauseWord 0x190 f)
theorem Encoding.tnhf (f : WordV) : Encoding.Statement (.tnhf f) :=
  of_op rfl rfl (by decide) fun _ => congrArg (fun x => some (Instr.tnhf x)) (WordV.ofWord_clauseWord 0x191 f)
theorem Encoding.tnhr (f : WordV) : Encoding.Statement (.tnhr f) :=
  of_op rfl rfl (by decide) fun _ => congrArg (fun x => some (Instr.tnhr x)) (WordV.ofWord_clauseWord 0x192 f)
theorem Encoding.sigf (f : WordV) : Encoding.Statement (.sigf f) :=
  of_op rfl rfl (by decide) fun _ => congrArg (fun x => some (Instr.sigf x)) (WordV.ofWord_clauseWord 0x193 f)
theorem Encoding.sigr (f : WordV) : Encoding.Statement (.sigr f) :=
  of_op rfl rfl (by decide) fun _ => congrArg (fun x => some (Instr.sigr x)) (WordV.ofWord_clauseWord 0x194 f)
theorem Encoding.qscl (f : WordV) : Encoding.Statement (.qscl f) :=
  of_op rfl rfl (by decide) fun _ => congrArg (fun x => some (Instr.qscl x)) (WordV.ofWord_clauseWord 0x195 f)
theorem Encoding.qzp (f : WordV) : Encoding.Statement (.qzp f) :=
  of_op rfl rfl (by decide) fun _ => congrArg (fun x => some (Instr.qzp x)) (WordV.ofWord_clauseWord 0x196 f)
theorem Encoding.qcvt (f : WordV) : Encoding.Statement (.qcvt f) :=
  of_op rfl rfl (by decide) fun _ => congrArg (fun x => some (Instr.qcvt x)) (WordV.ofWord_clauseWord 0x197 f)
theorem Encoding.dqcvt (f : WordV) : Encoding.Statement (.dqcvt f) :=
  of_op rfl rfl (by decide) fun _ => congrArg (fun x => some (Instr.dqcvt x)) (WordV.ofWord_clauseWord 0x198 f)
theorem Encoding.kbpack (f : WordV) : Encoding.Statement (.kbpack f) :=
  of_op rfl rfl (by decide) fun _ => congrArg (fun x => some (Instr.kbpack x)) (WordV.ofWord_clauseWord 0x199 f)
theorem Encoding.kbunpk (f : WordV) : Encoding.Statement (.kbunpk f) :=
  of_op rfl rfl (by decide) fun _ => congrArg (fun x => some (Instr.kbunpk x)) (WordV.ofWord_clauseWord 0x19A f)
theorem Encoding.rngk (f : WordV) : Encoding.Statement (.rngk f) :=
  of_op rfl rfl (by decide) fun h => by
    simp [Instr.wf] at h
    simp [decodeOp, decodeClass3, WordV.ofWord_clauseWord, h]
theorem Encoding.rngkB64 (f : WordV) : Encoding.Statement (.rngkB64 f) :=
  of_op rfl rfl (by decide) fun h => by
    simp [Instr.wf] at h
    simp [decodeOp, decodeClass3, WordV.ofWord_clauseWord, h]
theorem Encoding.rng (f : WordV) : Encoding.Statement (.rng f) :=
  of_op rfl rfl (by decide) fun _ => congrArg (fun x => some (Instr.rng x)) (WordV.ofWord_clauseWord 0x19C f)
theorem Encoding.rngf (f : WordV) : Encoding.Statement (.rngf f) :=
  of_op rfl rfl (by decide) fun _ => congrArg (fun x => some (Instr.rngf x)) (WordV.ofWord_clauseWord 0x19D f)
theorem Encoding.ld (f : WordM) : Encoding.Statement (.ld f) :=
  of_op rfl rfl (by decide) fun _ => congrArg (fun x => some (Instr.ld x)) (WordM.ofWord_clauseWord 0x201 f)
theorem Encoding.lds (f : WordM) : Encoding.Statement (.lds f) :=
  of_op rfl rfl (by decide) fun _ => congrArg (fun x => some (Instr.lds x)) (WordM.ofWord_clauseWord 0x202 f)
theorem Encoding.ldb (f : WordM) : Encoding.Statement (.ldb f) :=
  of_op rfl rfl (by decide) fun _ => congrArg (fun x => some (Instr.ldb x)) (WordM.ofWord_clauseWord 0x203 f)
theorem Encoding.st (f : WordM) : Encoding.Statement (.st f) :=
  of_op rfl rfl (by decide) fun _ => congrArg (fun x => some (Instr.st x)) (WordM.ofWord_clauseWord 0x204 f)
theorem Encoding.sts (f : WordM) : Encoding.Statement (.sts f) :=
  of_op rfl rfl (by decide) fun _ => congrArg (fun x => some (Instr.sts x)) (WordM.ofWord_clauseWord 0x205 f)
theorem Encoding.stb (f : WordM) : Encoding.Statement (.stb f) :=
  of_op rfl rfl (by decide) fun _ => congrArg (fun x => some (Instr.stb x)) (WordM.ofWord_clauseWord 0x206 f)
theorem Encoding.atom (f : WordMA) : Encoding.Statement (.atom f) :=
  of_op rfl rfl (by decide) fun _ => congrArg (fun x => some (Instr.atom x)) (WordMA.ofWord_clauseWord 0x207 f)
theorem Encoding.acas (f : WordMA) : Encoding.Statement (.acas f) :=
  of_op rfl rfl (by decide) fun _ => congrArg (fun x => some (Instr.acas x)) (WordMA.ofWord_clauseWord 0x208 f)
theorem Encoding.atoms (f : WordMA) : Encoding.Statement (.atoms f) :=
  of_op rfl rfl (by decide) fun _ => congrArg (fun x => some (Instr.atoms x)) (WordMA.ofWord_clauseWord 0x209 f)
theorem Encoding.acass (f : WordMA) : Encoding.Statement (.acass f) :=
  of_op rfl rfl (by decide) fun _ => congrArg (fun x => some (Instr.acass x)) (WordMA.ofWord_clauseWord 0x20A f)
theorem Encoding.prfm (f : WordM) : Encoding.Statement (.prfm f) :=
  of_op rfl rfl (by decide) fun _ => congrArg (fun x => some (Instr.prfm x)) (WordM.ofWord_clauseWord 0x20B f)
theorem Encoding.sgjoin (f : WordM) : Encoding.Statement (.sgjoin f) :=
  of_op rfl rfl (by decide) fun _ => congrArg (fun x => some (Instr.sgjoin x)) (WordM.ofWord_clauseWord 0x20C f)
theorem Encoding.sgleave (f : WordM) : Encoding.Statement (.sgleave f) :=
  of_op rfl rfl (by decide) fun _ => congrArg (fun x => some (Instr.sgleave x)) (WordM.ofWord_clauseWord 0x20D f)
theorem Encoding.sgqry (f : WordM) : Encoding.Statement (.sgqry f) :=
  of_op rfl rfl (by decide) fun _ => congrArg (fun x => some (Instr.sgqry x)) (WordM.ofWord_clauseWord 0x20E f)
theorem Encoding.pfmap (f : WordM) : Encoding.Statement (.pfmap f) :=
  of_op rfl rfl (by decide) fun _ => congrArg (fun x => some (Instr.pfmap x)) (WordM.ofWord_clauseWord 0x20F f)
theorem Encoding.pfpark (f : WordM) : Encoding.Statement (.pfpark f) :=
  of_op rfl rfl (by decide) fun _ => congrArg (fun x => some (Instr.pfpark x)) (WordM.ofWord_clauseWord 0x210 f)
theorem Encoding.tlbi (f : WordM) : Encoding.Statement (.tlbi f) :=
  of_op rfl rfl (by decide) fun _ => congrArg (fun x => some (Instr.tlbi x)) (WordM.ofWord_clauseWord 0x211 f)
theorem Encoding.accessPerform : ∀ a, Encoding.Statement (.accessPerform a) := fun _ => of_none rfl
theorem Encoding.cpys (f : WordC) : Encoding.Statement (.cpys f) :=
  of_op rfl rfl (by decide) fun _ => congrArg (fun x => some (Instr.cpys x)) (WordC.ofWord_clauseWord 0x281 f)
theorem Encoding.cpyt (f : WordC) : Encoding.Statement (.cpyt f) :=
  of_op rfl rfl (by decide) fun _ => congrArg (fun x => some (Instr.cpyt x)) (WordC.ofWord_clauseWord 0x282 f)
theorem Encoding.cpye (f : WordC) : Encoding.Statement (.cpye f) :=
  of_op rfl rfl (by decide) fun _ => congrArg (fun x => some (Instr.cpye x)) (WordC.ofWord_clauseWord 0x283 f)
theorem Encoding.cpwp (f : WordC) : Encoding.Statement (.cpwp f) :=
  of_op rfl rfl (by decide) fun _ => congrArg (fun x => some (Instr.cpwp x)) (WordC.ofWord_clauseWord 0x284 f)
theorem Encoding.cpwait (f : WordC) : Encoding.Statement (.cpwait f) :=
  of_op rfl rfl (by decide) fun _ => congrArg (fun x => some (Instr.cpwait x)) (WordC.ofWord_clauseWord 0x285 f)
theorem Encoding.cpcan (f : WordC) : Encoding.Statement (.cpcan f) :=
  of_op rfl rfl (by decide) fun _ => congrArg (fun x => some (Instr.cpcan x)) (WordC.ofWord_clauseWord 0x286 f)
theorem Encoding.cpqry (f : WordC) : Encoding.Statement (.cpqry f) :=
  of_op rfl rfl (by decide) fun _ => congrArg (fun x => some (Instr.cpqry x)) (WordC.ofWord_clauseWord 0x287 f)
theorem Encoding.mbar (f : WordX) : Encoding.Statement (.mbar f) :=
  of_op rfl rfl (by decide) fun _ => congrArg (fun x => some (Instr.mbar x)) (WordX.ofWord_clauseWord 0x301 f)
theorem Encoding.mwait (f : WordX) : Encoding.Statement (.mwait f) :=
  of_op rfl rfl (by decide) fun _ => congrArg (fun x => some (Instr.mwait x)) (WordX.ofWord_clauseWord 0x302 f)
theorem Encoding.marrw (f : WordX) : Encoding.Statement (.marrw f) :=
  of_op rfl rfl (by decide) fun _ => congrArg (fun x => some (Instr.marrw x)) (WordX.ofWord_clauseWord 0x303 f)
theorem Encoding.atov (f : WordX) : Encoding.Statement (.atov f) :=
  of_op rfl rfl (by decide) fun _ => congrArg (fun x => some (Instr.atov x)) (WordX.ofWord_clauseWord 0x304 f)
theorem Encoding.vtoa (f : WordX) : Encoding.Statement (.vtoa f) :=
  of_op rfl rfl (by decide) fun _ => congrArg (fun x => some (Instr.vtoa x)) (WordX.ofWord_clauseWord 0x305 f)
theorem Encoding.mset (f : WordMR) : Encoding.Statement (.mset f) :=
  of_mop rfl rfl (fun h => h) fun h => by
    have hi : f.hi = 0 := by
      simp only [Instr.wf, Instr.matrixLegal, Bool.and_eq_true, decide_eq_true_eq] at h
      exact h.2
    simp [decodeMop, mopField_matrixWord, WordMR.ofWord_matrixWord, hi]
theorem Encoding.msetHi (f : WordMR) : Encoding.Statement (.msetHi f) :=
  of_mop rfl rfl (fun h => h) fun h => by
    have hi : f.hi = 1 := by
      simp only [Instr.wf, Instr.matrixLegal, Bool.and_eq_true, decide_eq_true_eq] at h
      exact h.2
    simp [decodeMop, mopField_matrixWord, WordMR.ofWord_matrixWord, hi]
theorem Encoding.madd (f : WordMR) : Encoding.Statement (.madd f) :=
  of_mop rfl rfl (fun h => h) fun _ => by simp [decodeMop, mopField_matrixWord, WordMR.ofWord_matrixWord]
theorem Encoding.mbnz (f : WordMR) : Encoding.Statement (.mbnz f) :=
  of_mop rfl rfl (fun h => h) fun _ => by simp [decodeMop, mopField_matrixWord, WordMR.ofWord_matrixWord]
theorem Encoding.mbra (f : WordMR) : Encoding.Statement (.mbra f) :=
  of_mop rfl rfl (fun h => h) fun _ => by simp [decodeMop, mopField_matrixWord, WordMR.ofWord_matrixWord]
theorem Encoding.mwaitb (f : WordMB) : Encoding.Statement (.mwaitb f) :=
  of_mop rfl rfl (fun h => h) fun _ => by simp [decodeMop, mopField_matrixWord, WordMB.ofWord_matrixWord]
theorem Encoding.marrb (f : WordMB) : Encoding.Statement (.marrb f) :=
  of_mop rfl rfl (fun h => h) fun _ => by simp [decodeMop, mopField_matrixWord, WordMB.ofWord_matrixWord]
theorem Encoding.malloc (f : WordMT) : Encoding.Statement (.malloc f) :=
  of_mop rfl rfl (fun h => h) fun _ => by simp [decodeMop, mopField_matrixWord, WordMT.ofWord_matrixWord]
theorem Encoding.mfree (f : WordMT) : Encoding.Statement (.mfree f) :=
  of_mop rfl rfl (fun h => h) fun _ => by simp [decodeMop, mopField_matrixWord, WordMT.ofWord_matrixWord]
theorem Encoding.mzero (f : WordMT) : Encoding.Statement (.mzero f) :=
  of_mop rfl rfl (fun h => h) fun _ => by simp [decodeMop, mopField_matrixWord, WordMT.ofWord_matrixWord]
theorem Encoding.mma (f : WordMM) : Encoding.Statement (.mma f) :=
  of_mop rfl rfl (fun h => h) fun _ => by simp [decodeMop, mopField_matrixWord, WordMM.ofWord_matrixWord]
theorem Encoding.mmas (f : WordMM) : Encoding.Statement (.mmas f) :=
  of_mop rfl rfl (fun h => h) fun _ => by simp [decodeMop, mopField_matrixWord, WordMM.ofWord_matrixWord]
theorem Encoding.mmaz (f : WordMM) : Encoding.Statement (.mmaz f) :=
  of_mop rfl rfl (fun h => h) fun _ => by simp [decodeMop, mopField_matrixWord, WordMM.ofWord_matrixWord]
theorem Encoding.mmag (f : WordMM) : Encoding.Statement (.mmag f) :=
  of_mop rfl rfl (fun h => h) fun _ => by simp [decodeMop, mopField_matrixWord, WordMM.ofWord_matrixWord]
theorem Encoding.mdrn (f : WordMD) : Encoding.Statement (.mdrn f) :=
  of_mop rfl rfl (fun h => h) fun _ => by simp [decodeMop, mopField_matrixWord, WordMD.ofWord_matrixWord]
theorem Encoding.mdrna (f : WordMD) : Encoding.Statement (.mdrna f) :=
  of_mop rfl rfl (fun h => h) fun _ => by simp [decodeMop, mopField_matrixWord, WordMD.ofWord_matrixWord]
theorem Encoding.mend (f : WordME) : Encoding.Statement (.mend f) :=
  of_mop rfl rfl (fun h => h) fun _ => by simp [decodeMop, mopField_matrixWord, WordME.ofWord_matrixWord]
theorem Encoding.tmload (f : WordY) : Encoding.Statement (.tmload f) :=
  of_op rfl rfl (by decide) fun _ => congrArg (fun x => some (Instr.tmload x)) (WordY.ofWord_clauseWord 0x381 f)
theorem Encoding.tmstep (f : WordY) : Encoding.Statement (.tmstep f) :=
  of_op rfl rfl (by decide) fun _ => congrArg (fun x => some (Instr.tmstep x)) (WordY.ofWord_clauseWord 0x382 f)
theorem Encoding.tmmask (f : WordY) : Encoding.Statement (.tmmask f) :=
  of_op rfl rfl (by decide) fun _ => congrArg (fun x => some (Instr.tmmask x)) (WordY.ofWord_clauseWord 0x383 f)
theorem Encoding.tmqry (f : WordY) : Encoding.Statement (.tmqry f) :=
  of_op rfl rfl (by decide) fun _ => congrArg (fun x => some (Instr.tmqry x)) (WordY.ofWord_clauseWord 0x384 f)
theorem Encoding.tmsave (f : WordY) : Encoding.Statement (.tmsave f) :=
  of_op rfl rfl (by decide) fun _ => congrArg (fun x => some (Instr.tmsave x)) (WordY.ofWord_clauseWord 0x385 f)
theorem Encoding.sample (f : WordY) : Encoding.Statement (.sample f) :=
  of_op rfl rfl (by decide) fun _ => congrArg (fun x => some (Instr.sample x)) (WordY.ofWord_clauseWord 0x386 f)
theorem Encoding.sargmx (f : WordY) : Encoding.Statement (.sargmx f) :=
  of_op rfl rfl (by decide) fun _ => congrArg (fun x => some (Instr.sargmx x)) (WordY.ofWord_clauseWord 0x387 f)
theorem Encoding.tkbeg (f : WordY) : Encoding.Statement (.tkbeg f) :=
  of_op rfl rfl (by decide) fun _ => congrArg (fun x => some (Instr.tkbeg x)) (WordY.ofWord_clauseWord 0x388 f)
theorem Encoding.tkend (f : WordY) : Encoding.Statement (.tkend f) :=
  of_op rfl rfl (by decide) fun _ => congrArg (fun x => some (Instr.tkend x)) (WordY.ofWord_clauseWord 0x389 f)
theorem Encoding.tkwait (f : WordY) : Encoding.Statement (.tkwait f) :=
  of_op rfl rfl (by decide) fun _ => congrArg (fun x => some (Instr.tkwait x)) (WordY.ofWord_clauseWord 0x38A f)
theorem Encoding.tkpass (f : WordY) : Encoding.Statement (.tkpass f) :=
  of_op rfl rfl (by decide) fun _ => congrArg (fun x => some (Instr.tkpass x)) (WordY.ofWord_clauseWord 0x38B f)
theorem Encoding.cllred (f : WordY) : Encoding.Statement (.cllred f) :=
  of_op rfl rfl (by decide) fun _ => congrArg (fun x => some (Instr.cllred x)) (WordY.ofWord_clauseWord 0x38C f)
theorem Encoding.reductionStepRun : ∀ a b, Encoding.Statement (.reductionStepRun a b) := fun _ _ => of_none rfl
theorem Encoding.cllqry (f : WordY) : Encoding.Statement (.cllqry f) :=
  of_op rfl rfl (by decide) fun _ => congrArg (fun x => some (Instr.cllqry x)) (WordY.ofWord_clauseWord 0x38D f)
theorem Encoding.contq (f : WordY) : Encoding.Statement (.contq f) :=
  of_op rfl rfl (by decide) fun _ => congrArg (fun x => some (Instr.contq x)) (WordY.ofWord_clauseWord 0x38E f)
theorem Encoding.twait (f : WordY) : Encoding.Statement (.twait f) :=
  of_op rfl rfl (by decide) fun _ => congrArg (fun x => some (Instr.twait x)) (WordY.ofWord_clauseWord 0x38F f)
theorem Encoding.nemit (f : WordY) : Encoding.Statement (.nemit f) :=
  of_op rfl rfl (by decide) fun _ => congrArg (fun x => some (Instr.nemit x)) (WordY.ofWord_clauseWord 0x390 f)
theorem Encoding.nodeGatherTimer : ∀ a, Encoding.Statement (.nodeGatherTimer a) := fun _ => of_none rfl
theorem Encoding.blockAdmit : ∀ a b, Encoding.Statement (.blockAdmit a b) := fun _ _ => of_none rfl
theorem Encoding.blockReadmit : ∀ a, Encoding.Statement (.blockReadmit a) := fun _ => of_none rfl
theorem Encoding.parkedFaultRetry : ∀ a, Encoding.Statement (.parkedFaultRetry a) := fun _ => of_none rfl
theorem Encoding.preempt : ∀ a, Encoding.Statement (.preempt a) := fun _ => of_none rfl
theorem Encoding.snapshotUnitCopy : ∀ a, Encoding.Statement (.snapshotUnitCopy a) := fun _ => of_none rfl
theorem Encoding.doorbell : ∀ a b, Encoding.Statement (.doorbell a b) := fun _ _ => of_none rfl
theorem Encoding.qtbaseWrite : ∀ a, Encoding.Statement (.qtbaseWrite a) := fun _ => of_none rfl
theorem Encoding.vistatWrite : ∀ a, Encoding.Statement (.vistatWrite a) := fun _ => of_none rfl
theorem Encoding.vireset : ∀ a, Encoding.Statement (.vireset a) := fun _ => of_none rfl
theorem Encoding.viRegisterWrite : ∀ a b c, Encoding.Statement (.viRegisterWrite a b c) := fun _ _ _ => of_none rfl
theorem Encoding.apertureAccess : ∀ a b, Encoding.Statement (.apertureAccess a b) := fun _ _ => of_none rfl
theorem Encoding.setPowerLimit : ∀ a, Encoding.Statement (.setPowerLimit a) := fun _ => of_none rfl
theorem Encoding.powerWindow : ∀ a, Encoding.Statement (.powerWindow a) := fun _ => of_none rfl
theorem Encoding.thermalThrottle : ∀ a, Encoding.Statement (.thermalThrottle a) := fun _ => of_none rfl
theorem Encoding.thermalShutdown : ∀ a, Encoding.Statement (.thermalShutdown a) := fun _ => of_none rfl
theorem Encoding.keyEnroll : ∀ a b c, Encoding.Statement (.keyEnroll a b c) := fun _ _ _ => of_none rfl
theorem Encoding.keyRemove : ∀ a b, Encoding.Statement (.keyRemove a b) := fun _ _ => of_none rfl
theorem Encoding.liveUpdate : ∀ a b, Encoding.Statement (.liveUpdate a b) := fun _ _ => of_none rfl
theorem Encoding.dramRefreshScrub : ∀ a, Encoding.Statement (.dramRefreshScrub a) := fun _ => of_none rfl
theorem Encoding.sheetScrub : ∀ a, Encoding.Statement (.sheetScrub a) := fun _ => of_none rfl
theorem Encoding.illegalOpcode (v : DWord) : Encoding.Statement (.illegalOpcode v) := by
  intro w hw he
  cases he
  simp only [Instr.wf, Bool.and_eq_true, Bool.not_eq_true', decide_eq_true_eq] at hw
  show decodeClauseWord v = _
  rw [decodeClauseWord, if_neg hw.2, decodeInstr_of_unlisted hw.1]

theorem Encoding.illegalMatrixWord (v : DWord) : Encoding.Statement (.illegalMatrixWord v) := by
  intro w hw he
  cases he
  exact decodeMatrix_of_illegal hw

theorem Encoding.setupExchange : ∀ a, Encoding.Statement (.setupExchange a) := fun _ => of_none rfl
theorem Encoding.stepAbort : ∀ a, Encoding.Statement (.stepAbort a) := fun _ => of_none rfl
theorem Encoding.firmwareConfiguration : ∀ a b, Encoding.Statement (.firmwareConfiguration a b) := fun _ _ => of_none rfl
theorem Encoding.pageWalk : Encoding.Statement .pageWalk := of_none rfl
theorem Encoding.copyStart : Encoding.Statement .copyStart := of_none rfl
theorem Encoding.copyChunk : Encoding.Statement .copyChunk := of_none rfl
theorem Encoding.copyResume : Encoding.Statement .copyResume := of_none rfl
theorem Encoding.matrixWordDone : Encoding.Statement .matrixWordDone := of_none rfl
theorem Encoding.gangPartRun : Encoding.Statement .gangPartRun := of_none rfl
theorem Encoding.ticketRelease : Encoding.Statement .ticketRelease := of_none rfl
theorem Encoding.tetherMemberLost : Encoding.Statement .tetherMemberLost := of_none rfl
theorem Encoding.twaitExpiry : Encoding.Statement .twaitExpiry := of_none rfl
theorem Encoding.pendingToActive : Encoding.Statement .pendingToActive := of_none rfl
theorem Encoding.activeSetExchange : Encoding.Statement .activeSetExchange := of_none rfl
theorem Encoding.blockSwapOut : Encoding.Statement .blockSwapOut := of_none rfl
theorem Encoding.parktExpiry : Encoding.Statement .parktExpiry := of_none rfl
theorem Encoding.coreRetire : Encoding.Statement .coreRetire := of_none rfl
theorem Encoding.quantumExpiry : Encoding.Statement .quantumExpiry := of_none rfl
theorem Encoding.launchComplete : Encoding.Statement .launchComplete := of_none rfl
theorem Encoding.timedLaunchStart : Encoding.Statement .timedLaunchStart := of_none rfl
theorem Encoding.queueIdleUnmap : Encoding.Statement .queueIdleUnmap := of_none rfl
theorem Encoding.launch : Encoding.Statement .launch := of_none rfl
theorem Encoding.wait : Encoding.Statement .wait := of_none rfl
theorem Encoding.waitSatisfied : Encoding.Statement .waitSatisfied := of_none rfl
theorem Encoding.signal : Encoding.Statement .signal := of_none rfl
theorem Encoding.load : Encoding.Statement .load := of_none rfl
theorem Encoding.unload : Encoding.Statement .unload := of_none rfl
theorem Encoding.rcbsync : Encoding.Statement .rcbsync := of_none rfl
theorem Encoding.asidset : Encoding.Statement .asidset := of_none rfl
theorem Encoding.pool : Encoding.Statement .pool := of_none rfl
theorem Encoding.resume : Encoding.Statement .resume := of_none rfl
theorem Encoding.commcreate : Encoding.Statement .commcreate := of_none rfl
theorem Encoding.commcreateTimeout : Encoding.Statement .commcreateTimeout := of_none rfl
theorem Encoding.commdestroy : Encoding.Statement .commdestroy := of_none rfl
theorem Encoding.faultq : Encoding.Statement .faultq := of_none rfl
theorem Encoding.quantum : Encoding.Statement .quantum := of_none rfl
theorem Encoding.getMeasurements : Encoding.Statement .getMeasurements := of_none rfl
theorem Encoding.vendorMeasurementBlock : Encoding.Statement .vendorMeasurementBlock := of_none rfl
theorem Encoding.heartbeatTimeout : Encoding.Statement .heartbeatTimeout := of_none rfl
theorem Encoding.tetherSyncLost : Encoding.Statement .tetherSyncLost := of_none rfl
theorem Encoding.tetherSyncRegained : Encoding.Statement .tetherSyncRegained := of_none rfl
theorem Encoding.powerOnReset : Encoding.Statement .powerOnReset := of_none rfl

end
end Sys2Proof.Laws
end

