-- ==== Sys2Proof/Tests/Slice0.lean ====
section
/-!
SUPPORT. Tests: the well-formedness checks refuse ill-formed terms, words that the manual writes out decode as it says, worked
examples of the manual, and states that meet the hypotheses of every statement.
-/
namespace Sys2Proof.Machine
section
set_option maxRecDepth 100000
set_option Elab.async false

/-! States in which statements apply -/

/-- The device with a placed program whose slot A of group 0 issues, the group changed by `f`. -/
def issuing (f : Group → Group) : State :=
  { (State.reset.placeWord (clauseWord 0x001 0)).modGroup ⟨0, 0⟩ f with turn := [], issuer := .slot ⟨0, 0⟩ .a }

/-- exec answers a next state. -/
def Completes (i : Instr) (s : State) : Prop := ∃ t, exec i s = .next t

def ctxAt (s : State) (h : s.ctx?.isSome = true) : Ctx := s.ctx?.get h

theorem quiet_at {s : State} (h : s.ctx?.isSome = true) (q : (ctxAt s h).quiet = true) : Quiet s (ctxAt s h) :=
  quiet_of (Option.some_get h).symm q

def s0 : State := issuing id
def c0 : Ctx := ctxAt s0 (by decide +kernel)
theorem q0 : Quiet s0 c0 := quiet_at _ (by decide +kernel)
theorem i0 : s0.ctx? = some c0 := q0.issues

/-! The hypotheses of the statements are met. Each theorem takes a statement and applies it, hypothesis by hypothesis, to a
concrete state and operands; one theorem for each clause whose hypotheses differ. -/

theorem met_scalar_add (o : Obligations.ScalarResults) : Completes (.sadd ⟨0, 0, 5, 3, 0x184, 0, 0, 5⟩) s0 :=
  ⟨_, o.1 (.sadd ⟨0, 0, 5, 3, 0x184, 0, 0, 5⟩) _ rfl s0 c0 (.s 5 1) (.s 3 1) [.c 4] q0 (passes_of (by decide +kernel))⟩

theorem met_mask_and (o : Obligations.ScalarResults) : Completes (.kand ⟨0, 0, 0x081, 0x082, 0x083, 0, 0, 0⟩) s0 :=
  ⟨_, o.2.1.1 (.kand ⟨0, 0, 0x081, 0x082, 0x083, 0, 0, 0⟩) _ rfl s0 c0 (.k 1) (.k 2) [.k 3] q0 (passes_of (by decide +kernel))⟩

theorem met_kpopc (o : Obligations.ScalarResults) : Completes (.kpopc ⟨0, 0, 5, 0x087, 0, 0, 0, 0⟩) s0 :=
  ⟨_, o.2.1.2.1 _ s0 c0 (.s 5 1) (.k 7) q0 (passes_of (by decide +kernel))⟩

theorem met_kffs (o : Obligations.ScalarResults) : Completes (.kffs ⟨0, 0, 5, 0x087, 0, 0, 0, 0⟩) s0 :=
  ⟨_, o.2.1.2.2 _ s0 c0 (.s 5 1) (.k 7) q0 (passes_of (by decide +kernel))⟩

theorem met_nop (o : Obligations.ScalarResults) : Completes (.nop ⟨0, 0, 0, 0, 0, 0, 0, 0⟩) s0 :=
  ⟨_, o.2.2.1 _ s0 c0 q0 (passes_of (by decide +kernel))⟩

theorem met_smovi (o : Obligations.ScalarResults) : Completes (.smovi ⟨0, 0, 5, 0, 77⟩) s0 :=
  ⟨_, o.2.2.2.1 _ s0 c0 (.s 5 1) q0 (passes_of (by decide +kernel))⟩

theorem met_smoviB64 (o : Obligations.ScalarResults) : Completes (.smoviB64 ⟨0, 0, 6, 1, 0xFFFFFFFF⟩) s0 :=
  ⟨_, o.2.2.2.2.1 _ s0 c0 (.s 6 2) q0 (passes_of (by decide +kernel))⟩

theorem met_ixset (o : Obligations.ScalarResults) : Completes (.ixset ⟨0, 0, 0, 3, 0, 0, 2, 0⟩) s0 :=
  ⟨_, o.2.2.2.2.2.1 _ s0 c0 (.s 3 1) q0 (passes_of (by decide +kernel))⟩

theorem met_sigset (o : Obligations.ScalarResults) : Completes (.sigset ⟨0, 0, 0, 0, 0x1234⟩) s0 :=
  ⟨_, o.2.2.2.2.2.2 _ s0 c0 q0 (passes_of (by decide +kernel))⟩

theorem met_srd (o : Obligations.SpecialRegisters) : Completes (.srd ⟨0, 0, 5, 0, 0x023⟩) s0 :=
  ⟨_, o.1.1 _ s0 c0 (.s 5 1) 0 q0 (by decide +kernel) (passes_of (by decide +kernel))⟩

theorem met_srd_timelo (o : Obligations.SpecialRegisters) : Completes (.srdTimelo ⟨0, 0, 5, 0, 0x030⟩) s0 :=
  ⟨_, o.1.2.1 _ s0 c0 (.s 5 1) q0 (passes_of (by decide +kernel))⟩

theorem met_srd_timehi (o : Obligations.SpecialRegisters) : Completes (.srdTimehi ⟨0, 0, 5, 0, 0x031⟩) s0 :=
  ⟨_, o.1.2.2.1 _ s0 c0 (.s 5 1) q0 (passes_of (by decide +kernel))⟩

theorem met_srd_unlisted (o : Obligations.SpecialRegisters) : Completes (.srd ⟨0, 0, 5, 0, 0x7F⟩) s0 :=
  ⟨_, o.1.2.2.2.1 _ s0 c0 i0 (by decide +kernel)⟩

theorem met_srd_tvec (o : Obligations.SpecialRegisters) : Completes (.srd ⟨0, 0, 5, 0, 0x051⟩) s0 :=
  ⟨_, o.1.2.2.2.2 ⟨0, 0, 5, 0, 0x051⟩ s0 c0 i0 rfl rfl rfl (by decide +kernel) (by decide +kernel)⟩

theorem met_swr (o : Obligations.SpecialRegisters) : Completes (.swr ⟨0, 0, 5, 0, 0x022⟩) s0 :=
  ⟨_, o.2.1 (.swr ⟨0, 0, 5, 0, 0x022⟩) _ (.inl rfl) s0 c0 (.s 5 1) _ q0 (by decide +kernel) (passes_of (by decide +kernel))
    (.inl (by decide)) rfl⟩

theorem met_swr_gstat (o : Obligations.SpecialRegisters) : Completes (.swrGstat ⟨0, 0, 0x181, 0, 0x023⟩) s0 :=
  ⟨_, o.2.1 (.swrGstat ⟨0, 0, 0x181, 0, 0x023⟩) _ (.inr rfl) s0 c0 (.c 1) _ q0 (by decide +kernel) (passes_of (by decide +kernel))
    (.inl (by decide)) rfl⟩

theorem met_swr_priv (o : Obligations.SpecialRegisters) : Completes (.swr ⟨0, 0, 5, 0, 0x050⟩) s0 :=
  ⟨_, o.2.2 (.swr ⟨0, 0, 5, 0, 0x050⟩) _ (.inl rfl) s0 c0 i0 (by decide +kernel) (by decide +kernel)
    (.inr ⟨by decide, by decide +kernel⟩)⟩

theorem met_vadd (o : Obligations.VectorElementResults) : Completes (.vadd ⟨0, 0, 7, 0, 0, 4, 5, 0x086, 0, 5⟩) s0 :=
  ⟨_, o (.vadd ⟨0, 0, 7, 0, 0, 4, 5, 0x086, 0, 5⟩) _ rfl s0 c0 (.v 4 1) [.v 5 1, .s 6 1] q0 (passes_of (by decide +kernel))⟩

theorem met_vbfe (o : Obligations.VectorFieldResults) : Completes (.vbfe ⟨0, 0, 7, 0, 0, 4, 5, 0x184, 0x188, 5⟩) s0 :=
  ⟨_, o.1.1 _ s0 c0 (.v 4 1) (.v 5 1) (.c 4) (.c 8) q0 (passes_of (by decide +kernel))⟩

theorem met_vbfi (o : Obligations.VectorFieldResults) : Completes (.vbfi ⟨0, 0, 7, 0, 0, 4, 5, 0x184, 0x188, 0⟩) s0 :=
  ⟨_, o.1.2 _ s0 c0 (.v 4 1) (.v 5 1) (.c 4) (.c 8) q0 (passes_of (by decide +kernel))⟩

theorem met_vset (o : Obligations.VectorFieldResults) : Completes (.vset ⟨0, 0, 7, 0, 0, 0x081, 0, 0x089, 2, 6⟩) s0 :=
  ⟨_, o.2.1 _ s0 c0 (.k 1) (.v 0 1) (.s 9 1) q0 (passes_of (by decide +kernel))⟩

theorem met_vpack (o : Obligations.VectorFieldResults) : Completes (.vpack ⟨0, 0, 7, 0, 0, 4, 5, 6, 1, 1⟩) s0 :=
  ⟨_, o.2.2.1 _ s0 c0 (.v 4 1) (.v 5 1) (.v 6 1) q0 (passes_of (by decide +kernel))⟩

theorem met_vunpk (o : Obligations.VectorFieldResults) : Completes (.vunpk ⟨0, 0, 7, 0, 0, 4, 5, 0, 1, 1⟩) s0 :=
  ⟨_, o.2.2.2 _ s0 c0 (.v 4 1) (.v 5 1) q0 (passes_of (by decide +kernel))⟩

theorem met_vmovi (o : Obligations.LaneResults) : Completes (.vmovi ⟨0, 0, 7, 0, 0, 4, 9⟩) s0 :=
  ⟨_, o.1.1 _ s0 c0 (.v 4 1) q0 (passes_of (by decide +kernel))⟩

theorem met_vlane (o : Obligations.LaneResults) : Completes (.vlane ⟨0, 0, 7, 0, 0, 4, 0, 0, 0, 6⟩) s0 :=
  ⟨_, o.1.2.1 _ s0 c0 (.v 4 1) q0 (passes_of (by decide +kernel))⟩

theorem met_vbcast (o : Obligations.LaneResults) : Completes (.vbcast ⟨0, 0, 7, 0, 0, 4, 5, 0x183, 0, 0⟩) s0 :=
  ⟨_, o.1.2.2.1 _ s0 c0 (.v 4 1) (.v 5 1) (.c 3) q0 (passes_of (by decide +kernel))⟩

theorem met_vshfl (o : Obligations.LaneResults) : Completes (.vshfl ⟨0, 0, 7, 0, 0, 4, 5, 6, 0, 0⟩) s0 :=
  ⟨_, o.1.2.2.2.1 _ s0 c0 (.v 4 1) (.v 5 1) (.v 6 1) q0 (passes_of (by decide +kernel))⟩

theorem met_vshfi (o : Obligations.LaneResults) : Completes (.vshfi ⟨0, 0, 7, 0, 0, 4, 0x2000_0003⟩) s0 :=
  ⟨_, o.1.2.2.2.2.1 _ s0 c0 (.v 4 1) q0 (passes_of (by decide +kernel))⟩

theorem met_vrdln (o : Obligations.LaneResults) : Completes (.vrdln ⟨0, 0, 7, 0, 0, 0x084, 5, 0x183, 0, 0⟩) s0 :=
  ⟨_, o.1.2.2.2.2.2.1 _ s0 c0 (.s 4 1) (.v 5 1) (.c 3) q0 (passes_of (by decide +kernel))⟩

theorem met_vwrln (o : Obligations.LaneResults) : Completes (.vwrln ⟨0, 0, 7, 0, 0, 4, 0x085, 0x183, 0, 0⟩) s0 :=
  ⟨_, o.1.2.2.2.2.2.2 _ s0 c0 (.v 4 1) (.s 5 1) (.c 3) q0 (passes_of (by decide +kernel))⟩

theorem met_vcmprs (o : Obligations.LaneResults) : Completes (.vcmprs ⟨0, 0, 1, 1, 0, 4, 5, 0, 0, 0⟩) s0 :=
  have ⟨_, h, _⟩ := o.2.1 _ s0 c0 (.v 4 1) (.v 5 1) q0 (passes_of (by decide +kernel))
  ⟨_, h⟩

theorem met_vred (o : Obligations.LaneResults) : Completes (.vred ⟨0, 0, 7, 0, 0, 0x084, 5, 0, 0, 5⟩) s0 :=
  ⟨_, o.2.2 _ s0 c0 (.s 4 1) (.v 5 1) q0 (passes_of (by decide +kernel))⟩

theorem met_ffma (o : Obligations.FloatResults) : Completes (.ffma ⟨0, 0, 7, 0, 0, 4, 5, 0x08C, 4, 11⟩) s0 :=
  ⟨_, o.1 (.ffma ⟨0, 0, 7, 0, 0, 4, 5, 0x08C, 4, 11⟩) _ rfl s0 c0 (.v 4 1) [.v 5 1, .s 12 1, .v 4 1] q0
    (passes_of (by decide +kernel)) (by decide +kernel)⟩

theorem met_fset (o : Obligations.FloatResults) : Completes (.fset ⟨0, 0, 7, 0, 0, 0x081, 4, 5, 2, 11⟩) s0 :=
  ⟨_, o.2.1 _ s0 c0 (.k 1) (.v 4 1) (.v 5 1) q0 (passes_of (by decide +kernel)) (by decide +kernel)⟩

theorem met_fdot2 (o : Obligations.FloatResults) : Completes (.fdot2 ⟨0, 0, 7, 0, 0, 4, 5, 6, 7, 17⟩) s0 :=
  ⟨_, o.2.2 _ s0 c0 (.v 4 1) (.v 5 1) (.v 6 1) (.v 7 1) q0 (passes_of (by decide +kernel)) (by decide +kernel)⟩

theorem met_function (o : Obligations.FunctionResults) : Completes (.rcpr ⟨0, 0, 7, 0, 0, 3, 7, 0, 0, 11⟩) s0 :=
  ⟨_, o.1 (.rcpr ⟨0, 0, 7, 0, 0, 3, 7, 0, 0, 11⟩) _ _ _ _ rfl s0 c0 (.v 3 1) [.v 7 1] q0 (passes_of (by decide +kernel))
    (by decide +kernel)⟩

theorem met_function_special (o : Obligations.FunctionResults) : fnElement .rcp false .f32 .rne 5 0 0 = ⟨0x7F800000, 2⟩ :=
  o.2.1.1 .rcp .f32 (by decide) (by decide) false .rne 5 0 0 _ rfl

theorem met_division_special (o : Obligations.FunctionResults) : fnElement .div false .f32 .rne 5 0x3F800000 0x80000000 = ⟨0xFF800000, 2⟩ :=
  o.2.1.2.1 .f32 (by decide) false .rne 5 0x3F800000 0x80000000 _ rfl

/-- One, in the 32-bit format, as it is read. -/
def oneF32 : Dy := (FF.f32.read false 0x3F800000).dy
theorem one_read : FF.f32.read (vecFlush 5) 0x3F800000 = .fin oneF32 := by decide +kernel

theorem met_sine_of_one (o : Obligations.FunctionResults) : fnElement .sin false .f32 .rne 5 0x3F800000 0 = ⟨0, 0⟩ :=
  (o.2.1.2.2 .f32 (by decide) false .rne 5 0x3F800000 0 oneF32 one_read).1 (by decide +kernel)

theorem met_cosine_of_one (o : Obligations.FunctionResults) : fnElement .cos false .f32 .rne 5 0x3F800000 0 = ⟨0xBF800000, 0⟩ :=
  (o.2.1.2.2 .f32 (by decide) false .rne 5 0x3F800000 0 oneF32 one_read).2.2.1 1 (by decide +kernel)

theorem met_power_of_two (o : Obligations.FunctionResults) : (fnElement .ex2 false .f32 .rne 5 0x3F800000 0).cond = 0 :=
  ((o.2.1.2.2 .f32 (by decide) false .rne 5 0x3F800000 0 oneF32 one_read).2.2.2.2.1 1 (by decide +kernel) (by decide +kernel) (by decide +kernel)).1

theorem met_logarithm_of_one (o : Obligations.FunctionResults) : (fnElement .lg2 false .f32 .rne 5 0x3F800000 0).cond = 0 :=
  ((o.2.1.2.2 .f32 (by decide) false .rne 5 0x3F800000 0 oneF32 one_read).2.2.2.2.2 0 (by decide +kernel)).1

theorem met_reciprocal (o : Obligations.FunctionResults) :
    (fnElement .rcp false .f32 .rne 5 0x3F800000 0).enc % FF.f32.signBit = 0x3F800000 :=
  ((o.2.2 .rcp .f32 (by decide) (by decide) false .rne 5 0x3F800000 0 oneF32 oneF32 one_read nofun (by decide) (by decide +kernel)
    (fun h => absurd h (by decide +kernel))).2.2.1 0x3F800000 (by decide +kernel) (by decide +kernel)).1

theorem met_fcvt (o : Obligations.ConversionResults) : Completes (.fcvt ⟨0, 0, 7, 0, 0, 4, 5, 0, 11, 10⟩) s0 :=
  ⟨_, o.1 _ s0 c0 (.v 4 1) [.v 5 1] q0 (passes_of (by decide +kernel)) (by decide +kernel)⟩

theorem met_fcvti (o : Obligations.ConversionResults) : Completes (.fcvti ⟨0, 0, 7, 0, 0, 4, 5, 0, 11, 5⟩) s0 :=
  ⟨_, o.2.1 _ s0 c0 (.v 4 1) (.v 5 1) q0 (passes_of (by decide +kernel)) (by decide +kernel)⟩

theorem met_icvtf (o : Obligations.ConversionResults) : Completes (.icvtf ⟨0, 0, 7, 0, 0, 4, 5, 0, 5, 11⟩) s0 :=
  ⟨_, o.2.2 _ s0 c0 (.v 4 1) (.v 5 1) q0 (passes_of (by decide +kernel)) (by decide +kernel)⟩

theorem met_rounding (o : Obligations.RoundsToNearest) :
    Dy.le ((((⟨3, -1⟩ : Dy).abs).sub ((FF.f32.value (FF.f32.roundMag .rne ⟨3, -1⟩).mag).dy)).abs)
      ((((⟨3, -1⟩ : Dy).abs).sub ((FF.f32.value 0).dy)).abs) = true :=
  (o .f32 ⟨3, -1⟩ (by decide) (by decide +kernel) 0 (by decide +kernel)).1

theorem met_xclr (o : Obligations.ExactAccumulator) : Completes (.xclr ⟨0, 0, 7, 0, 0, 0, 0, 0, 0, 0⟩) s0 :=
  ⟨_, o.1.1 _ s0 c0 q0 (passes_of (by decide +kernel))⟩

theorem met_xadd (o : Obligations.ExactAccumulator) : Completes (.xadd ⟨0, 0, 7, 0, 0, 0, 1, 0, 0, 11⟩) s0 :=
  ⟨_, o.1.2.1 _ s0 c0 (.v 1 1) q0 (passes_of (by decide +kernel))⟩

theorem met_xmadd (o : Obligations.ExactAccumulator) : Completes (.xmadd ⟨0, 0, 7, 0, 0, 0, 1, 2, 0, 11⟩) s0 :=
  ⟨_, o.1.2.2.1 _ s0 c0 (.v 1 1) (.v 2 1) q0 (passes_of (by decide +kernel))⟩

theorem met_xrnd (o : Obligations.ExactAccumulator) : Completes (.xrnd ⟨0, 0, 7, 0, 0, 0x080, 0, 0, 0, 11⟩) s0 :=
  ⟨_, o.1.2.2.2.1 _ s0 c0 (.s 0 1) q0 (passes_of (by decide +kernel))⟩

theorem met_xscan (o : Obligations.ExactAccumulator) : Completes (.xscan ⟨0, 0, 7, 0, 0, 4, 5, 0, 0, 11⟩) s0 :=
  ⟨_, o.1.2.2.2.2 _ s0 c0 (.v 4 1) (.v 5 1) q0 (passes_of (by decide +kernel))⟩

theorem met_xrd (o : Obligations.ExactAccumulator) : Completes (.xrd ⟨0, 0, 7, 0, 0, 0x085, 0, 0x194, 0, 0⟩) s0 :=
  ⟨_, o.2.1.1 _ s0 c0 (.s 5 1) (.c 20) q0 (passes_of (by decide +kernel))⟩

theorem met_xwr (o : Obligations.ExactAccumulator) : Completes (.xwr ⟨0, 0, 7, 0, 0, 0, 0x085, 0x193, 0, 0⟩) s0 :=
  have ⟨_, _, h, _⟩ := o.2.1.2.1 _ s0 c0 (.s 5 1) (.c 19) q0 (passes_of (by decide +kernel))
  ⟨_, h⟩

theorem met_xwr_status (o : Obligations.ExactAccumulator) : Completes (.xwr ⟨0, 0, 7, 0, 0, 0, 0x085, 0x194, 0, 0⟩) s0 :=
  have ⟨_, _, h, _⟩ := o.2.1.2.1 _ s0 c0 (.s 5 1) (.c 20) q0 (passes_of (by decide +kernel))
  ⟨_, h⟩

theorem met_xstat (o : Obligations.ExactAccumulator) : Completes (.xstat ⟨0, 0, 7, 0, 0, 0x085, 0, 0, 0, 0⟩) s0 :=
  ⟨_, o.2.1.2.2 _ s0 c0 (.s 5 1) q0 (passes_of (by decide +kernel))⟩

theorem met_order_free (o : Obligations.ExactAccumulator) : xaAdd 0 0 [.zero false, .inf true] = xaAdd 0 0 [.inf true, .zero false] :=
  o.2.2 0 0 _ _ (.swap _ _ _)

theorem met_qscl (o : Obligations.QuantisationResults) : Completes (.qscl ⟨0, 0, 7, 0, 0, 4, 5, 0, 0x083, 11⟩) (issuing fun h => { h with s := [(3, 0x700)] }) :=
  have ⟨_, _, h⟩ := o.1.1 ⟨0, 0, 7, 0, 0, 4, 5, 0, 0x083, 11⟩ (issuing fun h => { h with s := [(3, 0x700)] })
    (ctxAt (issuing fun h => { h with s := [(3, 0x700)] }) (by decide +kernel)) (.v 4 1) (.v 5 1) (.s 3 1) (fun _ => Dy.zero) (fun _ => Dy.zero)
    (quiet_at _ (by decide +kernel)) (passes_of (by decide +kernel)) (fun k hk => .inr (by revert k; decide +kernel)) (by decide +kernel)
  ⟨_, h⟩

/-- Group 0 with scalar 3 at `v`. -/
def sCtl (v : Word) : State := issuing fun h => { h with s := [(3, v)] }

theorem met_qzp (o : Obligations.QuantisationResults) : Completes (.qzp ⟨0, 0, 7, 0, 0, 4, 5, 0, 0x083, 11⟩) (sCtl 0x800) :=
  have ⟨_, _, h⟩ := o.1.2 ⟨0, 0, 7, 0, 0, 4, 5, 0, 0x083, 11⟩ (sCtl 0x800) (ctxAt (sCtl 0x800) (by decide +kernel)) (.v 4 1)
    (.v 5 1) (.s 3 1) (fun _ => Dy.zero) (fun _ => Dy.zero) (quiet_at _ (by decide +kernel)) (passes_of (by decide +kernel))
    (fun k hk => .inr (by revert k; decide +kernel)) (by decide +kernel)
  ⟨_, h⟩

theorem met_qcvt (o : Obligations.QuantisationResults) : Completes (.qcvt ⟨0, 0, 7, 0, 0, 4, 5, 6, 0x083, 11⟩) (sCtl 0x700) :=
  ⟨_, o.2.1.1 _ (sCtl 0x700) (ctxAt (sCtl 0x700) (by decide +kernel)) (.v 4 1) (.v 5 1) (.v 6 1) (.s 3 1)
    (quiet_at _ (by decide +kernel)) (passes_of (by decide +kernel)) (by decide +kernel)⟩

theorem met_dqcvt (o : Obligations.QuantisationResults) : Completes (.dqcvt ⟨0, 0, 7, 0, 0, 4, 5, 6, 0x083, 11⟩) (sCtl 0x700) :=
  ⟨_, o.2.1.2 _ (sCtl 0x700) (ctxAt (sCtl 0x700) (by decide +kernel)) (.v 4 1) (.v 5 1) (.v 6 1) (.s 3 1)
    (quiet_at _ (by decide +kernel)) (passes_of (by decide +kernel))⟩

theorem met_kbpack (o : Obligations.QuantisationResults) : Completes (.kbpack ⟨0, 0, 7, 0, 0, 4, 5, 0x083, 0x084, 18⟩) s0 :=
  ⟨_, o.2.2.1.1 _ s0 c0 (.v 4 1) (.v 5 1) (.s 3 1) (.s 4 1) q0 (passes_of (by decide +kernel))⟩

theorem met_kbunpk (o : Obligations.QuantisationResults) : Completes (.kbunpk ⟨0, 0, 7, 0, 0, 4, 5, 6, 0, 19⟩) s0 :=
  ⟨_, o.2.2.1.2 _ s0 c0 (.v 4 1) (.v 5 1) (.v 6 1) q0 (passes_of (by decide +kernel))⟩

theorem met_rngk (o : Obligations.RandomNumbers) : Completes (.rngk ⟨0, 0, 7, 0, 0, 0, 0x181, 0, 0x180, 0⟩) s0 :=
  ⟨_, o.1.1 _ s0 c0 (.c 1) q0 (passes_of (by decide +kernel))⟩

theorem met_rngkB64 (o : Obligations.RandomNumbers) : Completes (.rngkB64 ⟨0, 0, 7, 0, 0, 0, 0x084, 0, 0x181, 15⟩) s0 :=
  ⟨_, o.1.2.1 _ s0 c0 (.s 4 2) q0 (passes_of (by decide +kernel))⟩

theorem met_rng (o : Obligations.RandomNumbers) : Completes (.rng ⟨0, 0, 7, 0, 0, 4, 5, 0, 0x180, 6⟩) s0 :=
  ⟨_, o.1.2.2.1 _ s0 c0 (.v 4 1) (.v 5 1) [] q0 (passes_of (by decide +kernel)) (.inr (by decide +kernel))⟩

theorem met_rngf (o : Obligations.RandomNumbers) : Completes (.rngf ⟨0, 0, 7, 0, 0, 4, 5, 0, 0x180, 11⟩) s0 :=
  ⟨_, o.1.2.2.2 _ s0 c0 (.v 4 1) (.v 5 1) q0 (passes_of (by decide +kernel)) (.inr (by decide +kernel))⟩

/-- The counter of lane 0 in v5 is about to wrap, and RNGWE is set. -/
def sWrap : State := issuing fun h => { h with v := [(480, 0xFFFFFFFF)], fpctl := 0x400 }

theorem met_rng_wrap (o : Obligations.RandomNumbers) : Completes (.rng ⟨0, 0, 7, 0, 0, 4, 5, 0, 0x180, 6⟩) sWrap :=
  ⟨_, (o.2 _ sWrap (ctxAt sWrap (by decide +kernel)) (.v 4 1) (.v 5 1) (quiet_at _ (by decide +kernel)) (by decide +kernel)
    (by decide +kernel)).1 [] (passes_of (by decide +kernel))⟩

theorem met_rng_own_wrap (o : Obligations.RandomNumbers) : Completes (.rng ⟨0, 0, 7, 0, 0, 4, 5, 6, 0x181, 6⟩) sWrap :=
  ⟨_, (o.2 _ sWrap (ctxAt sWrap (by decide +kernel)) (.v 4 1) (.v 5 1) (quiet_at _ (by decide +kernel)) (by decide +kernel)
    (by decide +kernel)).1 [.v 6 1] (passes_of (by decide +kernel))⟩

theorem met_rngf_wrap (o : Obligations.RandomNumbers) : Completes (.rngf ⟨0, 0, 7, 0, 0, 4, 5, 0, 0x181, 11⟩) sWrap :=
  ⟨_, (o.2 _ sWrap (ctxAt sWrap (by decide +kernel)) (.v 4 1) (.v 5 1) (quiet_at _ (by decide +kernel)) (by decide +kernel)
    (by decide +kernel)).2 (passes_of (by decide +kernel))⟩

theorem met_bra (o : Obligations.BranchesAndCalls) : Completes (.bra ⟨0, 0, 7, 0, 0, 4⟩) s0 :=
  ⟨_, o.1.1 _ s0 c0 q0 (passes_of (by decide +kernel))⟩

theorem met_brc (o : Obligations.BranchesAndCalls) : Completes (.brc ⟨0, 0, 7, 5, 1, 4⟩) s0 :=
  ⟨_, o.1.2.1 _ s0 c0 (.s 5 1) q0 (passes_of (by decide +kernel))⟩

theorem met_brc_mask (o : Obligations.BranchesAndCalls) : Completes (.brc ⟨0, 0, 7, 0x081, 5, 4⟩) s0 :=
  ⟨_, o.1.2.1 _ s0 c0 (.k 1) q0 (passes_of (by decide +kernel))⟩

theorem met_yield (o : Obligations.BranchesAndCalls) : Completes (.yield ⟨0, 0, 7, 0, 0, 0⟩) s0 :=
  ⟨_, o.1.2.2 _ s0 c0 q0 (passes_of (by decide +kernel))⟩

theorem met_call (o : Obligations.BranchesAndCalls) : Completes (.call ⟨0, 0, 7, 6, 0, 4⟩) s0 :=
  ⟨_, o.2.1.1 _ s0 c0 (.s 6 2) q0 (passes_of (by decide +kernel))⟩

theorem met_calli (o : Obligations.BranchesAndCalls) : Completes (.calli ⟨0, 0, 7, 6, 0, 8⟩) s0 :=
  ⟨_, o.2.1.2.1 _ s0 c0 (.s 6 2) (.s 8 2) q0 (passes_of (by decide +kernel)) (by decide +kernel) (by decide +kernel)⟩

theorem met_ret (o : Obligations.BranchesAndCalls) : Completes (.ret ⟨0, 0, 7, 6, 0, 0⟩) s0 :=
  ⟨_, o.2.1.2.2 _ s0 c0 (.s 6 2) q0 (passes_of (by decide +kernel)) (by decide +kernel) (by decide +kernel)⟩

/-- s8 holds an address that is no multiple of 8. -/
def sOdd : State := issuing fun h => { h with s := [(8, 4)] }

theorem met_calli_fault (o : Obligations.BranchesAndCalls) : Completes (.calli ⟨0, 0, 7, 6, 0, 8⟩) sOdd :=
  ⟨_, (o.2.2.1 sOdd (ctxAt sOdd (by decide +kernel)) (.s 8 2) (quiet_at _ (by decide +kernel)).issues (.inl (by decide +kernel))).1 _
    (.s 6 2) (passes_of (by decide +kernel))⟩

theorem met_ret_fault (o : Obligations.BranchesAndCalls) : Completes (.ret ⟨0, 0, 7, 8, 0, 0⟩) sOdd :=
  ⟨_, (o.2.2.1 sOdd (ctxAt sOdd (by decide +kernel)) (.s 8 2) (quiet_at _ (by decide +kernel)).issues (.inl (by decide +kernel))).2 _
    (passes_of (by decide +kernel))⟩

theorem inr_of {α β : Type} (x : α ⊕ β) (h : x.isRight = true) : x = .inr (x.getRight h) := (Sum.inr_getRight x h).symm

/-- The pair s12 holds the address of the placed page. -/
def sTable : State := issuing fun h => { h with s := [(12, 0x20000)] }

theorem met_callt (o : Obligations.BranchesAndCalls) : Completes (.callt ⟨0, 0, 7, 6, 0, 0x0002_000C⟩) sTable :=
  ⟨_, o.2.2.2 ⟨0, 0, 7, 6, 0, 0x0002_000C⟩ sTable (ctxAt sTable (by decide +kernel)) (.s 6 2) (.s 8 2) (.s 12 2)
    (quiet_at _ (by decide +kernel)) (passes_of (by decide +kernel)) (by decide +kernel) _ (inr_of _ (by decide +kernel))
    (by decide +kernel) (by decide +kernel) (by decide +kernel) (by decide +kernel)⟩

/-! Divergence -/

def split1 : WordB := ⟨0, 0, 7, 0x081, 0, 0x000C_0016⟩

theorem met_split_none (o : Obligations.DivergenceSplit) : Completes (.bsplit split1) s0 :=
  ⟨_, (o split1 s0 c0 (.k 1) q0 (passes_of (by decide +kernel))).1 (by decide +kernel)⟩

theorem met_split_all (o : Obligations.DivergenceSplit) : Completes (.bsplit ⟨0, 0, 7, 0x087, 0, 0x000C_0016⟩) s0 :=
  ⟨_, (o ⟨0, 0, 7, 0x087, 0, 0x000C_0016⟩ s0 c0 (.k 7) q0 (passes_of (by decide +kernel))).2.1 (by decide +kernel) (by decide +kernel)⟩

/-- Mask k1 holds lane 0. -/
def sHalf (f : Group → Group) : State := issuing fun h => f { h with s := [(107, 1)] }
/-- Slot B runs another path. -/
def busyB (h : Group) : Group :=
  { h with
    slotA := { h.slotA with own := allLanes >>> 1, exec := allLanes >>> 1 }
    slotB := h.slotB.path 0x20000 (1 <<< 95) (1 <<< 95) 0 }

theorem met_split_other (o : Obligations.DivergenceSplit) : Completes (.bsplit split1) (sHalf id) :=
  have ⟨_, _, h, _⟩ := (o split1 (sHalf id) (ctxAt (sHalf id) (by decide +kernel)) (.k 1) (quiet_at _ (by decide +kernel))
    (passes_of (by decide +kernel))).2.2.1 (by decide +kernel) (by decide +kernel) (by decide +kernel) (by decide +kernel)
  ⟨_, h⟩

theorem met_split_tail (o : Obligations.DivergenceSplit) : Completes (.bsplit split1) (sHalf busyB) :=
  have waits := (o split1 (sHalf busyB) (ctxAt (sHalf busyB) (by decide +kernel)) (.k 1) (quiet_at _ (by decide +kernel))
    (passes_of (by decide +kernel))).2.2.2.1 (by decide +kernel) (by decide +kernel) (by decide +kernel) (by decide +kernel)
  have ⟨_, _, h, _⟩ := waits (by decide +kernel) (by decide +kernel) (by decide +kernel)
    (by decide +kernel) (by decide +kernel) (by decide +kernel)
  ⟨_, h⟩

theorem met_split_full (o : Obligations.DivergenceSplit) :
    Completes (.bsplit split1) (sHalf fun h => { busyB h with depth := 16 }) :=
  ⟨_, (o split1 (sHalf fun h => { busyB h with depth := 16 }) (ctxAt (sHalf fun h => { busyB h with depth := 16 }) (by decide +kernel))
    (.k 1) (quiet_at _ (by decide +kernel)) (passes_of (by decide +kernel))).2.2.2.2 (by decide +kernel) (by decide +kernel)
    (by decide +kernel) (by decide +kernel)⟩

def join0 : WordB := ⟨0, 0, 7, 0, 0, 0⟩

theorem met_join_away (o : Obligations.DivergenceRejoins) : Completes (.bjoin join0) s0 :=
  ⟨_, (o.1.1 join0 s0 c0 q0 (passes_of (by decide +kernel))).1 (by decide +kernel)⟩

/-- Slot A stands at its rejoin point; slot B waits at `b`. -/
def atJoin (b : DWord) (h : Group) : Group :=
  { busyB h with
    slotA := { (busyB h).slotA with rj := h.slotA.pc }
    slotB := { (busyB h).slotB with st := .atJoin 0, rj := b } }

def sJoin (b : DWord) : State := issuing (atJoin b)
/-- Slot A stands at its rejoin point, and the tail stack holds one record. -/
def sJoinTail (e : TailEntry) : State := (issuing fun h => { atJoin 0 h with depth := 1 }).putTail ⟨0, 0⟩ 0 e

theorem met_join_merge (o : Obligations.DivergenceRejoins) : Completes (.bjoin join0) (sJoin 0x20008) :=
  have ⟨_, _, h, _⟩ := ((o.1.1 join0 (sJoin 0x20008) (ctxAt (sJoin 0x20008) (by decide +kernel)) (quiet_at _ (by decide +kernel))
    (passes_of (by decide +kernel))).2 (by decide +kernel) (by decide +kernel) (by decide +kernel)).1 ⟨0, by decide +kernel⟩ (by decide +kernel)
  ⟨_, h⟩

theorem met_join_waiting (o : Obligations.DivergenceRejoins) : Completes (.bjoin join0) (sJoinTail ⟨0x20008, 1, 0x20008⟩) :=
  have ⟨_, _, h, _⟩ := ((o.1.1 join0 (sJoinTail ⟨0x20008, 1, 0x20008⟩) (ctxAt (sJoinTail ⟨0x20008, 1, 0x20008⟩) (by decide +kernel))
    (quiet_at _ (by decide +kernel)) (passes_of (by decide +kernel))).2 (by decide +kernel) (by decide +kernel) (by decide +kernel)).2.1
    (fun h => absurd h.2 (by decide +kernel)) (by decide +kernel) (by decide +kernel)
  ⟨_, h⟩

theorem met_join_exchange (o : Obligations.DivergenceRejoins) : Completes (.bjoin join0) (sJoinTail ⟨0x20040, 1, 0x20008⟩) :=
  have ⟨_, _, h, _⟩ := ((o.1.1 join0 (sJoinTail ⟨0x20040, 1, 0x20008⟩) (ctxAt (sJoinTail ⟨0x20040, 1, 0x20008⟩) (by decide +kernel))
    (quiet_at _ (by decide +kernel)) (passes_of (by decide +kernel))).2 (by decide +kernel) (by decide +kernel) (by decide +kernel)).2.2.1
    (fun h => absurd h.2 (by decide +kernel)) (by decide +kernel) (by decide +kernel)
  ⟨_, h⟩

theorem met_join_wait (o : Obligations.DivergenceRejoins) : Completes (.bjoin join0) (sJoin 0) :=
  have ⟨_, _, h, _⟩ := ((o.1.1 join0 (sJoin 0) (ctxAt (sJoin 0) (by decide +kernel)) (quiet_at _ (by decide +kernel))
    (passes_of (by decide +kernel))).2 (by decide +kernel) (by decide +kernel) (by decide +kernel)).2.2.2
    (fun h => absurd h.2 (by decide +kernel)) (by decide +kernel)
  ⟨_, h⟩

theorem met_exit (o : Obligations.DivergenceRejoins) : Completes (.exit join0) s0 :=
  have ⟨_, _, h, _⟩ := o.1.2 join0 s0 c0 q0 (passes_of (by decide +kernel)) (by decide +kernel)
  ⟨_, h⟩

theorem group_of {s : State} {g : GRef} (h : (s.group? g).isSome = true) : s.group? g = some ((s.group? g).get h) :=
  (Option.some_get h).symm

def g0 : GRef := ⟨0, 0⟩

/-- Both slots are empty. -/
def sEmpty : State := issuing fun h => { h with slotA := Slot.vacant }
theorem met_refill_exit (o : Obligations.DivergenceRejoins) : sEmpty.refill g0 = sEmpty.exitGroup g0 :=
  o.2.1 sEmpty g0 _ (group_of (by decide +kernel)) (by decide +kernel) (by decide +kernel) (by decide +kernel) (by decide +kernel)

theorem met_refill_none (o : Obligations.DivergenceRejoins) : s0.refill g0 = s0 :=
  o.2.2.1 s0 g0 _ (group_of (by decide +kernel)) (by decide +kernel) (.inl (by decide +kernel))

/-- Slot A waits at a rejoin point, and nothing else of the group is left. -/
def sAlone : State := issuing fun h => { h with slotA := { h.slotA with st := .atJoin 0 } }
theorem met_refill_alone (o : Obligations.DivergenceRejoins) : ∃ k, (sAlone.refill g0).group? g0 = some k :=
  have ⟨k, h, _⟩ := o.2.2.2.1 sAlone g0 _ .a 0 (group_of (by decide +kernel)) (by decide +kernel) (by decide +kernel) (by decide +kernel)
    (by decide +kernel)
  ⟨k, h⟩

def sTail : State := (issuing fun h => { h with depth := 1 }).putTail g0 0 ⟨0x20040, 1, 0x20080⟩
theorem met_refill_pop (o : Obligations.DivergenceRejoins) : ∃ k, (sTail.refill g0).group? g0 = some k :=
  have ⟨k, h, _⟩ := o.2.2.2.2.1 sTail g0 _ (group_of (by decide +kernel)) (by decide +kernel) (by decide +kernel) (by decide +kernel)
    (by decide +kernel) (by decide +kernel) (by decide +kernel)
  ⟨k, h⟩

/-- Both slots wait, at different joins, and the tail stack holds a pending record. -/
def sBoth : State :=
  (issuing fun h => { atJoin 0x20040 h with slotA := { (atJoin 0x20040 h).slotA with st := .atJoin 0 }, depth := 1 }).putTail g0 0
    ⟨0x20080, 1, 0x200C0⟩
theorem met_refill_exchange (o : Obligations.DivergenceRejoins) : ∃ k, (sBoth.refill g0).group? g0 = some k :=
  have exchanges := o.2.2.2.2.2 sBoth g0 _ 0 0 0 (group_of (by decide +kernel)) (by decide +kernel) (by decide +kernel)
    (by decide +kernel) (by decide +kernel) (by decide +kernel) (by decide +kernel) (by decide +kernel)
  have ⟨k, h, _⟩ := exchanges (by decide +kernel) (by decide +kernel) (by decide +kernel) (by decide +kernel)
  ⟨k, h⟩

/-! Barriers of groups -/

/-- The block has a second group, and its launch a grid barrier. -/
def twoGroups (s : State) : State :=
  (s.modBlock 0 fun b => { b with groups := b.groups ++ b.groups }).modLaunch 0 fun l => { l with gridbar := true }

theorem met_bbar_last (o : Obligations.GroupBarriers) : Completes (.bbar join0) s0 :=
  ⟨_, o.1 join0 s0 c0 q0 (passes_of (by decide +kernel)) (by decide +kernel) (by decide +kernel) (by decide +kernel) (by decide +kernel)⟩

theorem met_bbar_waits (o : Obligations.GroupBarriers) : Completes (.bbar join0) (twoGroups s0) :=
  have ⟨_, _, h, _⟩ := o.2.1 join0 (twoGroups s0) (ctxAt (twoGroups s0) (by decide +kernel)) (quiet_at _ (by decide +kernel))
    (passes_of (by decide +kernel)) (by decide +kernel) (by decide +kernel) (by decide +kernel) (by decide +kernel)
  ⟨_, h⟩

/-- Slot A waits for an event, with what else the group needs for it. -/
def sWait (w : Wait) : State := twoGroups (issuing fun h => { h with slotA := { h.slotA with st := .atEvent w } })

theorem met_bbar_goes_on (o : Obligations.GroupBarriers) : Completes (.bbar join0) (sWait (.block 0)) :=
  ⟨_, o.2.2.1 join0 (sWait (.block 0)) (ctxAt (sWait (.block 0)) (by decide +kernel)) 0 (quiet_at _ (by decide +kernel))
    (passes_of (by decide +kernel)) (by decide +kernel) (by decide +kernel)⟩

theorem met_gbar_goes_on (o : Obligations.GroupBarriers) : Completes (.gbar join0) (sWait (.grid 0)) :=
  ⟨_, o.2.2.2.1 join0 (sWait (.grid 0)) (ctxAt (sWait (.grid 0)) (by decide +kernel)) 0 (quiet_at _ (by decide +kernel))
    (passes_of (by decide +kernel)) (by decide +kernel) (by decide +kernel)⟩

theorem met_gbar_waits (o : Obligations.GroupBarriers) : Completes (.gbar join0) (twoGroups s0) :=
  have ⟨_, _, h, _⟩ := o.2.2.2.2.1 join0 (twoGroups s0) (ctxAt (twoGroups s0) (by decide +kernel)) (quiet_at _ (by decide +kernel))
    (passes_of (by decide +kernel)) (by decide +kernel) (by decide +kernel) (by decide +kernel) (by decide +kernel)
  ⟨_, h⟩

/-- The launch of one block has a grid barrier. -/
def sGrid : State := s0.modLaunch 0 fun l => { l with gridbar := true }
theorem met_gbar_completes (o : Obligations.GroupBarriers) : Completes (.gbar join0) sGrid :=
  have completes := o.2.2.2.2.2 join0 sGrid (ctxAt sGrid (by decide +kernel)) (quiet_at _ (by decide +kernel))
    (passes_of (by decide +kernel)) (by decide +kernel) (by decide +kernel) (by decide +kernel) (by decide +kernel)
    (by decide +kernel) (by decide +kernel) (by decide +kernel) (by decide +kernel) (by decide +kernel) (by decide +kernel)
  have ⟨_, _, _, h, _⟩ := completes fun bid b hb _ _ _ => by
    have h0 : sGrid.blocks.all (fun b => b.staged.isEmpty && b.groups.length = 1) = true := by decide +kernel
    have h1 : sGrid.blocks.length = 1 := by decide +kernel
    have ⟨hs, hg⟩ : b.staged.isEmpty = true ∧ b.groups.length = 1 := by
      have := List.all_eq_true.mp h0 b (List.mem_of_getElem? hb); simpa using this
    have hn : bid = 0 := by have := (List.getElem?_eq_some_iff.mp hb).1; omega
    refine ⟨by simpa using hs, .inr fun gid h hh => .inr (.inr ?_)⟩
    have hk : gid = 0 := by have := (List.getElem?_eq_some_iff.mp hh).1; omega
    rw [hn, hk]; decide +kernel
  ⟨_, h⟩

/-! Traps -/

theorem met_trap (o : Obligations.TrappingInstructions) : Completes (.trap ⟨0, 0, 0, 0, 3⟩) s0 :=
  ⟨_, o.1.1 ⟨0, 0, 0, 0, 3⟩ s0 c0 q0 (passes_of (by decide +kernel))⟩

theorem met_brk (o : Obligations.TrappingInstructions) : Completes (.brk ⟨0, 0, 0, 0, 3⟩) s0 :=
  ⟨_, o.1.2.1 ⟨0, 0, 0, 0, 3⟩ s0 c0 q0 (passes_of (by decide +kernel))⟩

theorem met_illegal_opcode (o : Obligations.TrappingInstructions) : Completes (.illegalOpcode 0) s0 :=
  ⟨_, o.1.2.2 0 s0 c0 i0⟩

/-- An operation of slot A without lanes. -/
def op0 (ser : Nat) (q : Option Nat) (body : Body) : Pend :=
  ⟨ser, .a, 0x20008, 0, 0, q, 0, false, .p0, .block, .plain, 1, [], body, [], .waiting, []⟩

/-- Group 0 in supervisor mode, in a trap of this code, the group changed by `f`. -/
def sSup (code : Word) (f : Group → Group) : State := issuing fun h => f { h with tcode := 0x100 + code }

theorem met_pfpark (o : Obligations.TrappingInstructions) :
    Completes (.pfpark ⟨0, 0, 7, 0, 0, 0, 0, 0, 0, 2, 0, 0, 0⟩) (sSup 7 fun h => { h with trapped := some (op0 0 none .load) }) :=
  let s := sSup 7 fun h => { h with trapped := some (op0 0 none .load) }
  ⟨_, (o.2 ⟨0, 0, 7, 0, 0, 0, 0, 0, 0, 2, 0, 0, 0⟩ s (ctxAt s (by decide +kernel)) (quiet_at _ (by decide +kernel))
    (passes_of (by decide +kernel))).1 (op0 0 none .load) (by decide +kernel) (by decide +kernel) (by decide +kernel) (by decide +kernel)⟩

theorem met_pfpark_illegal (o : Obligations.TrappingInstructions) :
    Completes (.pfpark ⟨0, 0, 7, 0, 0, 0, 0, 0, 0, 2, 0, 0, 0⟩) (sSup 7 id) :=
  ⟨_, (o.2 ⟨0, 0, 7, 0, 0, 0, 0, 0, 0, 2, 0, 0, 0⟩ (sSup 7 id) (ctxAt (sSup 7 id) (by decide +kernel)) (quiet_at _ (by decide +kernel))
    (passes_of (by decide +kernel))).2 (.inl (by decide +kernel))⟩

/-- The launch has a trap table of its own. -/
def sTable1 : State := issuing fun h => { h with tvec := 1 }
def trap1 : TrapInfo := ⟨0x10, 0, 0x20008, 0, none, 0, 1, false, false⟩

theorem met_trap_entry (o : Obligations.TakingATrap) : ∃ k, (sTable1.trap g0 .a trap1 none).group? g0 = some k :=
  have ⟨k, h, _⟩ := o.1 sTable1 g0 .a trap1 none _ (group_of (by decide +kernel)) (by decide +kernel) (by decide +kernel)
    (by decide +kernel) (by decide +kernel)
  ⟨k, h⟩

theorem met_trap_frame (o : Obligations.TakingATrap) : ∃ n, (sTable1.trap g0 .a trap1 none).privNum g0 n 1 = 0x10 :=
  ⟨_, o.2.1 sTable1 g0 .a trap1 none _ (group_of (by decide +kernel)) (by decide +kernel) (by decide +kernel) (by decide +kernel)
    (by decide +kernel) (by decide +kernel) (by decide +kernel) (by decide +kernel) (0, 1, 0x10) (List.mem_cons_self ..)⟩

theorem met_trap_kills (o : Obligations.TakingATrap) :
    ∃ m : Launch, ((sSup 7 id).trap g0 .a trap1 none).launches[0]? = some m ∧ m.st = .killed :=
  (o.2.2 (sSup 7 id) g0 .a trap1 none _ _ _ (Option.some_get (by decide +kernel)).symm (group_of (by decide +kernel))
    (Option.some_get (by decide +kernel)).symm (by decide +kernel) (.inl (by decide +kernel)) (by decide +kernel) (by decide +kernel)
    (by decide +kernel) (.inl (by decide +kernel))).1

def eret0 : WordS := ⟨0, 0, 0, 0, 0, 0, 0, 0⟩

/-- The handler's group, with what its frame holds changed. -/
def sHandler (off : Nat) (bs : List Byte) : State :=
  let s := sTable1.trap g0 .a trap1 none
  { s.privPut g0 (0xFFFFFE00 + off) bs with issuer := .slot g0 .a }

theorem met_eret_bad (o : Obligations.ReturnFromTrap) : Completes (.eret eret0) (sHandler 0x80 [9]) :=
  ⟨_, (o.1 eret0 (sHandler 0x80 [9]) (ctxAt (sHandler 0x80 [9]) (by decide +kernel)) (quiet_at _ (by decide +kernel))
    (passes_of (by decide +kernel)) (by decide +kernel) (by decide +kernel) (by decide +kernel)).1 (.inr (.inl (by decide +kernel)))⟩

theorem met_eret (o : Obligations.ReturnFromTrap) : Completes (.eret eret0) (sHandler 0 []) :=
  have ⟨_, _, h, _⟩ := (o.1 eret0 (sHandler 0 []) (ctxAt (sHandler 0 []) (by decide +kernel)) (quiet_at _ (by decide +kernel))
    (passes_of (by decide +kernel)) (by decide +kernel) (by decide +kernel) (by decide +kernel)).2 (by decide +kernel)
    (by decide +kernel) (by decide +kernel) (by decide +kernel) (by decide +kernel)
  ⟨_, h⟩

theorem met_frame_restores (o : Obligations.ReturnFromTrap) :
    ∃ m k : Group, (sTable1.trap g0 .a trap1 none).restoreFrame g0 m = some k :=
  have enters := o.2 sTable1 g0 .a trap1 none _ (group_of (by decide +kernel)) (by decide +kernel) (by decide +kernel)
  have ⟨m, k, _, h, _⟩ := enters (by decide +kernel) (by decide +kernel) (by decide +kernel) (by decide +kernel) (by decide +kernel) (by decide +kernel)
    (by decide +kernel) (fun y => by cases y <;> decide +kernel)
  ⟨m, k, h⟩

theorem met_illop (o : Obligations.ChecksAndConditions) :
    s0.checked c0 ⟨0, false, false, [], [], 0⟩ (fun _ => s0) = s0.trapPlain c0 0 0x01 :=
  (o.1 s0 c0 ⟨0, false, false, [], [], 0⟩ (fun _ => s0)).1 (.inl rfl)

theorem met_priv (o : Obligations.ChecksAndConditions) :
    s0.checked c0 ⟨0, true, true, [], [], 0⟩ (fun _ => s0) = s0.trapPlain c0 0 0x13 :=
  (o.1 s0 c0 ⟨0, true, true, [], [], 0⟩ (fun _ => s0)).2.1 rfl (by decide +kernel) rfl (by decide +kernel)

theorem met_regbnd (o : Obligations.ChecksAndConditions) :
    s0.checked c0 ⟨0, true, false, [Use.src (Want.sreg 1) 64], [], 0⟩ (fun _ => s0) = s0.trapPlain c0 0 0x03 :=
  (o.1 s0 c0 ⟨0, true, false, [Use.src (Want.sreg 1) 64], [], 0⟩ (fun _ => s0)).2.2 rfl (by decide +kernel) (by decide +kernel)
    ⟨.s 64 1, by decide +kernel, by decide +kernel⟩

/-- FPCTL enables invalid. -/
def sInvalid : State := issuing fun h => { h with fpctl := 1 }
/-- The same in a clause of two words. -/
def sInvalid2 : State :=
  issuing fun h => { h with fpctl := 1, slotA := { h.slotA with clause := h.slotA.clause.map fun k => { k with words := [0, 0] } } }
def invalidEff : Eff := { writes := [], conds := [(0, 1)] }

theorem steady_of {s : State} {c : Ctx} (q : Quiet s c) : Steady s c := ⟨q.issues, q.step, q.sck⟩

theorem met_fpexc_pending (o : Obligations.ChecksAndConditions) :
    ∃ c f, ((sInvalid2.withEffect c 0 1 0 4 invalidEff).slot? g0 .a).bind Slot.fpx = some f :=
  let c := ctxAt sInvalid2 (by decide +kernel)
  ⟨c, _, ((o.2.1 sInvalid2 c ⟨0, true, false, [], [], 0⟩ [] 1 0 4 (fun _ => invalidEff) _ _ (steady_of (quiet_at _ (by decide +kernel)))
    (passes_of (by decide +kernel)) (Option.some_get (by decide +kernel)).symm rfl
    (.inr ⟨by decide +kernel, by decide +kernel, rfl⟩)).1 (by decide +kernel) |>.2)⟩

theorem met_fpexc_taken (o : Obligations.ChecksAndConditions) : ∃ c t, sInvalid.regular c ⟨0, true, false, [], [], 0⟩ 1 0 4 (fun _ => invalidEff) = t :=
  let c := ctxAt sInvalid (by decide +kernel)
  ⟨c, _, (o.2.1 sInvalid c ⟨0, true, false, [], [], 0⟩ [] 1 0 4 (fun _ => invalidEff) _ _ (steady_of (quiet_at _ (by decide +kernel)))
    (passes_of (by decide +kernel)) (Option.some_get (by decide +kernel)).symm rfl
    (.inr ⟨by decide +kernel, by decide +kernel, rfl⟩)).2 (by decide +kernel)⟩

/-- An earlier instruction of the clause has raised a condition, and the one that issues raises none. -/
def sRaised : State := issuing fun h => { h with fpctl := 1, slotA := { h.slotA with fpx := some ⟨0, 0x20000, 7, 2⟩ } }
theorem met_fpexc_earlier (o : Obligations.ChecksAndConditions) : ∃ c t, sRaised.regular c ⟨0, true, false, [], [], 0⟩ 1 0 4 (fun _ => {}) = t :=
  let c := ctxAt sRaised (by decide +kernel)
  have steady : Steady sRaised c := ⟨(Option.some_get _).symm, by decide +kernel, fun k hk => by
    have h : c.sl.clause.all (fun k => !k.sck) = true := by decide +kernel
    rw [hk] at h; simpa using h⟩
  ⟨c, _, (o.2.1 sRaised c ⟨0, true, false, [], [], 0⟩ [] 1 0 4 (fun _ => {}) _ _ steady (passes_of (by decide +kernel))
    (Option.some_get (by decide +kernel)).symm rfl (.inl (Option.some_get (by decide +kernel)).symm)).2 (by decide +kernel)⟩

/-- The clause carries a signature. -/
def sSigned (sig : BitVec 16) : State :=
  issuing fun h => { h with slotA := { h.slotA with clause := h.slotA.clause.map fun k => { k with sck := true, sig := sig } } }

theorem met_signature_holds (o : Obligations.ChecksAndConditions) :
    ∃ c t, (sSigned 0x5F25).regular c ⟨0, true, false, [], [], 0⟩ 1 0 4 (fun _ => {}) = t :=
  let c := ctxAt (sSigned 0x5F25) (by decide +kernel)
  ⟨c, _, (o.2.2 (sSigned 0x5F25) c ⟨0, true, false, [], [], 0⟩ [] 1 0 4 (fun _ => {}) _ (Option.some_get _).symm (by decide +kernel)
    (by decide +kernel) (passes_of (by decide +kernel)) (Option.some_get (by decide +kernel)).symm rfl (by decide +kernel)
    (by decide +kernel)).2.1 (.inr (.inr (by decide +kernel)))⟩

theorem met_signature_breaks (o : Obligations.ChecksAndConditions) :
    ∃ c t, (sSigned 0).regular c ⟨0, true, false, [], [], 0⟩ 1 0 4 (fun _ => {}) = t :=
  let c := ctxAt (sSigned 0) (by decide +kernel)
  ⟨c, _, (o.2.2 (sSigned 0) c ⟨0, true, false, [], [], 0⟩ [] 1 0 4 (fun _ => {}) _ (Option.some_get _).symm (by decide +kernel)
    (by decide +kernel) (passes_of (by decide +kernel)) (Option.some_get (by decide +kernel)).symm rfl (by decide +kernel)
    (by decide +kernel)).2.2 (by decide +kernel) (by decide +kernel) (by decide +kernel)⟩

/-! Memory instructions. Format M: STL, RU, KM, D, A, W, OFF, Q, PM, SC, SEM, AS, X. -/

theorem met_ld (o : Obligations.MemoryInstructionsIssue) : Completes (.ld ⟨0, 0, 7, 4, 6, 2, 0, 0, 0, 0, 0, 0, 0⟩) s0 :=
  ⟨_, (o.1 (.ld ⟨0, 0, 7, 4, 6, 2, 0, 0, 0, 0, 0, 0, 0⟩) _ rfl s0 c0 (.v 4 1) (.v 6 2) q0 (passes_of (by decide +kernel))).2.1
    (by decide +kernel) (by decide +kernel)⟩

theorem met_stb (o : Obligations.MemoryInstructionsIssue) : Completes (.stb ⟨0, 0, 7, 4, 0x086, 2, 0, 0, 0, 0, 0, 0, 0⟩) s0 :=
  ⟨_, (o.1 (.stb ⟨0, 0, 7, 4, 0x086, 2, 0, 0, 0, 0, 0, 0, 0⟩) _ rfl s0 c0 (.v 4 4) (.s 6 2) q0 (passes_of (by decide +kernel))).2.1
    (by decide +kernel) (by decide +kernel)⟩

theorem met_lds (o : Obligations.MemoryInstructionsIssue) : Completes (.lds ⟨0, 0, 7, 4, 6, 2, 0, 0, 0, 0, 0, 0, 0⟩) s0 :=
  ⟨_, (o.1 (.lds ⟨0, 0, 7, 4, 6, 2, 0, 0, 0, 0, 0, 0, 0⟩) _ rfl s0 c0 (.s 4 1) (.s 6 2) q0 (passes_of (by decide +kernel))).2.1
    (by decide +kernel) (by decide +kernel)⟩

theorem met_st_no_lane (o : Obligations.MemoryInstructionsIssue) : Completes (.st ⟨0, 0, 0, 4, 6, 2, 0, 0, 0, 0, 0, 0, 0⟩) s0 :=
  ⟨_, (o.1 (.st ⟨0, 0, 0, 4, 6, 2, 0, 0, 0, 0, 0, 0, 0⟩) _ rfl s0 c0 (.v 4 1) (.v 6 2) q0 (passes_of (by decide +kernel))).2.2
    (by decide +kernel) (by decide +kernel)⟩

/-- Stream 0 holds 63 operations. -/
def sFull : State := issuing fun h => { h with pend := (List.range 63).map fun i => op0 i (some 0) .order }
theorem met_ld_waits (o : Obligations.MemoryInstructionsIssue) :
    exec (.ld ⟨0, 0, 7, 4, 6, 2, 0, 0, 0, 0, 0, 0, 0⟩) sFull = .next (sFull.holdOn (ctxAt sFull (by decide +kernel)) (.stream 0)) :=
  (o.1 (.ld ⟨0, 0, 7, 4, 6, 2, 0, 0, 0, 0, 0, 0, 0⟩) _ rfl sFull (ctxAt sFull (by decide +kernel)) (.v 4 1) (.v 6 2)
    (quiet_at _ (by decide +kernel)) (passes_of (by decide +kernel))).1 (by decide +kernel)

theorem met_atom (o : Obligations.MemoryInstructionsIssue) : Completes (.atom ⟨0, 0, 4, 6, 8, 0, 0, 0, 0, 0, 0⟩) s0 :=
  ⟨_, (o.2.1 (.atom ⟨0, 0, 4, 6, 8, 0, 0, 0, 0, 0, 0⟩) _ _ _ _ rfl s0 c0 (.v 4 1) (.v 6 2) (.v 8 1) q0
    (passes_of (by decide +kernel)) (by decide +kernel)).1 (by decide +kernel)⟩

theorem met_acass (o : Obligations.MemoryInstructionsIssue) : Completes (.acass ⟨0, 0, 4, 6, 8, 0, 0, 0, 0, 0, 0⟩) s0 :=
  ⟨_, (o.2.1 (.acass ⟨0, 0, 4, 6, 8, 0, 0, 0, 0, 0, 0⟩) _ _ _ _ rfl s0 c0 (.s 4 1) (.s 6 2) (.s 8 1) q0
    (passes_of (by decide +kernel)) (by decide +kernel)).1 (by decide +kernel)⟩

/-- No lane of slot A is in EXEC. -/
def sDark : State := issuing fun h => { h with slotA := { h.slotA with exec := 0 } }
theorem met_atoms_no_lane (o : Obligations.MemoryInstructionsIssue) : Completes (.atoms ⟨0, 0, 4, 6, 8, 9, 0, 0, 0, 0, 0⟩) sDark :=
  ⟨_, (o.2.1 (.atoms ⟨0, 0, 4, 6, 8, 9, 0, 0, 0, 0, 0⟩) _ _ _ _ rfl sDark (ctxAt sDark (by decide +kernel)) (.s 4 1) (.s 6 2) (.s 8 1)
    (quiet_at _ (by decide +kernel)) (passes_of (by decide +kernel)) (by decide +kernel)).2 (by decide +kernel)⟩

theorem met_prfm (o : Obligations.MemoryInstructionsIssue) : Completes (.prfm ⟨0, 0, 7, 0, 6, 2, 0, 0, 0, 2, 0, 0, 0⟩) s0 :=
  ⟨_, o.2.2.1 ⟨0, 0, 7, 0, 6, 2, 0, 0, 0, 2, 0, 0, 0⟩ s0 c0 (.v 6 2) q0 (passes_of (by decide +kernel)) (by decide +kernel)⟩

theorem met_sgjoin (o : Obligations.MemoryInstructionsIssue) : Completes (.sgjoin ⟨0, 0, 7, 4, 6, 0, 0, 0, 0, 2, 0, 0, 0⟩) s0 :=
  have ⟨_, _, h⟩ := o.2.2.2.1 ⟨0, 0, 7, 4, 6, 0, 0, 0, 0, 2, 0, 0, 0⟩ s0 c0 (.s 4 1) (.s 6 1) q0 (passes_of (by decide +kernel))
    (by decide +kernel)
  ⟨_, h⟩

theorem met_sgleave (o : Obligations.MemoryInstructionsIssue) : Completes (.sgleave ⟨0, 0, 7, 4, 0, 0, 0, 0, 0, 2, 0, 0, 0⟩) s0 :=
  have ⟨_, _, h⟩ := o.2.2.2.2.1 _ _ ⟨0, 0, 7, 4, 0, 0, 0, 0, 0, 2, 0, 0, 0⟩ (.inl ⟨rfl, rfl⟩) s0 c0 (.s 4 1) q0
    (passes_of (by decide +kernel)) (by decide +kernel)
  ⟨_, h⟩

theorem met_sgqry (o : Obligations.MemoryInstructionsIssue) : Completes (.sgqry ⟨0, 0, 7, 4, 0, 0, 0, 0, 0, 2, 0, 0, 0⟩) s0 :=
  have ⟨_, _, h⟩ := o.2.2.2.2.1 _ _ ⟨0, 0, 7, 4, 0, 0, 0, 0, 0, 2, 0, 0, 0⟩ (.inr ⟨rfl, rfl⟩) s0 c0 (.s 4 1) q0
    (passes_of (by decide +kernel)) (by decide +kernel)
  ⟨_, h⟩

theorem met_pfmap (o : Obligations.MemoryInstructionsIssue) :
    Completes (.pfmap ⟨0, 0, 7, 4, 6, 0, 0, 0, 0, 2, 0, 0, 0⟩) (sSup 7 id) :=
  have ⟨_, _, _, h⟩ := o.2.2.2.2.2.1 ⟨0, 0, 7, 4, 6, 0, 0, 0, 0, 2, 0, 0, 0⟩ (sSup 7 id) (ctxAt (sSup 7 id) (by decide +kernel))
    (.s 4 2) (.s 6 2) (quiet_at _ (by decide +kernel)) (passes_of (by decide +kernel)) (by decide +kernel)
  ⟨_, h⟩

theorem met_tlbi (o : Obligations.MemoryInstructionsIssue) :
    Completes (.tlbi ⟨0, 0, 7, 4, 6, 0, 0, 0, 0, 2, 0, 0, 0⟩) (sSup 7 id) :=
  have ⟨_, _, h, _⟩ := o.2.2.2.2.2.2 ⟨0, 0, 7, 4, 6, 0, 0, 0, 0, 2, 0, 0, 0⟩ (sSup 7 id) (ctxAt (sSup 7 id) (by decide +kernel))
    [.s 4 1, .s 6 2] (quiet_at _ (by decide +kernel)) (passes_of (by decide +kernel)) (by decide +kernel)
  ⟨_, h⟩

theorem met_tlbi_all (o : Obligations.MemoryInstructionsIssue) :
    Completes (.tlbi ⟨0, 0, 7, 0, 0, 2, 0, 0, 0, 0, 0, 0, 0⟩) (sSup 7 id) :=
  have ⟨_, _, h, _⟩ := o.2.2.2.2.2.2 ⟨0, 0, 7, 0, 0, 2, 0, 0, 0, 0, 0, 0, 0⟩ (sSup 7 id) (ctxAt (sSup 7 id) (by decide +kernel))
    [] (quiet_at _ (by decide +kernel)) (passes_of (by decide +kernel)) (by decide +kernel)
  ⟨_, h⟩

/-! Translation and accesses -/

theorem all_of {α : Type} {o : Option α} {P : α → Prop} [DecidablePred P] (h : (o.all fun x => decide (P x)) = true) :
    ∀ x, o = some x → P x := by
  intro x hx; subst hx; simpa using h

/-- A load of s4 from the placed page. -/
def load0 : Pend := { op0 0 (some 0) .load with accs := [lanePart 96 0x20000 4 [.s 4] 0 0 false] }
def sWalk : State := issuing fun h => { h with slotA := { h.slotA with walk := some load0 } }
def cWalk : Ctx := ctxAt sWalk (by decide +kernel)

theorem met_page_walk (o : Obligations.PageWalks) : Completes .pageWalk sWalk :=
  have ⟨_, _, _, h, _⟩ := o.1 sWalk cWalk load0 [_] (quiet_at _ (by decide +kernel)) (by decide +kernel) (by decide +kernel)
    (by decide +kernel) (by decide +kernel) (by decide +kernel) (by decide +kernel)
    (congrArg (· :: []) (inr_of (sWalk.walkAcc (sWalk.whoGroup cWalk.g) load0 cWalk.l.contract cWalk.h.miss
      (lanePart 96 0x20000 4 [.s 4] 0 0 false)) (by decide +kernel)))
  ⟨_, h⟩

/-- A load of s4 at `va` that slot A translates, misaligned if `bad`, with what else memory holds. -/
def walkOf (va : Nat) (bad : Bool) : Pend := { op0 0 (some 0) .load with accs := [lanePart 96 va 4 [.s 4] 0 0 bad] }
def sWalkOf (va : Nat) (bad : Bool) (m : Memory → Memory) : State :=
  let s := issuing fun h => { h with slotA := { h.slotA with walk := some (walkOf va bad) } }
  { s with mem := m s.mem }

theorem met_walk_traps (o : Obligations.PageWalks) : Completes .pageWalk (sWalkOf (2 ^ 48) false id) :=
  ⟨_, ((o.2.1 (sWalkOf (2 ^ 48) false id) (ctxAt (sWalkOf (2 ^ 48) false id) (by decide +kernel)) (walkOf (2 ^ 48) false) _
    (quiet_at _ (by decide +kernel)) (by decide +kernel) rfl (by decide +kernel) (by decide +kernel) (by decide +kernel)
    (Option.some_get (by decide +kernel)).symm).2 (by decide +kernel) (by decide +kernel)).1 0x06 (by decide +kernel)⟩

theorem met_walk_misaligned (o : Obligations.PageWalks) : Completes .pageWalk (sWalkOf 0x20001 true id) :=
  ⟨_, ((o.2.1 (sWalkOf 0x20001 true id) (ctxAt (sWalkOf 0x20001 true id) (by decide +kernel)) (walkOf 0x20001 true) _
    (quiet_at _ (by decide +kernel)) (by decide +kernel) rfl (by decide +kernel) (by decide +kernel) (by decide +kernel)
    (Option.some_get (by decide +kernel)).symm).2 (by decide +kernel) (by decide +kernel)).1 0x05 (by decide +kernel)⟩

theorem met_walk_touches (o : Obligations.PageWalks) : Completes .pageWalk (sWalkOf 0x30000 false fun m => m.putNum 0x4018 8 0x102) :=
  ⟨_, ((o.2.1 (sWalkOf 0x30000 false fun m => m.putNum 0x4018 8 0x102)
    (ctxAt (sWalkOf 0x30000 false fun m => m.putNum 0x4018 8 0x102) (by decide +kernel)) (walkOf 0x30000 false) _
    (quiet_at _ (by decide +kernel)) (by decide +kernel) rfl (by decide +kernel) (by decide +kernel) (by decide +kernel)
    (Option.some_get (by decide +kernel)).symm).2 (by decide +kernel) (by decide +kernel)).2.1 (by decide +kernel)⟩

theorem met_walk_parks (o : Obligations.PageWalks) : Completes .pageWalk (sWalkOf 0x30000 false id) :=
  have ⟨_, _, h, _⟩ := ((o.2.1 (sWalkOf 0x30000 false id) (ctxAt (sWalkOf 0x30000 false id) (by decide +kernel)) (walkOf 0x30000 false) _
    (quiet_at _ (by decide +kernel)) (by decide +kernel) rfl (by decide +kernel) (by decide +kernel) (by decide +kernel)
    (Option.some_get (by decide +kernel)).symm).2 (by decide +kernel) (by decide +kernel)).2.2 (by decide +kernel)
  ⟨_, h⟩

theorem met_take_fault (o : Obligations.PageWalks) : ∃ r : LaneFault, takeFault [⟨.prot, 1, 0⟩, ⟨.misal, 2, 8⟩] = some r ∧ r.lanes.getLsbD 1 = true :=
  ⟨_, rfl, ((o.2.2 [⟨.prot, 1, 0⟩, ⟨.misal, 2, 8⟩] _ rfl).2.2.1 1).2 ⟨⟨.misal, 2, 8⟩, by decide +kernel, by decide +kernel, by decide +kernel⟩⟩

def who0 : Who := s0.whoGroup g0
theorem pointer_of {s : State} {at_ next size : Nat} (h : (decide (s.numAt at_ 8 = next + 1) && decide (next % size = 0) &&
    decide (next + size ≤ s.part.dcap) && decide (next < 2 ^ 52) && !s.poisoned [at_]) = true) : tablePointer s at_ next size := by
  simpa [tablePointer, and_assoc] using h

/-- The tables of the placed page lead to the entries of the last two levels. -/
theorem reaches_low {s : State} (va : Nat) (h : va < 2 ^ 21) (h1 : tablePointer s 0x1000 0x2000 4096) (h2 : tablePointer s 0x2000 0x3000 4096)
    (h3 : tablePointer s 0x3000 0x4000 256) : walkReaches s 0x1000 va 3 (0x4000 + 8 * (va / 65536)) :=
  ⟨0x3000, 0x4000, ⟨0x2000, 0x3000, ⟨0x1000, 0x2000, by show _ = _; omega, h1, by show _ = _ + 8 * (va / 2 ^ 30 % 512); omega⟩, h2,
    by show _ = _ + 8 * (va / 2 ^ 21 % 512); omega⟩, h3, by show _ = _ + 8 * (va / 2 ^ 16 % 32); omega⟩
theorem reaches_page {s : State} (h : walkReaches s 0x1000 0x20000 3 0x4010) (h4 : tablePointer s 0x4010 0x4100 128) :
    walkReaches s 0x1000 0x20000 4 0x4100 := ⟨0x4010, 0x4100, h, h4, rfl⟩

theorem reaches0 : walkReaches s0 0x1000 0x20000 4 0x4100 :=
  reaches_page (reaches_low 0x20000 (by decide) (pointer_of (by decide +kernel)) (pointer_of (by decide +kernel))
    (pointer_of (by decide +kernel))) (pointer_of (by decide +kernel))

theorem walks (o : Obligations.AddressTranslation) (need : Need) :
    (leafAllows need (0x2005F : DWord) = true →
      s0.translate who0 need 0x20000 = .inr ⟨0x20000, 4096, leafPA (0x2005F : DWord), some (0x2005F, 0x4100), false⟩) ∧
    (leafAllows need (0x2005F : DWord) = false → s0.translate who0 need 0x20000 = .inl .prot) :=
  (o.1 s0 who0 need 0x20000 0x1000 4 0x4100 0x2005F (by decide)
    (by rcases need with ⟨_ | _, _ | _, _ | _⟩ <;> decide +kernel) (by decide +kernel) rfl rfl (by decide) reaches0 (by decide +kernel)
    (by decide +kernel)).1 rfl rfl (by decide) ⟨rfl, rfl⟩ (by decide +kernel) (by decide +kernel)

theorem met_walk (o : Obligations.AddressTranslation) :
    s0.translate who0 .load 0x20000 = .inr ⟨0x20000, 4096, leafPA (0x2005F : DWord), some (0x2005F, 0x4100), false⟩ :=
  (walks o .load).1 (by decide +kernel)

/-- The leaf of the placed page, or the entry of the page behind it, changed. -/
def sLeaf (e : Nat) : State := { s0 with mem := s0.mem.putNum 0x4100 8 e }
def sNext (e : Nat) : State := { s0 with mem := s0.mem.putNum 0x4018 8 e }

theorem met_walk_prot (o : Obligations.AddressTranslation) : (sLeaf 0x20007).translate who0 .store 0x20000 = .inl .prot :=
  ((o.1 (sLeaf 0x20007) who0 .store 0x20000 0x1000 4 0x4100 0x20007 (by decide) (by decide +kernel) (by decide +kernel) rfl rfl (by decide)
    (reaches_page (reaches_low 0x20000 (by decide) (pointer_of (by decide +kernel)) (pointer_of (by decide +kernel))
      (pointer_of (by decide +kernel))) (pointer_of (by decide +kernel))) (by decide +kernel)
    (by decide +kernel)).1 rfl rfl (by decide) ⟨rfl, rfl⟩ (by decide +kernel) (by decide +kernel)).2 (by decide +kernel)

theorem met_walk_reserved (o : Obligations.AddressTranslation) : (sLeaf 0x2025F).translate who0 .load 0x20000 = .inl .prot :=
  (o.1 (sLeaf 0x2025F) who0 .load 0x20000 0x1000 4 0x4100 0x2025F (by decide) (by decide +kernel) (by decide +kernel) rfl rfl (by decide)
    (reaches_page (reaches_low 0x20000 (by decide) (pointer_of (by decide +kernel)) (pointer_of (by decide +kernel))
      (pointer_of (by decide +kernel))) (pointer_of (by decide +kernel))) (by decide +kernel)
    (by decide +kernel)).2.1 rfl rfl (.inr (.inl (by decide)))

theorem met_walk_low_pointer (o : Obligations.AddressTranslation) : (sLeaf 0x5001).translate who0 .load 0x20000 = .inl .prot :=
  (o.1 (sLeaf 0x5001) who0 .load 0x20000 0x1000 4 0x4100 0x5001 (by decide) (by decide +kernel) (by decide +kernel) rfl rfl (by decide)
    (reaches_page (reaches_low 0x20000 (by decide) (pointer_of (by decide +kernel)) (pointer_of (by decide +kernel))
      (pointer_of (by decide +kernel))) (pointer_of (by decide +kernel))) (by decide +kernel)
    (by decide +kernel)).2.2.1 rfl rfl rfl

theorem met_walk_absent (o : Obligations.AddressTranslation) : s0.translate who0 .load 0x30000 = .inl .absent :=
  (o.1 s0 who0 .load 0x30000 0x1000 3 0x4018 0 (by decide) (by decide +kernel) (by decide +kernel) rfl rfl (by decide)
    (reaches_low 0x30000 (by decide) (pointer_of (by decide +kernel)) (pointer_of (by decide +kernel)) (pointer_of (by decide +kernel)))
    (by decide +kernel) (by decide +kernel)).2.2.2.1 rfl rfl

theorem met_walk_first_touch (o : Obligations.AddressTranslation) : (sNext 0x102).translate who0 .load 0x30000 = .inl .firstTouch :=
  (o.1 (sNext 0x102) who0 .load 0x30000 0x1000 3 0x4018 0x102 (by decide) (by decide +kernel) (by decide +kernel) rfl rfl (by decide)
    (reaches_low 0x30000 (by decide) (pointer_of (by decide +kernel)) (pointer_of (by decide +kernel)) (pointer_of (by decide +kernel)))
    (by decide +kernel) (by decide +kernel)).2.2.2.2 rfl rfl rfl (by decide) ⟨rfl, rfl⟩

/-- The placed page is stamped with contract 3. -/
def sStamped : State := sLeaf (0x2005F + 3 * 2 ^ 52)
theorem met_stamp (o : Obligations.AddressTranslation) :
    sStamped.translateSpan who0 .load (some 5) false 0x20000 4 = .inl ⟨.cmix, 0x20000⟩ :=
  ((o.2.1 sStamped who0 .load 0x20000 4 5 0x4100 _ (0x2005F + 3 * 2 ^ 52) (inr_of _ (by decide +kernel)) (by decide +kernel)
    (by decide) (by decide)).1 (by decide) (by decide)).1

theorem met_stamp_agrees (o : Obligations.AddressTranslation) :
    ∃ sp, sStamped.translateSpan who0 .load (some 3) false 0x20000 4 = .inr sp :=
  ⟨_, (o.2.1 sStamped who0 .load 0x20000 4 3 0x4100 _ (0x2005F + 3 * 2 ^ 52) (inr_of _ (by decide +kernel)) (by decide +kernel)
    (by decide) (by decide)).2.1 (.inr (by decide)) false⟩

theorem met_high_address (o : Obligations.AddressTranslation) : s0.translate who0 .load (2 ^ 48) = .inl .prot :=
  o.2.2.1 s0 who0 .load (2 ^ 48) (by decide)

theorem met_no_asid (o : Obligations.AddressTranslation) : State.reset.translate ⟨7, none, none, 256, 8, none⟩ .load 0x20000 = .inl .prot :=
  o.2.2.2.1 State.reset ⟨7, none, none, 256, 8, none⟩ .load 0x20000 (by decide +kernel) (by decide +kernel) rfl (by decide +kernel)

theorem met_private (o : Obligations.AddressTranslation) :
    s0.translate who0 .store 0x7E00FFFFFFFF = .inr ⟨0x7E0000000000, 2 ^ 32, privateKey g0 0, none, false⟩ :=
  o.2.2.2.2.1 s0 g0 .store 0x7E00FFFFFFFF (by decide) (by decide)

theorem met_own_share (o : Obligations.AddressTranslation) : ∃ r, s0.translate who0 .load 0x7F0000000010 = r :=
  ⟨_, o.2.2.2.2.2.1 s0 who0 .load 0 0x10 _ _ rfl (Option.some_get (by decide +kernel)).symm (Option.some_get (by decide +kernel)).symm
    (by decide)⟩

theorem met_sharing_window (o : Obligations.AddressTranslation) : s0.translate who0 .store 0x7F1000800000 = .inl .prot :=
  (o.2.2.2.2.2.2.1 s0 who0 .store 0 1 0 _ rfl (Option.some_get (by decide +kernel)).symm (by decide) (by decide)).2.1 rfl
    (by decide +kernel)

/-- Block 0 shares with a member 1, itself. -/
def sShared : State := { s0 with sharing := [⟨0, 7, [(1, 0)]⟩] }
theorem met_sharing_member (o : Obligations.AddressTranslation) : ∃ r, sShared.translate who0 .store 0x7F1000800000 = r :=
  ⟨_, ((o.2.2.2.2.2.2.1 sShared who0 .store 0 1 0 _ rfl (Option.some_get (by decide +kernel)).symm (by decide) (by decide)).2.2 _ rfl
    (Option.some_get (by decide +kernel)).symm).2 0 _ (by decide +kernel) (Option.some_get (by decide +kernel)).symm⟩

theorem met_capability_window (o : Obligations.AddressTranslation) : s0.translate who0 .store 0x7F2000000000 = .inl .prot :=
  o.2.2.2.2.2.2.2.1 s0 who0 .store 0x7F2000000000 (by decide) (by decide)

theorem met_translated_window (o : Obligations.AddressTranslation) : s0.translate who0 .load 0x7F3000000000 = .inl .prot :=
  (o.2.2.2.2.2.2.2.2.1 s0 who0 .load 0x7F3000000000 (by decide) (by decide)).1 (.inl rfl)

theorem met_firmware_window (o : Obligations.AddressTranslation) : s0.translate who0 .load 0x0F000000 = .inl .prot :=
  o.2.2.2.2.2.2.2.2.2 s0 who0 .load 0x0F000000 (by decide) (by decide) (.inl rfl)

/-- Group 0 with operations that are translated, and the group acts. -/
def sOps (l : List Pend) : State := { issuing (fun h => { h with pend := l }) with issuer := .group g0 }

/-- What Performs asks of an operation of group 0, as a check. -/
def Pend.performs (s : State) (p : Pend) : Bool :=
  ((s.group? g0).any fun h => h.wf && decide (h.pend.find? (fun q => q.ser = p.ser) = some p) && (s.block? g0.bid).all fun b => b.groups.all fun k => (k.pend ++ k.aside).all fun a => a.behind.isEmpty)
    && s.performable g0 p && decide (s.poison = []) && s.mem.wf && ((s.launchOf g0.bid).all fun l => !l.snap)
    && (p.accs.all fun a => !a.staged && decide (a.pas.length = a.len) && decide (a.len ≠ 0) && a.pas.all fun x => !isCap x && decide (x < firmwareKey 0))
    && p.got.isEmpty && ((s.block? g0.bid).all fun b => b.staged.isEmpty)

theorem performs_of {s : State} {p : Pend} (h : p.performs s = true) : ∃ k, Performs s g0 k p ∧ k.wf = true := by
  simp only [Pend.performs, Bool.and_eq_true, decide_eq_true_eq, List.isEmpty_iff] at h
  obtain ⟨⟨⟨⟨⟨⟨⟨hg, hr⟩, hc⟩, hw⟩, hs⟩, ha⟩, hp⟩, hb⟩ := h
  obtain ⟨k, hk, hf⟩ := Option.any_eq_true .. |>.mp hg
  simp only [Bool.and_eq_true, decide_eq_true_eq] at hf
  refine ⟨k, ⟨hk, hf.1.2, hr, hc, hw, fun l hl => ?_, fun a hm => ?_, hp, fun b hl => ?_, fun b hl k hk a ha => ?_⟩, hf.1.1⟩
  · simpa [hl] using hs
  · simpa [and_assoc] using List.all_eq_true.mp ha a hm
  · simpa [hl] using hb
  · have h := hf.2
    rw [hl] at h
    simpa using List.all_eq_true.mp (List.all_eq_true.mp h k hk) a ha

def store1 : Pend :=
  { op0 0 (some 0) .store with accs := [⟨96, 0x20020, 4, span 0x20020 4, [], 0x04030201, 0, false, false⟩] }
theorem store1_performs (x : Party) : ∃ k, Performs { sOps [store1] with issuer := x } g0 k store1 :=
  have ⟨k, h, _⟩ := performs_of (s := sOps [store1]) (p := store1) (by decide +kernel)
  ⟨k, h.group, h.found, h.ready, h.clean, h.sound, h.snap, h.plain, h.whole, h.reserve, h.links⟩
theorem met_store (o : Obligations.AccessesPerform) : Completes (.accessPerform 0) (sOps [store1]) :=
  have ⟨_, hp⟩ := store1_performs (.group g0)
  have ⟨_, _, h, _⟩ := o.1 _ g0 _ _ rfl hp rfl
  ⟨_, h⟩

theorem met_store_byte (o : Obligations.AccessesPerform) :
    ∃ t : State, exec (.accessPerform 0) (sOps [store1]) = .next t ∧ t.physByte 0x20022 = 3 :=
  have ⟨_, hp⟩ := store1_performs (.group g0)
  have ⟨t, _, h, _, _, _, _, _, _, _, _, _, v⟩ := o.1 _ g0 _ _ rfl hp rfl
  ⟨t, h, v 0 ⟨96, 0x20020, 4, span 0x20020 4, [], 0x04030201, 0, false, false⟩ 2 0x20022 rfl rfl
    (fun m hm => by match m with | 0 => omega | 1 => omega | 2 => omega | 3 => decide | m + 4 => simp [span])
    (fun k b hk hb => by match k with | 0 => omega | k + 1 => simp [store1] at hb)⟩

def load1 : Pend := { op0 0 (some 0) .load with accs := [⟨96, 0x20000, 4, span 0x20000 4, [.s 4], 0, 0, false, false⟩] }
theorem load1_performs : ∃ k, Performs (sOps [load1]) g0 k load1 ∧ k.wf = true := performs_of (by decide +kernel)
theorem met_load (o : Obligations.AccessesPerform) : Completes (.accessPerform 0) (sOps [load1]) :=
  have ⟨_, hp, _⟩ := load1_performs
  have ⟨_, _, h, _⟩ := o.2.1 _ g0 _ _ rfl hp rfl
  ⟨_, h⟩

theorem met_load_register (o : Obligations.AccessesPerform) :
    ∃ k : Group, k.cell (.s 4) = BitVec.ofNat 32 (leNat ((sOps [load1]).physBytes (span 0x20000 4)) / 2 ^ (32 * 0)) :=
  have ⟨_, hp, hw⟩ := load1_performs
  have ⟨_, k, _, _, _, _, v, _⟩ := o.2.1 _ g0 _ _ rfl hp rfl
  ⟨k, v hw (by decide +kernel) (by decide +kernel) ⟨96, 0x20000, 4, span 0x20000 4, [.s 4], 0, 0, false, false⟩ 0 (.s 4)
    (by decide +kernel) (by decide +kernel) nofun nofun⟩

/-- The group performs one piece of the store. -/
theorem met_store_piece (o : Obligations.AccessesPerform) :
    Completes (.accessPerform 0) { sOps [store1] with issuer := .part (.group g0) 0x20020 } :=
  have ⟨_, hp⟩ := store1_performs (.part (.group g0) 0x20020)
  have ⟨_, _, h, _⟩ := o.2.2.1 _ g0 _ _ 0x20020 rfl hp rfl (by decide)
  ⟨_, h⟩

def swap1 (aop : Nat) (cas : Bool) : Pend :=
  { op0 0 (some 0) (.atomic aop cas false) with accs := [⟨96, 0x20020, 4, span 0x20020 4, [.s 4], 5, 0, false, false⟩] }
theorem met_atomic (o : Obligations.AccessesPerform) : Completes (.accessPerform 0) (sOps [swap1 0 false]) :=
  have ⟨_, hp, hw⟩ := performs_of (s := sOps [swap1 0 false]) (p := swap1 0 false) (by decide +kernel)
  have ⟨_, _, e, _⟩ := o.2.2.2.1 _ g0 _ _ _ 0 false false 0x20020 rfl hp rfl rfl rfl hw (.inr (.inl (by decide))) (by decide)
  ⟨_, e⟩

theorem met_atomic_fadd (o : Obligations.AccessesPerform) : Completes (.accessPerform 0) (sOps [swap1 9 false]) :=
  have ⟨_, hp, hw⟩ := performs_of (s := sOps [swap1 9 false]) (p := swap1 9 false) (by decide +kernel)
  have ⟨_, _, e, _⟩ := o.2.2.2.1 _ g0 _ _ _ 9 false false 0x20020 rfl hp rfl rfl rfl hw (.inr (.inr ⟨rfl, .inl rfl⟩)) (by decide)
  ⟨_, e⟩

theorem met_cas (o : Obligations.AccessesPerform) : Completes (.accessPerform 0) (sOps [swap1 0 true]) :=
  have ⟨_, hp, hw⟩ := performs_of (s := sOps [swap1 0 true]) (p := swap1 0 true) (by decide +kernel)
  have ⟨_, _, e, _⟩ := o.2.2.2.1 _ g0 _ _ _ 0 true false 0x20020 rfl hp rfl rfl rfl hw (.inl rfl) (by decide)
  ⟨_, e⟩

/-- The old value goes to lane 1 of v4. -/
def swapV : Pend := { op0 0 (some 0) (.atomic 8 false false) with accs := [⟨1, 0x20020, 4, span 0x20020 4, [.v 4 1], 5, 0, false, false⟩] }
theorem met_atomic_vector (o : Obligations.AccessesPerform) :
    ∃ k : Group, k.cell (.v 4 1) = BitVec.ofNat 32 (leNat ((sOps [swapV]).physBytes (span 0x20020 4)) / 2 ^ (32 * 0)) :=
  have ⟨_, hp, hw⟩ := performs_of (s := sOps [swapV]) (p := swapV) (by decide +kernel)
  have ⟨_, k, _, _, _, _, _, v⟩ := o.2.2.2.1 _ g0 _ _ _ 8 false false 0x20020 rfl hp rfl rfl rfl hw (.inr (.inl (by decide))) (by decide)
  ⟨k, v (by decide) (by decide +kernel) 0 (.v 4 1) rfl nofun nofun⟩

/-- A store whose edge names stream 0, on which a load before it is outstanding. -/
def store2 : Pend := { store1 with ser := 1, q := some 1, pm := 1 }
theorem met_edge_waits (o : Obligations.AccessesPerform) :
    exec (.accessPerform 1) (sOps [load1, store2]) = .next (sOps [load1, store2]) :=
  o.2.2.2.2 (sOps [load1, store2]) g0 _ _ store2 load1 rfl (Option.some_get (by decide +kernel)).symm
    (Option.some_get (by decide +kernel)).symm (by decide +kernel) (by decide +kernel) (by decide) ⟨0, rfl, by decide⟩ (.inl rfl)
    (by decide +kernel) (by decide)

/-! Copies. Format C: STL, RU, DESC, D, Q, PM, X, XF, CH, TY. -/

/-- Group 0 with a copy descriptor in s8 to s15. -/
def sDesc (l : List (Nat × Word)) : State := issuing fun h => { h with s := l }

def linear : List (Nat × Word) := [(8, 0x20100), (10, 0x20200), (12, 0x90)]
theorem met_cpys (o : Obligations.CopyInstructions) : Completes (.cpys ⟨0, 0, 8, 4, 0, 0, 0, 0, 0, 0⟩) (sDesc linear) :=
  have ⟨_, _, _, h, _⟩ := (o.1 (.cpys ⟨0, 0, 8, 4, 0, 0, 0, 0, 0, 0⟩) _ _ _ _ rfl (sDesc linear) (ctxAt (sDesc linear) (by decide +kernel))
    (.s 8 8) (.s 4 1) (quiet_at _ (by decide +kernel)) (passes_of (by decide +kernel))).2 (by decide +kernel) (by decide +kernel)
    (by decide +kernel)
  ⟨_, h⟩

theorem met_cpye (o : Obligations.CopyInstructions) : Completes (.cpye ⟨0, 0, 8, 4, 0, 0, 0, 0, 31, 0⟩) (sDesc linear) :=
  have ⟨_, _, _, h, _⟩ := (o.1 (.cpye ⟨0, 0, 8, 4, 0, 0, 0, 0, 31, 0⟩) _ _ _ _ rfl (sDesc linear) (ctxAt (sDesc linear) (by decide +kernel))
    (.s 8 8) (.s 4 1) (quiet_at _ (by decide +kernel)) (passes_of (by decide +kernel))).2 (by decide +kernel) (by decide +kernel)
    (by decide +kernel)
  ⟨_, h⟩

/-- Two rows of 8 elements, 64 bytes apart at the source and 32 at the destination. -/
def tiled (src : Word) : List (Nat × Word) := [(8, src), (10, 0x20200), (12, 8), (13, 0x20000), (14, 0x40), (15, 0x20)]
theorem met_cpyt (o : Obligations.CopyInstructions) : Completes (.cpyt ⟨0, 0, 8, 4, 0, 0, 0, 1, 0, 0⟩) (sDesc (tiled 0x20100)) :=
  have ⟨_, _, _, h, _⟩ := (o.1 (.cpyt ⟨0, 0, 8, 4, 0, 0, 0, 1, 0, 0⟩) _ _ _ _ rfl (sDesc (tiled 0x20100))
    (ctxAt (sDesc (tiled 0x20100)) (by decide +kernel)) (.s 8 8) (.s 4 1) (quiet_at _ (by decide +kernel)) (passes_of (by decide +kernel))).2
    (by decide +kernel) (by decide +kernel) (by decide +kernel)
  ⟨_, h⟩

theorem met_cpyt_misaligned (o : Obligations.CopyInstructions) :
    Completes (.cpyt ⟨0, 0, 8, 4, 0, 0, 0, 1, 0, 0⟩) (sDesc (tiled 0x20101)) :=
  ⟨_, (o.1 (.cpyt ⟨0, 0, 8, 4, 0, 0, 0, 1, 0, 0⟩) _ _ _ _ rfl (sDesc (tiled 0x20101))
    (ctxAt (sDesc (tiled 0x20101)) (by decide +kernel)) (.s 8 8) (.s 4 1) (quiet_at _ (by decide +kernel)) (passes_of (by decide +kernel))).1
    0x20101 (by decide +kernel)⟩

/-- A copy of 0x90 bytes within the placed page, under handle 0. -/
def copy0 : Copy where
  owner := g0
  ser := 0
  core := 0
  handle := 0
  src := 0x20000
  dst := 0x20240
  len := 0x90
  rows := 1
  sstr := 0
  dstr := 0
  xf := 0
  ty := 0
  sfmt := 0
  timed := none
  engine := none
  miss := false
  st := .armed
  cause := 0
  wp := 0
  set := false
  late := false
  cmixs := false
  cancel := false
  tile := none
  work := none

/-- The copy in flight, its page dirty; s4 holds its handle. -/
def sCopy (x : Party) (k : Copy) : State :=
  let s := issuing fun h => { h with pend := [op0 0 (some 0) (.copy 0)], copySeq := 1, s := [(5, 4)] }
  { s with mem := s.mem.putNum 0x4100 8 0x200DF, copies := [k], issuer := x }
def sHand : State := sCopy (.slot g0 .a) copy0
def cHand : Ctx := ctxAt sHand (by decide +kernel)

theorem met_cpwp (o : Obligations.CopyInstructions) : Completes (.cpwp ⟨0, 0, 0, 4, 0, 0, 0, 0, 0, 0⟩) sHand :=
  ⟨_, o.2.1 ⟨0, 0, 0, 4, 0, 0, 0, 0, 0, 0⟩ sHand cHand (.s 4 2) (.s 4 1) (.s 5 1) (quiet_at _ (by decide +kernel))
    (passes_of (by decide +kernel))⟩

theorem met_cpqry (o : Obligations.CopyInstructions) : Completes (.cpqry ⟨0, 0, 0, 4, 0, 0, 0, 0, 0, 0⟩) sHand :=
  ⟨_, o.2.2.1 ⟨0, 0, 0, 4, 0, 0, 0, 0, 0, 0⟩ sHand cHand (.s 4 2) (.s 4 1) (.s 5 1) (quiet_at _ (by decide +kernel))
    (passes_of (by decide +kernel))⟩

theorem met_cpwait_waits (o : Obligations.CopyInstructions) : Completes (.cpwait ⟨0, 0, 0, 4, 0, 0, 0, 0, 0, 0⟩) sHand :=
  ⟨_, (o.2.2.2.1 ⟨0, 0, 0, 4, 0, 0, 0, 0, 0, 0⟩ sHand cHand (.s 4 2) (.s 4 1) (.s 5 1) (quiet_at _ (by decide +kernel))
    (by decide +kernel) (passes_of (by decide +kernel))).2 (by decide +kernel)⟩

theorem met_cpwait_goes_on (o : Obligations.CopyInstructions) : Completes (.cpwait ⟨0, 0, 0, 4, 0, 0, 0, 0, 0, 0⟩) s0 :=
  ⟨_, (o.2.2.2.1 ⟨0, 0, 0, 4, 0, 0, 0, 0, 0, 0⟩ s0 c0 (.s 4 2) (.s 4 1) (.s 5 1) q0
    (by decide +kernel) (passes_of (by decide +kernel))).1 (by decide +kernel)⟩

theorem met_cpcan (o : Obligations.CopyInstructions) : Completes (.cpcan ⟨0, 0, 0, 4, 0, 0, 0, 0, 0, 0⟩) sHand :=
  have ⟨_, _, h, _⟩ := (o.2.2.2.2 ⟨0, 0, 0, 4, 0, 0, 0, 0, 0, 0⟩ sHand cHand (.s 4 1) (quiet_at _ (by decide +kernel))
    (passes_of (by decide +kernel))).2 0 copy0 (by decide +kernel) rfl
  ⟨_, h⟩

theorem met_cpcan_none (o : Obligations.CopyInstructions) : Completes (.cpcan ⟨0, 0, 0, 4, 0, 0, 0, 0, 0, 0⟩) s0 :=
  ⟨_, (o.2.2.2.2 ⟨0, 0, 0, 4, 0, 0, 0, 0, 0, 0⟩ s0 c0 (.s 4 1) q0 (passes_of (by decide +kernel))).1 (by decide +kernel)⟩

def sFly (k : Copy) : State := sCopy (.copy 0) k
theorem flies (k : Copy) (h : ((sFly k).copyHome k).isSome = true) : InFlight (sFly k) 0 k (((sFly k).copyHome k).get h).1
    (((sFly k).copyHome k).get h).2.1 (((sFly k).copyHome k).get h).2.2 := ⟨rfl, rfl, (Option.some_get h).symm⟩

theorem met_copy_start (o : Obligations.CopyProgress) : Completes .copyStart (sFly copy0) :=
  ⟨_, o.1.1 _ _ _ _ _ _ (flies copy0 (by decide +kernel)) rfl (.inr (by decide +kernel))⟩

def copy1 : Copy := { copy0 with st := .paused, cause := 7 }
theorem met_copy_resume (o : Obligations.CopyProgress) : Completes .copyResume (sFly copy1) :=
  ⟨_, o.1.2 _ _ _ _ _ _ (flies copy1 (by decide +kernel)) rfl (by decide +kernel)⟩

def copy2 : Copy := { copy0 with st := .running, cancel := true }
theorem met_copy_cancelled (o : Obligations.CopyProgress) : Completes .copyChunk (sFly copy2) :=
  have ⟨_, _, h, _⟩ := o.2.1 _ _ _ _ _ _ (flies copy2 (by decide +kernel)) rfl rfl rfl
  ⟨_, h⟩

theorem dirty_of (us : List Trans) (h : (us.all fun u => u.leaf.all fun e => leafA e.1 && leafD e.1) = true) :
    ∀ u ∈ us, ∀ e, u.leaf = some e → leafA e.1 = true ∧ leafD e.1 = true := by
  intro u hu e he
  have := List.all_eq_true.mp h u hu
  rw [he] at this; simpa using this

def copy3 : Copy := { copy0 with st := .running }
theorem met_copy_chunk (o : Obligations.CopyProgress) : Completes .copyChunk (sFly copy3) :=
  have ⟨_, _, h, _⟩ := o.2.2 _ _ _ _ _ _ _ _ (flies copy3 (by decide +kernel)) rfl rfl rfl rfl rfl rfl rfl (by decide) (by decide)
    (by decide) (inr_of _ (by decide +kernel)) (inr_of _ (by decide +kernel)) (by decide +kernel)
    (dirty_of _ (by decide +kernel)) rfl (by decide +kernel) (by decide +kernel) (by decide +kernel) (by decide +kernel)
    (by decide +kernel) (by decide +kernel) (by decide +kernel)
  ⟨_, h⟩

/-! Numbered barriers and tiles. Format X: STL, RU, BAR, CNT, Q, PM, X, D, A, TY. -/

theorem met_mbar (o : Obligations.BarriersAndTileMoves) : Completes (.mbar ⟨0, 0, 1, 1, 0, 0, 0, 0, 0, 0⟩) s0 :=
  ⟨_, o.1.1 ⟨0, 0, 1, 1, 0, 0, 0, 0, 0, 0⟩ s0 c0 q0 (passes_of (by decide +kernel)) (by decide +kernel)⟩

theorem met_mwait_waits (o : Obligations.BarriersAndTileMoves) : Completes (.mwait ⟨0, 0, 15, 0, 0, 0, 0, 0, 0, 0⟩) s0 :=
  ⟨_, (o.1.2.1 ⟨0, 0, 15, 0, 0, 0, 0, 0, 0, 0⟩ s0 c0 q0 (passes_of (by decide +kernel))).2 (by decide +kernel)⟩

/-- Barriers of block 0 at generation 1, with a sequencer and tile a2 bound; the issuing group changed by `f`. -/
def sBars (f : Group → Group) : State :=
  ((issuing f).modBlock 0 fun b =>
    { b with
      bars := b.bars.map fun x => { x with gen := 1 }
      seqr := some (Sequencer.start 0 b 1 0x20000)
      tiles := [(2, [(64, 7)])] }).modLaunch 0 fun l => { l with acc := 4 }

theorem met_mwait_takes (o : Obligations.BarriersAndTileMoves) : Completes (.mwait ⟨0, 0, 15, 0, 0, 0, 0, 0, 0, 0⟩) (sBars id) :=
  ⟨_, (o.1.2.1 ⟨0, 0, 15, 0, 0, 0, 0, 0, 0, 0⟩ (sBars id) (ctxAt (sBars id) (by decide +kernel)) (quiet_at _ (by decide +kernel))
    (passes_of (by decide +kernel))).1 (by decide +kernel)⟩

theorem met_marrw (o : Obligations.BarriersAndTileMoves) : Completes (.marrw ⟨0, 0, 1, 1, 0, 0, 0, 0, 0, 0⟩) s0 :=
  have ⟨_, _, h, _⟩ := o.1.2.2.1 ⟨0, 0, 1, 1, 0, 0, 0, 0, 0, 0⟩ s0 c0 q0 (passes_of (by decide +kernel)) (by decide +kernel)
    (by decide +kernel)
  ⟨_, h⟩

/-- Slot A has made the arrival of its MARRW. -/
def sArrived : State := sBars fun h => { h with slotA := { h.slotA with arrived := some (.marrw 1 0) } }
theorem met_marrw_goes_on (o : Obligations.BarriersAndTileMoves) : Completes (.marrw ⟨0, 0, 1, 1, 0, 0, 0, 0, 0, 0⟩) sArrived :=
  ⟨_, o.1.2.2.2 ⟨0, 0, 1, 1, 0, 0, 0, 0, 0, 0⟩ sArrived (ctxAt sArrived (by decide +kernel)) 0 (quiet_at _ (by decide +kernel))
    (passes_of (by decide +kernel)) (by decide +kernel) (by decide +kernel) (by decide +kernel) (by decide +kernel)⟩

theorem met_atov (o : Obligations.BarriersAndTileMoves) : Completes (.atov ⟨0, 0, 2, 1, 0, 0, 0, 4, 0x1BF, 0⟩) (sBars id) :=
  ⟨_, o.2.1 ⟨0, 0, 2, 1, 0, 0, 0, 4, 0x1BF, 0⟩ (sBars id) (ctxAt (sBars id) (by decide +kernel)) (.v 4 1) (.c 63)
    (quiet_at _ (by decide +kernel)) (passes_of (by decide +kernel)) (by decide +kernel) (by decide +kernel)⟩

theorem met_vtoa (o : Obligations.BarriersAndTileMoves) : Completes (.vtoa ⟨0, 0, 2, 0, 0, 0, 0, 4, 0x181, 0⟩) (sBars id) :=
  have ⟨_, _, h, _⟩ := o.2.2 ⟨0, 0, 2, 0, 0, 0, 0, 4, 0x181, 0⟩ (sBars id) (ctxAt (sBars id) (by decide +kernel)) (.v 4 1) (.c 1)
    (quiet_at _ (by decide +kernel)) (passes_of (by decide +kernel)) (by decide +kernel) (by decide +kernel)
  ⟨_, h⟩

/-- Tiles a2 and a3 are bound: the words of an f64 pair. -/
def sPair : State := (sBars id).modBlock 0 fun b => { b with tiles := [(2, [(64, 7)]), (3, [(64, 9)])] }
theorem met_atov_pair (o : Obligations.BarriersAndTileMoves) : Completes (.atov ⟨0, 0, 2, 1, 0, 0, 0, 4, 0x1BF, 15⟩) sPair :=
  ⟨_, o.2.1 ⟨0, 0, 2, 1, 0, 0, 0, 4, 0x1BF, 15⟩ sPair (ctxAt sPair (by decide +kernel)) (.v 4 2) (.c 63)
    (quiet_at _ (by decide +kernel)) (passes_of (by decide +kernel)) (by decide +kernel) (by decide +kernel)⟩
theorem met_vtoa_pair (o : Obligations.BarriersAndTileMoves) : Completes (.vtoa ⟨0, 0, 2, 0, 0, 0, 0, 4, 0x181, 15⟩) sPair :=
  have ⟨_, _, h, _⟩ := o.2.2 ⟨0, 0, 2, 0, 0, 0, 0, 4, 0x181, 15⟩ sPair (ctxAt sPair (by decide +kernel)) (.v 4 2) (.c 1)
    (quiet_at _ (by decide +kernel)) (passes_of (by decide +kernel)) (by decide +kernel) (by decide +kernel)
  ⟨_, h⟩

/-! Clauses: a header placed by itself, and one with WB. The word behind it reads 0, or is a NOP. -/

/-- Slot A stands at the header at the start of the placed page, followed by this word. -/
def sHeader (w : DWord) (bars : Bool) : State :=
  let s := (if bars then sBars else issuing) fun h => { h with slotA := { h.slotA with pc := 0x20000, clause := none } }
  { s with mem := s.mem.putNum 0x20008 8 w.toNat }
def nop0 : DWord := 0x0040_0000_0000_0000
def header0 (wb : BitVec 4) : WordH := ⟨0x3F, 0, 0, 0, 0, 0, wb, 0⟩

theorem sound_nop (f : WordH) (h : f.mark = 0x3F ∧ f.rsv = 0 ∧ f.sig = 0 ∧ f.cls = 0) : SoundClause f [nop0] := by
  refine ⟨h.1, h.2.1, fun _ => h.2.2.1, fun i w hw => ?_⟩
  match i with
  | 0 => simp at hw; subst hw; rw [h.2.2.2]; decide
  | i + 1 => simp at hw

theorem code_at {α β γ : Type} (r : α ⊕ (β × γ)) (ws : β) (h : r.isRight = true) (hw : (r.getRight h).1 = ws) :
    r = .inr (ws, (r.getRight h).2) := by
  subst hw; exact (Sum.inr_getRight r h).symm

theorem met_header (o : Obligations.ClauseHeaders) : Completes (.clauseHeader (header0 0)) (sHeader nop0 false) :=
  ⟨_, (o (header0 0) (sHeader nop0 false) (ctxAt (sHeader nop0 false) (by decide +kernel)) [nop0] _ (Option.some_get (by decide +kernel)).symm
    (code_at _ _ (by decide +kernel) (by decide +kernel))).1 (sound_nop _ (by decide)) rfl⟩

theorem met_header_takes (o : Obligations.ClauseHeaders) : Completes (.clauseHeader (header0 3)) (sHeader nop0 true) :=
  ⟨_, (o (header0 3) (sHeader nop0 true) (ctxAt (sHeader nop0 true) (by decide +kernel)) [nop0] _ (Option.some_get (by decide +kernel)).symm
    (code_at _ _ (by decide +kernel) (by decide +kernel))).2.1 (sound_nop _ (by decide)) (by decide) (by decide +kernel) (by decide +kernel)⟩

theorem met_header_waits (o : Obligations.ClauseHeaders) : Completes (.clauseHeader (header0 3)) (sHeader nop0 false) :=
  ⟨_, (o (header0 3) (sHeader nop0 false) (ctxAt (sHeader nop0 false) (by decide +kernel)) [nop0] _ (Option.some_get (by decide +kernel)).symm
    (code_at _ _ (by decide +kernel) (by decide +kernel))).2.2.1 (sound_nop _ (by decide)) (by decide) (by decide +kernel)⟩

/-- The word behind the header is a header. -/
def twice0 : DWord := 0xFC00_0000_0000_0000
theorem met_header_illegal (o : Obligations.ClauseHeaders) : Completes (.clauseHeader (header0 0)) (sHeader twice0 false) :=
  ⟨_, (o (header0 0) (sHeader twice0 false) (ctxAt (sHeader twice0 false) (by decide +kernel)) [twice0] _
    (Option.some_get (by decide +kernel)).symm (code_at _ _ (by decide +kernel) (by decide +kernel))).2.2.2
    (fun h => absurd rfl (h.word 0 twice0 rfl).1)⟩

/-! The matrix stream -/

/-- The sequencer of block 0 acts, its context changed by `f` and its block by `k`; h4 holds the placed page's address, h5 128,
h6 an address within the page. -/
def sSeq (f : Sequencer → Sequencer) (k : Block → Block) : State :=
  let s := (sBars id).modBlock 0 fun b =>
    k { b with seqr := b.seqr.map fun q => f { q with h := [(4, 0x20000), (5, 128), (6, 0x20400)] } }
  { s with issuer := .block 0 }

def seqAt (s : State) (h : (s.sctxOf 0).isSome = true) : SCtx := (s.sctxOf 0).get h
theorem sequences (s : State) (h : (s.sctxOf 0).isSome = true) (hi : s.issuer = .block 0) (hb : (seqAt s h).bid = 0) :
    Sequences s (seqAt s h) := ⟨by rw [hi, hb], by rw [hb]; exact (Option.some_get h).symm⟩

def q1 : State := sSeq id id
def k1 : SCtx := seqAt q1 (by decide +kernel)
theorem sq1 : Sequences q1 k1 := sequences _ _ rfl (by decide +kernel)

def mr1 : WordMR := ⟨4, 5, 0, 0, 3⟩
theorem met_mset (o : Obligations.MatrixStreamWords) : Completes (.mset mr1) q1 := ⟨_, (o.1 mr1 q1 k1 sq1).1⟩
theorem met_mset_hi (o : Obligations.MatrixStreamWords) : Completes (.msetHi mr1) q1 := ⟨_, (o.1 mr1 q1 k1 sq1).2.1⟩
theorem met_madd (o : Obligations.MatrixStreamWords) : Completes (.madd mr1) q1 := ⟨_, (o.1 mr1 q1 k1 sq1).2.2.1⟩
theorem met_mbra (o : Obligations.MatrixStreamWords) : Completes (.mbra mr1) q1 := ⟨_, (o.1 mr1 q1 k1 sq1).2.2.2.1⟩
theorem met_mbnz (o : Obligations.MatrixStreamWords) : Completes (.mbnz mr1) q1 := ⟨_, (o.1 mr1 q1 k1 sq1).2.2.2.2⟩

theorem met_mwaitb (o : Obligations.MatrixStreamWords) : Completes (.mwaitb ⟨1, 0⟩) q1 := ⟨_, (o.2.1 q1 k1 sq1).1 ⟨1, 0⟩ (by decide) (by decide +kernel)⟩
theorem met_mwaitb_waits (o : Obligations.MatrixStreamWords) : Completes (.mwaitb ⟨1, 0⟩) (sSeq id fun b => { b with bars := [] }) :=
  let s := sSeq id fun b => { b with bars := [] }
  ⟨_, (o.2.1 s (seqAt s (by decide +kernel)) (sequences _ _ rfl (by decide +kernel))).2.1 ⟨1, 0⟩ (by decide) (by decide +kernel)⟩
theorem met_marrb (o : Obligations.MatrixStreamWords) : Completes (.marrb ⟨1, 0⟩) q1 :=
  ⟨_, (o.2.1 q1 k1 sq1).2.2.1 ⟨1, 0⟩ (by decide) (by decide +kernel)⟩

/-- An MDRN of f32 words of tile a2, at its first band; one byte of its destination is listed. -/
def drain0 : MWork where
  iword := 0x0E20_0000_0000_0000 ||| 0xB000_0000
  addr := 0x20000
  hA := 0x20000
  hSA := 256
  hB := 0
  hSB := 0
  hX := 0
  aux := []
  ready := true
  data := []
  dataB := []
  ord := 0
  dest := [(0x20000, 0x20000)]
  tiles := [[(0, 7)]]
  named := [2]
  mrp := 0
  phase := 0

def q2 : State := sSeq (fun q => { q with drains := [drain0] }) id
theorem sq2 : Sequences q2 (seqAt q2 (by decide +kernel)) := sequences _ _ rfl (by decide +kernel)
theorem met_marrb_waits (o : Obligations.MatrixStreamWords) : Completes (.marrb ⟨1, 0⟩) q2 :=
  ⟨_, (o.2.1 q2 _ sq2).2.2.2.1 ⟨1, 0⟩ (by decide) (by decide +kernel)⟩
theorem met_mend (o : Obligations.MatrixStreamWords) : Completes (.mend ⟨0⟩) q1 := ⟨_, (o.2.1 q1 k1 sq1).2.2.2.2.1 ⟨0⟩⟩
theorem met_illegal_matrix (o : Obligations.MatrixStreamWords) : Completes (.illegalMatrixWord 0) q1 :=
  ⟨_, (o.2.1 q1 k1 sq1).2.2.2.2.2 0 0 _ (by decide +kernel) (Option.some_get (by decide +kernel)).symm⟩

theorem met_malloc (o : Obligations.MatrixStreamWords) : Completes (.malloc ⟨0, 6⟩) q1 :=
  have ⟨_, _, _, h, _⟩ := (o.2.2 ⟨0, 6⟩ q1 k1 sq1).1.1 (by decide +kernel) (by decide +kernel) (by decide +kernel)
  ⟨_, h⟩
theorem met_malloc_beyond (o : Obligations.MatrixStreamWords) : Completes (.malloc ⟨0, 0xFF⟩) q1 :=
  ⟨_, (o.2.2 ⟨0, 0xFF⟩ q1 k1 sq1).1.2.1 (by decide +kernel)⟩

/-- A second block on the core holds 47 tiles. -/
def q3 : State := { q1 with blocks := q1.blocks ++ q1.blocks.map fun b => { b with tiles := (List.range 47).map fun n => (n, []) } }
theorem met_malloc_waits (o : Obligations.MatrixStreamWords) : Completes (.malloc ⟨0, 6⟩) q3 :=
  ⟨_, (o.2.2 ⟨0, 6⟩ q3 (seqAt q3 (by decide +kernel)) (sequences _ _ rfl (by decide +kernel))).1.2.2 (by decide +kernel) (by decide +kernel)⟩
theorem met_mfree (o : Obligations.MatrixStreamWords) : Completes (.mfree ⟨0, 4⟩) q1 :=
  have ⟨_, _, _, h, _⟩ := (o.2.2 ⟨0, 4⟩ q1 k1 sq1).2.1 (by decide +kernel) (by decide +kernel) (by decide +kernel)
  ⟨_, h⟩
theorem met_mzero (o : Obligations.MatrixStreamWords) : Completes (.mzero ⟨0, 4⟩) q1 :=
  have ⟨_, _, _, h, _⟩ := (o.2.2 ⟨0, 4⟩ q1 k1 sq1).2.2 (by decide +kernel) (by decide +kernel) (by decide +kernel) (by decide +kernel)
    (fun n hn => by
      have two : ∀ n < 16, BitVec.getLsbD (4 : BitVec 16) n = true → n = 2 := by decide
      simp only [tmaskNames, Bool.and_eq_true, decide_eq_true_eq] at hn
      have h := two n hn.1 hn.2
      subst h; decide +kernel)
  ⟨_, h⟩

theorem right_of {α β : Type} (P : β → Bool) (r : α ⊕ β) (h : r.elim (fun _ => false) P = true) : ∃ x, r = .inr x ∧ P x = true := by
  cases r with
  | inl a => cases h
  | inr x => exact ⟨x, rfl, h⟩

/-- Every translation used has its A set. -/
def allA (us : List Trans) : Bool := us.all fun u => u.leaf.all fun e => leafA e.1
theorem leaves_of {us : List Trans} (h : allA us = true) : ∀ u ∈ us, ∀ e, u.leaf = some e → leafA e.1 = true := by
  intro u hu e he
  have := List.all_eq_true.mp h u hu
  rw [he] at this; simpa using this
theorem all_append {us vs : List Trans} (h : allA us = true) (k : allA vs = true) : allA (us ++ vs) = true := by
  simp only [allA, List.all_append, Bool.and_eq_true]; exact ⟨h, k⟩

/-! Format MM: TILE, HA, SA, HB, SB, FA, FB, STEPS, AUX, ARR, WAIT, FLAGS. Format code 2 is e4m3, 11 is f32. -/

def mma1 : WordMM := ⟨2, 4, 0, 4, 0, 2, 2, 0, 0, 0, 0, 0⟩
theorem mma1_reads : ∃ x, q1.readWord (q1.viewOf k1.bid) (q1.viewOf k1.bid) (k1.startMM 0x0A mma1) = .inr x ∧ allA (x.2.1.uses ++ x.2.2.uses) = true :=
  right_of (fun x : List Byte × MRead × MRead => allA (x.2.1.uses ++ x.2.2.uses)) _ (by decide +kernel)
theorem met_mma (o : Obligations.MatrixMultiplyWords) : Completes (.mma mma1) q1 :=
  have ⟨⟨aux, a, m⟩, e, p⟩ := mma1_reads
  have ⟨_, _, _, h, _⟩ := o.1 (.mma mma1) mma1 0x0A rfl q1 k1 aux a m sq1 (.inl rfl) (by decide +kernel) (by decide +kernel)
    (by decide +kernel) (by decide +kernel) (by decide +kernel) (by decide +kernel) e (leaves_of p)
  ⟨_, h⟩

/-- A word of the MMA family on tile a2, of f32, or of s8 with FA = FB = 7. -/
def mma0 (fmt : BitVec 4) : MWork :=
  { drain0 with iword := wordMM 0x0A ⟨2, 4, 0, 4, 0, fmt, fmt, 0, 0, 0, 0, 0⟩, dest := [], tiles := [] }
def q4 (fmt : BitVec 4) : State := sSeq (fun q => { q with work := some (mma0 fmt) }) id
theorem met_word_done (o : Obligations.MatrixMultiplyWords) : Completes .matrixWordDone (q4 11) := by
  have h := o.2.1 (q4 11) (seqAt (q4 11) (by decide +kernel)) (mma0 11) 2 (sequences _ _ rfl (by decide +kernel))
  iterate 15 replace h := h (by decide +kernel)
  exact ⟨_, h.choose_spec.choose_spec.choose_spec.1⟩
theorem met_word_done_int (o : Obligations.MatrixMultiplyWords) : Completes .matrixWordDone (q4 7) := by
  have h := o.2.1 (q4 7) (seqAt (q4 7) (by decide +kernel)) (mma0 7) 2 (sequences _ _ rfl (by decide +kernel))
  iterate 15 replace h := h (by decide +kernel)
  exact ⟨_, h.choose_spec.choose_spec.choose_spec.1⟩

/-- The last band of a word that arrives at barrier 3. -/
def mmaLast : MWork := { mma0 11 with iword := wordMM 0x0A ⟨2, 4, 0, 4, 0, 11, 11, 0, 0, 3, 0, 0⟩, mrp := 7 }
def q4last : State := sSeq (fun q => { q with work := some mmaLast }) id
theorem met_word_done_arrives (o : Obligations.MatrixMultiplyWords) :
    ∃ b : Block, b.bars = ((seqAt q4last (by decide +kernel)).b.arrive 3 none).bars := by
  have h := o.2.1 q4last (seqAt q4last (by decide +kernel)) mmaLast 2 (sequences _ _ rfl (by decide +kernel))
  iterate 15 replace h := h (by decide +kernel)
  obtain ⟨_, b, _, _, _, _, _, _, _, h, _⟩ := h
  exact ⟨b, h⟩

theorem met_exact_sum (o : Obligations.MatrixMultiplyWords) : ∃ d, Val.sum [.fin ⟨3, -1⟩, .fin ⟨-1, -1⟩] = .fin d :=
  have ⟨d, h, _⟩ := o.2.2.1.1 [3, -1] (-1) (by decide) (by decide)
  ⟨d, h⟩
theorem met_zero_sum (o : Obligations.MatrixMultiplyWords) : Val.sum [.fin ⟨3, -1⟩, .fin ⟨-3, -1⟩] = .zero false :=
  o.2.2.1.2.1 [3, -3] (-1) (by decide) (by decide) (by decide)

/-! Groups of products entering an f32 accumulator that holds 1.0, without and with alignment. -/

def one32 : Nat := 0x3F800000
theorem met_group_nan (o : Obligations.MatrixMultiplyWords) : groupStep .f32 false false 0 one32 [.nan false] = 0x7FC00000 :=
  (o.2.2.2 .f32 false false 0 one32 [.nan false] (.inl rfl)).1 ⟨.nan false, by simp, rfl⟩
theorem met_group_opposed (o : Obligations.MatrixMultiplyWords) :
    groupStep .f32 false false 0 one32 [.inf true, .inf false] = 0x7FC00000 :=
  (o.2.2.2 .f32 false false 0 one32 [.inf true, .inf false] (.inl rfl)).2.1 (by simp) (by simp)
theorem met_group_inf (o : Obligations.MatrixMultiplyWords) : groupStep .f32 false false 0 one32 [.inf true] = 0xFF800000 :=
  (o.2.2.2 .f32 false false 0 one32 [.inf true] (.inl rfl)).2.2.1 true (by decide +kernel) (by simp) (by decide +kernel)
theorem met_group_exact (o : Obligations.MatrixMultiplyWords) :
    groupStep .f32 false false 0 one32 [.fin ⟨3, -1⟩] = (roundedTo .f32 .rne false (Val.sum [FF.f32.read false one32, .fin ⟨3, -1⟩]) false).enc :=
  (o.2.2.2 .f32 false false 0 one32 [.fin ⟨3, -1⟩] (.inl rfl)).2.2.2.1 (by decide +kernel) rfl
theorem met_group_zeros (o : Obligations.MatrixMultiplyWords) :
    groupStep .f32 false false 25 one32 [.zero true] = (roundedTo .f32 .rne false (Val.sum [FF.f32.read false one32, Val.sum [.zero true]]) false).enc :=
  (o.2.2.2 .f32 false false 25 one32 [.zero true] (.inl rfl)).2.2.2.2.1 (by decide +kernel) (by decide) (by decide)
theorem met_group_aligned (o : Obligations.MatrixMultiplyWords) :
    groupStep .f32 false false 25 one32 [.fin ⟨3, -1⟩, .fin ⟨5, -40⟩] = (roundedTo .f32 .rne false
      (Val.sum [FF.f32.read false one32, Val.sum ([.fin ⟨3, -1⟩, .fin ⟨5, -40⟩].map (onGrid (0 - 25 + 1)))]) false).enc :=
  (o.2.2.2 .f32 false false 25 one32 [.fin ⟨3, -1⟩, .fin ⟨5, -40⟩] (.inl rfl)).2.2.2.2.2 0 (by decide +kernel) (by decide)
    ⟨⟨3, -1⟩, by simp, by decide⟩ (fun x hx => by
      simp only [List.mem_cons, Val.fin.injEq, List.not_mem_nil, or_false] at hx
      rcases hx with rfl | rfl <;> decide)

/-- Two blocks of one sharing group, in its slots 0 and 1; the record at h6 names slot 1. -/
def q5 (f : Block → Block) : State :=
  let s := sSeq id f
  { s with
    mem := s.mem.putNum (0x20400 + 0x38) 8 2
    blocks := s.blocks ++ s.blocks
    sharing := [⟨0, 0, [(0, 0), (1, 1)]⟩] }
def q6 : State := q5 id
def k6 : SCtx := seqAt q6 (by decide +kernel)
def mmag1 : WordMM := ⟨2, 4, 0, 4, 0, 11, 11, 0, 6, 0, 0, 0⟩
theorem mmag1_reads : ∃ x, q6.readAux (q6.viewOf k6.bid) (k6.startMM 0x0D mmag1) = .inr x ∧
    ((allA x.2.uses && !x.2.bad) && leNat ((x.1.drop 0x38).take 8) == 2) = true :=
  right_of (fun x : List Byte × MRead => (allA x.2.uses && !x.2.bad) && leNat ((x.1.drop 0x38).take 8) == 2) _ (by decide +kernel)
theorem mmag1_reads_b : ∃ x, q6.readB (q6.viewOf k6.bid) (k6.startMM 0x0D mmag1) = .inr x ∧ (allA x.uses && !x.bad) = true :=
  right_of (fun x : MRead => allA x.uses && !x.bad) _ (by decide +kernel)
theorem all_sound {us : List Trans} {b : Bool} (h : (allA us && !b) = true) : allA us = true ∧ b = false := by simpa using h
theorem extra_none (s : State) (v : MView) (w : MWork) (d : List (Nat × Byte)) (hk : w.fmtB = .fp .f32) (hz : w.zb = false) :
    s.extraB v w d = .inr MRead.none := by
  simp [State.extraB, State.readExtras, hk, hz]
theorem extraA_none (s : State) (v : MView) (w : MWork) (d : List (Nat × Byte)) (hk : w.fmtA = .fp .f32) (hz : w.za = false) :
    s.extraA v w none d = .inr MRead.none := by
  simp [State.extraA, State.readExtras, hk, hz]
theorem met_mmag (o : Obligations.GangedMultiply) : Completes (.mmag mmag1) q6 :=
  have ⟨⟨aux, ma⟩, ea, pa⟩ := mmag1_reads
  have ⟨mb, eb, pb⟩ := mmag1_reads_b
  have p := Bool.and_eq_true .. ▸ pa
  have ⟨la, ba⟩ := all_sound p.1
  have ⟨lb, bb⟩ := all_sound pb
  have two : ({ k6.startMM 0x0D mmag1 with aux := aux } : MWork).auxField 0x38 = 2 := by simpa [MWork.auxField] using p.2
  have ⟨_, _, h, _⟩ := o.1 mmag1 q6 k6 aux ma mb MRead.none [1]
    (sequences _ _ rfl (by decide +kernel)) (by decide +kernel) (by decide +kernel) ea (by rw [two]; decide)
    (by decide) (by decide) (by rw [two]; decide +kernel) eb (extra_none _ _ _ _ (show (k6.startMM 0x0D mmag1).fmtB = .fp .f32 by decide +kernel)
      (show (k6.startMM 0x0D mmag1).zb = false by decide +kernel)) (by decide +kernel)
    bb ba rfl (leaves_of (all_append (all_append lb la) rfl))
  ⟨_, h⟩

/-- A part of the gang for this block, with its word changed by `f`. -/
def part0 (begun : Bool) (f : MWork → MWork) : GangPart := ⟨0, f (mma0 11), begun, false, .running⟩
def sPart (begun : Bool) (f : MWork → MWork) (k : Block → Block) : State := q5 fun b => k { b with parts := [part0 begun f] }

/-- The word waits for a generation of barrier 1. -/
def waiting1 (w : MWork) : MWork := { w with iword := wordMM 0x0D ⟨2, 4, 0, 4, 0, 11, 11, 0, 6, 0, 1, 0⟩ }
theorem met_gang_part_waits (o : Obligations.GangedMultiply) :
    Completes .gangPartRun (sPart false waiting1 fun b => { b with bars := [] }) :=
  ⟨_, (o.2 (sPart false waiting1 fun b => { b with bars := [] }) 0 _ _ (part0 false waiting1) [] rfl (Option.some_get (by decide +kernel)).symm
    (Option.some_get (by decide +kernel)).symm rfl (by decide +kernel) (by decide +kernel)).1 rfl (by decide +kernel) (by decide +kernel)⟩

theorem met_gang_part_begins (o : Obligations.GangedMultiply) : Completes .gangPartRun (sPart false waiting1 id) :=
  ⟨_, (o.2 (sPart false waiting1 id) 0 _ _ (part0 false waiting1) [] rfl (Option.some_get (by decide +kernel)).symm
    (Option.some_get (by decide +kernel)).symm rfl (by decide +kernel) (by decide +kernel)).2.1 rfl (.inr (by decide +kernel)) (by decide +kernel)
    (all_of (by decide +kernel)) (by decide +kernel)⟩

/-- The part's bytes are yet to be checked; it holds B. -/
def unread (a : Nat) (w : MWork) : MWork := { w with ready := false, hA := a, hSA := 0, dataB := [(0, 0)] }
def sUnread (a : Nat) : State := sPart true (unread a) id
theorem met_gang_part_reads (o : Obligations.GangedMultiply) : Completes .gangPartRun (sUnread 0x20000) :=
  have ⟨a, ha, pa⟩ := right_of (fun x : MRead => allA x.uses && !x.bad) ((sUnread 0x20000).readA ((sUnread 0x20000).viewOf 0) (unread 0x20000 (mma0 11)) none)
    (by decide +kernel)
  have ⟨la, ba⟩ := all_sound pa
  have he := extraA_none (sUnread 0x20000) ((sUnread 0x20000).viewOf 0) (unread 0x20000 (mma0 11)) a.data
    (show (unread 0x20000 (mma0 11)).fmtA = .fp .f32 by decide +kernel) (show (unread 0x20000 (mma0 11)).za = false by decide +kernel)
  have ⟨_, _, h, _⟩ := ((o.2 (sUnread 0x20000) 0 _ _ (part0 true (unread 0x20000)) [] rfl (Option.some_get (by decide +kernel)).symm
    (Option.some_get (by decide +kernel)).symm rfl (by decide +kernel) (by decide +kernel)).2.2.1 rfl rfl nofun).1 a MRead.none
    ⟨[(0, 0)], [], [], false, false⟩ ha he ba rfl (fun h => absurd h (by decide +kernel)) (fun h => absurd h (by decide)) (fun _ => rfl)
    (leaves_of (all_append (all_append la rfl) rfl))
  ⟨_, h⟩

theorem left_of {α β : Type} (P : α → Bool) (r : α ⊕ β) (h : r.elim P (fun _ => false) = true) : ∃ x, r = .inl x ∧ P x = true := by
  cases r with
  | inl x => exact ⟨x, rfl, h⟩
  | inr b => cases h

theorem met_gang_part_traps (o : Obligations.GangedMultiply) : Completes .gangPartRun (sUnread 0x1000000000000) :=
  have ⟨f, hf, pf⟩ := left_of (fun x : SpanFault => decide (x.fault = .prot))
    ((sUnread 0x1000000000000).readA ((sUnread 0x1000000000000).viewOf 0) (unread 0x1000000000000 (mma0 11)) none) (by decide +kernel)
  have pf : f.fault = .prot := by simpa using pf
  ⟨_, (((o.2 (sUnread 0x1000000000000) 0 _ _ (part0 true (unread 0x1000000000000)) [] rfl (Option.some_get (by decide +kernel)).symm
    (Option.some_get (by decide +kernel)).symm rfl (by decide +kernel) (by decide +kernel)).2.2.1 rfl rfl nofun).2 f hf).1
    (by rw [pf]; decide) (by rw [pf]; decide) (by rw [pf]; decide)⟩

theorem met_gang_part_parks (o : Obligations.GangedMultiply) : Completes .gangPartRun (sUnread 0x90000) :=
  have ⟨f, hf, pf⟩ := left_of (fun x : SpanFault => decide (x.fault = .absent))
    ((sUnread 0x90000).readA ((sUnread 0x90000).viewOf 0) (unread 0x90000 (mma0 11)) none) (by decide +kernel)
  have ⟨_, _, h, _⟩ := (((o.2 (sUnread 0x90000) 0 _ _ (part0 true (unread 0x90000)) [] rfl (Option.some_get (by decide +kernel)).symm
    (Option.some_get (by decide +kernel)).symm rfl (by decide +kernel) (by decide +kernel)).2.2.1 rfl rfl nofun).2 f hf).2 (.inl (by simpa using pf))
  ⟨_, h⟩

theorem met_gang_part_band (o : Obligations.GangedMultiply) : Completes .gangPartRun (sPart true id id) :=
  have ⟨_, _, h, _⟩ := (o.2 (sPart true id id) 0 _ _ (part0 true id) [] rfl (Option.some_get (by decide +kernel)).symm
    (Option.some_get (by decide +kernel)).symm rfl (by decide +kernel) (by decide +kernel)).2.2.2 rfl rfl (by decide +kernel)
  ⟨_, h⟩

/-! Format MD: TILE, ADDR, STRIDE, RSV1, FMT, RSV2, ARR, WAIT, FLAGS. -/

def mdrn1 : WordMD := ⟨2, 4, 0, 0, 2, 0, 0, 0, 0⟩
def mdrna1 : WordMD := ⟨2, 4, 0, 0, 0, 0, 0, 0, 0⟩
def drainWord (mop : BitVec 8) (f : WordMD) : MWork :=
  let e := k1.startMD mop f
  { e with tiles := e.names.map (fun n => (k1.b.tile? n).getD []), named := e.names, ready := true }
theorem mdrn1_dest : ∃ x, q1.drainDest (q1.viewOf k1.bid) .store ((drainWord 0x0E mdrn1).drainRanges k1.l.contract) = .inr x ∧ (!x.mism) = true :=
  right_of (fun x : MRead => !x.mism) _ (by decide +kernel)
theorem mdrna1_dest : ∃ x, q1.drainDest (q1.viewOf k1.bid) .atomic ((drainWord 0x0F mdrna1).drainRanges k1.l.contract) = .inr x ∧ (!x.mism) = true :=
  right_of (fun x : MRead => !x.mism) _ (by decide +kernel)
theorem met_mdrn (o : Obligations.MatrixDrains) : Completes (.mdrn mdrn1) q1 :=
  have ⟨m, e, p⟩ := mdrn1_dest
  have ⟨_, _, _, _, h, _⟩ := o.1 mdrn1 q1 k1 m false sq1 (.inl rfl) (by decide +kernel) (by decide +kernel)
    (by decide +kernel) (by decide +kernel) (by decide +kernel) (by decide +kernel) e (by simpa using p)
  ⟨_, h⟩
theorem met_mdrna (o : Obligations.MatrixDrains) : Completes (.mdrna mdrna1) q1 :=
  have ⟨m, e, p⟩ := mdrna1_dest
  have ⟨_, _, _, _, h, _⟩ := o.1 mdrna1 q1 k1 m true sq1 (.inl rfl) (by decide +kernel) (by decide +kernel)
    (by decide +kernel) (by decide +kernel) (by decide +kernel) (by decide +kernel) e (by simpa using p)
  ⟨_, h⟩

/-- The sequencer's one drain is d. -/
def sDrain (d : MWork) : State := sSeq (fun q => { q with drains := [d] }) id
theorem drain_ready (d : MWork) (hq : ((sDrain d).sctxOf 0).isSome = true) (hb : (seqAt (sDrain d) hq).bid = 0)
    (hn : (seqAt (sDrain d) hq).q.work = none) (hd : (seqAt (sDrain d) hq).q.drains = [d]) (hr : d.ready = true)
    (hc : ((seqAt (sDrain d) hq).runs && (seqAt (sDrain d) hq).b.staged.isEmpty && !(seqAt (sDrain d) hq).l.snap && (sDrain d).mem.wf) = true)
    (ho : (∀ x ∈ d.dest, ∀ y ∈ d.dest, x.1 = y.1 ↔ x.2 = y.2) ∧ ∀ x ∈ d.dest, isCap x.2 = false ∧ x.2 < firmwareKey 0) :
    DrainReady (sDrain d) (seqAt (sDrain d) hq) d [] := by
  simp only [Bool.and_eq_true, Bool.not_eq_true', List.isEmpty_iff] at hc
  exact ⟨sequences _ _ rfl hb, hn, hd, hr, hc.1.1.1, rfl, hc.1.1.2, hc.1.2, hc.2, ho.1, ho.2⟩

theorem met_drain_band (o : Obligations.MatrixDrains) : Completes .matrixWordDone (sDrain drain0) :=
  have ⟨_, h, _⟩ := (o.2 (sDrain drain0) _ drain0 [] (drain_ready drain0 (by decide +kernel) (by decide +kernel) (by decide +kernel)
    (by decide +kernel) rfl (by decide +kernel) (by decide +kernel)) (by decide)).1 .f32 (by decide +kernel) (by decide +kernel)
  ⟨_, h⟩

/-- No number of the list repeats and none is marked in m, whose bits mark the numbers met before. -/
def unmarked (m : Nat) : List Nat → Bool
  | [] => true
  | a :: l => !m.testBit a && unmarked (m ||| 1 <<< a) l
theorem nodup_of_unmarked (l : List Nat) : ∀ m, unmarked m l = true → l.Nodup ∧ ∀ a ∈ l, m.testBit a = false := by
  induction l with
  | nil => exact fun _ _ => ⟨List.nodup_nil, nofun⟩
  | cons a l ih =>
    intro m h
    simp only [unmarked, Bool.and_eq_true, Bool.not_eq_true'] at h
    have ⟨hl, hm⟩ := ih _ h.2
    have old : ∀ b ∈ l, m.testBit b = false ∧ a ≠ b := fun b hb => by
      simpa [Nat.testBit_or, Nat.one_shiftLeft, Nat.testBit_two_pow] using hm b hb
    exact ⟨List.nodup_cons.mpr ⟨fun ha => (old a ha).2 rfl, hl⟩, List.forall_mem_cons.mpr ⟨h.1, fun b hb => (old b hb).1⟩⟩

/-- A drain in the format kb7, whose blocks lie 256 bytes apart, the line starts and the side list elsewhere. -/
def drainK : MWork := { drain0 with iword := wordMD 0x0E ⟨2, 4, 5, 0, 4, 0, 0, 0, 0⟩, hSB := 0x8000, hB := 0x9000 }
theorem met_drain_kite (o : Obligations.MatrixDrains) : Completes .matrixWordDone (sDrain drainK) :=
  have ⟨_, h, _⟩ := (o.2 (sDrain drainK) _ drainK [] (drain_ready drainK (by decide +kernel) (by decide +kernel) (by decide +kernel)
    (by decide +kernel) rfl (by decide +kernel) (by decide +kernel)) (by decide)).2.1 .kb7 (by decide +kernel) (by decide +kernel)
    (nodup_of_unmarked _ 0 (by decide +kernel)).1
  ⟨_, h⟩

/-- An adding drain of f32 words. -/
def drainA : MWork := { drain0 with iword := wordMD 0x0F ⟨2, 4, 5, 0, 11, 0, 3, 0, 0⟩ }
theorem met_drain_adds (o : Obligations.MatrixDrains) : Completes .matrixWordDone (sDrain drainA) :=
  have ⟨_, h, _⟩ := (o.2 (sDrain drainA) _ drainA [] (drain_ready drainA (by decide +kernel) (by decide +kernel) (by decide +kernel)
    (by decide +kernel) rfl (by decide +kernel) (by decide +kernel)) (by decide)).2.2 .f32 (by decide +kernel) (by decide +kernel)
  ⟨_, h⟩

/-! Token masks and sampling. Format Y: STL, RU, D, A, B, C, Q, PM. -/

theorem met_tmstep (o : Obligations.TokenInstructions) : Completes (.tmstep ⟨0, 0, 4, 6, 8, 0, 0, 0⟩) s0 :=
  ⟨_, o.1.1 (.tmstep ⟨0, 0, 4, 6, 8, 0, 0, 0⟩) _ rfl s0 c0 (.v 4 1) (.v 6 2) [.v 8 1] q0 (passes_of (by decide +kernel)) (by decide +kernel)⟩
theorem met_tmmask (o : Obligations.TokenInstructions) : Completes (.tmmask ⟨0, 0, 4, 6, 8, 0x181, 0, 0⟩) s0 :=
  ⟨_, o.1.1 (.tmmask ⟨0, 0, 4, 6, 8, 0x181, 0, 0⟩) _ rfl s0 c0 (.v 4 1) (.v 6 2) [.v 8 2] q0 (passes_of (by decide +kernel)) (by decide +kernel)⟩
theorem met_tmqry (o : Obligations.TokenInstructions) : Completes (.tmqry ⟨0, 0, 4, 6, 0, 0, 0, 0⟩) s0 :=
  ⟨_, o.1.1 (.tmqry ⟨0, 0, 4, 6, 0, 0, 0, 0⟩) _ rfl s0 c0 (.v 4 1) (.v 6 2) [] q0 (passes_of (by decide +kernel)) (by decide +kernel)⟩
theorem met_tmsave (o : Obligations.TokenInstructions) : Completes (.tmsave ⟨0, 0, 4, 6, 0, 0x180, 0, 0⟩) sDark :=
  ⟨_, o.1.1 (.tmsave ⟨0, 0, 4, 6, 0, 0x180, 0, 0⟩) _ rfl sDark (ctxAt sDark (by decide +kernel)) (.v 4 1) (.v 6 2) []
    (quiet_at _ (by decide +kernel)) (passes_of (by decide +kernel)) (by decide +kernel)⟩

/-- s5 asks for a new sequence with 16 stack places; the descriptor in s8 to s15 names one token, its mask row at the zeros of the
placed page. -/
def sToken (f : Group → Group) : State := issuing fun h => f { h with s := [(5, 0x100001), (8, 0x20000), (10, 0x20100), (14, 1)] }
def cToken : Ctx := ctxAt (sToken id) (by decide +kernel)
theorem met_tmload_bind (o : Obligations.TokenInstructions) : Completes (.tmload ⟨0, 0, 4, 6, 0, 0x180, 0, 0⟩) s0 :=
  ⟨_, o.1.2.1 ⟨0, 0, 4, 6, 0, 0x180, 0, 0⟩ s0 c0 (.v 4 1) (.v 6 2) (.c 0) [] q0 (passes_of (by decide +kernel)) (by decide +kernel)⟩
theorem met_tmload_init (o : Obligations.TokenInstructions) : Completes (.tmload ⟨0, 0, 4, 6, 8, 5, 0, 0⟩) (sToken id) :=
  ⟨_, o.1.2.1 ⟨0, 0, 4, 6, 8, 5, 0, 0⟩ (sToken id) cToken (.v 4 1) (.v 6 2) (.s 5 1) [.s 8 2] (quiet_at _ (by decide +kernel))
    (passes_of (by decide +kernel)) (by decide +kernel)⟩
theorem met_sample (o : Obligations.TokenInstructions) : Completes (.sample ⟨0, 0, 4, 6, 8, 0x181, 0, 0⟩) (sToken id) :=
  ⟨_, o.1.2.2.1 ⟨0, 0, 4, 6, 8, 0x181, 0, 0⟩ (sToken id) cToken (.v 4 1) (.s 8 8) (.v 6 1) (.c 1) (quiet_at _ (by decide +kernel))
    (passes_of (by decide +kernel)) (by decide +kernel)⟩
theorem met_sargmx (o : Obligations.TokenInstructions) : Completes (.sargmx ⟨0, 0, 4, 0, 8, 0, 0, 0⟩) (sToken id) :=
  ⟨_, o.1.2.2.2 ⟨0, 0, 4, 0, 8, 0, 0, 0⟩ (sToken id) cToken (.v 4 1) (.s 8 8) (quiet_at _ (by decide +kernel))
    (passes_of (by decide +kernel)) (by decide +kernel)⟩

theorem whole_of {s : State} {c : Ctx} {p : Pend} (P : Option (Nat × Lanes) → Bool)
    (h : (match s.runWhole c p with
      | .ok t a => P a && decide (t.slot? c.g c.x = some c.sl)
      | _ => false) = true) :
    ∃ t a, s.runWhole c p = .ok t a ∧ P a = true ∧ t.slot? c.g c.x = some c.sl := by
  split at h
  · next t a e => simp only [Bool.and_eq_true, decide_eq_true_eq] at h; exact ⟨t, a, e, h.1, h.2⟩
  · cases h

/-- A greedy choice for lane 0 among no token at all: its mask row lies in private memory, which is empty. -/
def pick0 : Pend := op0 0 (some 0) (.sample (sampleFields (0x7E0000000000 + 2 ^ 64 * 0x7E0000000100 + 2 ^ 192) 0 0 false) [⟨0, 0, .v 4 0, .v 4 0⟩])
/-- Slot A walks it; FPCTL as given. -/
def sPick (fp : Word) : State := sToken fun h => { h with fpctl := fp, slotA := { h.slotA with walk := some pick0 } }
theorem met_whole (o : Obligations.TokenInstructions) : Completes .pageWalk (sPick 0) :=
  let c := ctxAt (sPick 0) (by decide +kernel)
  have ⟨_, _, e, p, k⟩ : ∃ t a, (sPick 0).runWhole c pick0 = .ok t a ∧ a.isNone = true ∧ t.slot? c.g c.x = some c.sl :=
    whole_of _ (by decide +kernel)
  ⟨_, (o.2.2 (sPick 0) c pick0 _ _ (quiet_at _ (by decide +kernel)) (by decide +kernel) rfl (by decide +kernel) (by decide +kernel)
    (by decide +kernel) (by decide +kernel) e k).1 (Option.isNone_iff_eq_none.mp p)⟩
theorem met_whole_traps (o : Obligations.TokenInstructions) : Completes .pageWalk (sPick 0x100) :=
  let c := ctxAt (sPick 0x100) (by decide +kernel)
  have ⟨_, _, e, p, k⟩ : ∃ t a, (sPick 0x100).runWhole c pick0 = .ok t a ∧ decide (a = some (0x0C, 1)) = true ∧ t.slot? c.g c.x = some c.sl :=
    whole_of _ (by decide +kernel)
  ⟨_, (o.2.2 (sPick 0x100) c pick0 _ _ (quiet_at _ (by decide +kernel)) (by decide +kernel) rfl (by decide +kernel) (by decide +kernel)
    (by decide +kernel) (by decide +kernel) e k).2 0x0C 1 (of_decide_eq_true p)⟩

/-! Automata -/

/-- An image with eight tokens, two states and two stack symbols: its masks at 64, its acceptance bits at 128, its one row at 160. -/
def image0 : Image where
  vocab := 8
  nstate := 2
  nsym := 2
  start := 0
  eos := 7
  nrow := 1
  maskoff := 64
  nmask := 1
  rowoff := 160
  troff := 256
  ntrans := 0
  accoff := 128

/-- The image in private memory from 0x400 on, every token legal, state 0 accepting; its row is for state 0 and this top, with
this default action. -/
def sImage (top act : Nat) : State :=
  ((s0.privPut g0 0x440 [0xFF]).privPut g0 0x480 [1]).privPut g0 0x4A0
    (leBytes 4 0x80000000 ++ leBytes 4 top ++ leBytes 12 0 ++ leBytes 4 act ++ leBytes 4 1)
/-- A record in state 0 with this stack. -/
def bound0 (slim : Nat) (stack : List Nat) : Bound where
  pa := 0
  va := 0
  asid := 1
  binder := g0
  bridle := 0
  image := 0x7E0000000400
  header := []
  state := 0
  depth := stack.length
  slim := slim
  ended := false
  steps := 0
  lasttok := 0
  stack := stack
  lastUse := 0
  lids := []
  stuck := false

def rowOf (top act : Nat) : Row := [0x80000000, top, 0, 0, 0, act, 1, 0]
theorem mask_at {who : Who} {i : Image} {b : Bound} {s : State} (row : Option Row) (m : Nat)
    (h : (match legalMask who i b s with
      | .ok (v, _) => decide (v = (row, m, false))
      | _ => false) = true) : ∃ u, legalMask who i b s = .ok ((row, m, false), u) := by
  split at h
  · next v u e => exact ⟨u, by rw [e, of_decide_eq_true h]⟩
  · cases h

theorem mask_ended : ∃ u, legalMask who0 image0 { bound0 8 [] with ended := true } s0 = .ok ((none, 0, false), u) :=
  mask_at _ _ (by decide +kernel)
theorem met_automaton_ended (o : Obligations.AutomatonSteps) :
    ∃ u, bridleStep who0 image0 { bound0 8 [] with ended := true } 3 s0 = .ok ((2, { bound0 8 [] with ended := true }), u) :=
  have ⟨u, h⟩ := mask_ended
  ⟨u, (o.2 who0 image0 _ 3 s0 u none 0 h).2.1 (.inr (by decide))⟩

theorem mask_plain (slim : Nat) (stack : List Nat) (top act : Nat)
    (h : (match legalMask who0 image0 (bound0 slim stack) (sImage top act) with
      | .ok (v, _) => decide (v = (some (rowOf top act), 0xFF, false))
      | _ => false) = true) :
    ∃ u, legalMask who0 image0 (bound0 slim stack) (sImage top act) = .ok ((some (rowOf top act), 0xFF, false), u) := mask_at _ _ h

theorem met_automaton_eos (o : Obligations.AutomatonSteps) :
    ∃ b u, bridleStep who0 image0 (bound0 8 []) 7 (sImage 0x10000 0) = .ok ((0, b), u) :=
  have ⟨u, h⟩ := mask_plain 8 [] 0x10000 0 (by decide +kernel)
  ⟨_, u, (o.2 who0 image0 _ 7 _ u _ _ h).2.2.1 (by decide) (by decide) rfl⟩

theorem met_automaton_stay (o : Obligations.AutomatonSteps) :
    ∃ b u, bridleStep who0 image0 (bound0 8 []) 3 (sImage 0x10000 0) = .ok ((0, b), u) :=
  have ⟨u, h⟩ := mask_plain 8 [] 0x10000 0 (by decide +kernel)
  ⟨_, u, (((o.2 who0 image0 _ 3 _ u _ _ h).2.2.2 _ _ _ _ _ _ _ rfl (by decide) (by decide) (by decide)).2 [] u (by decide) rfl).2.1
    ⟨nofun, by decide, by decide, by decide⟩ rfl⟩

theorem met_automaton_push (o : Obligations.AutomatonSteps) :
    ∃ b u, bridleStep who0 image0 (bound0 8 []) 3 (sImage 0x10000 0x10001) = .ok ((0, b), u) :=
  have ⟨u, h⟩ := mask_plain 8 [] 0x10000 0x10001 (by decide +kernel)
  ⟨_, u, (((o.2 who0 image0 _ 3 _ u _ _ h).2.2.2 _ _ _ _ _ _ _ rfl (by decide) (by decide) (by decide)).2 [] u (by decide) rfl).2.2.1
    ⟨nofun, by decide, by decide, by decide⟩ rfl (by decide)⟩

theorem met_automaton_full (o : Obligations.AutomatonSteps) :
    ∃ b u, bridleStep who0 image0 (bound0 1 [1]) 3 (sImage 1 0x10001) = .ok ((3, b), u) :=
  have ⟨u, h⟩ := mask_plain 1 [1] 1 0x10001 (by decide +kernel)
  ⟨_, u, (((o.2 who0 image0 _ 3 _ u _ _ h).2.2.2 _ _ _ _ _ _ _ rfl (by decide) (by decide) (by decide)).2 [] u (by decide) rfl).2.2.2.1
    ⟨nofun, by decide, by decide, by decide⟩ rfl rfl⟩

theorem met_automaton_pop (o : Obligations.AutomatonSteps) :
    ∃ b u, bridleStep who0 image0 (bound0 8 [1]) 3 (sImage 1 2) = .ok ((0, b), u) :=
  have ⟨u, h⟩ := mask_plain 8 [1] 1 2 (by decide +kernel)
  ⟨_, u, (((o.2 who0 image0 _ 3 _ u _ _ h).2.2.2 _ _ _ _ _ _ _ rfl (by decide) (by decide) (by decide)).2 [] u (by decide) rfl).2.2.2.2.1
    ⟨nofun, by decide, by decide, by decide⟩ rfl (by decide)⟩

theorem met_automaton_replace (o : Obligations.AutomatonSteps) :
    ∃ b u, bridleStep who0 image0 (bound0 8 [1]) 3 (sImage 1 3) = .ok ((0, b), u) :=
  have ⟨u, h⟩ := mask_plain 8 [1] 1 3 (by decide +kernel)
  ⟨_, u, (((o.2 who0 image0 _ 3 _ u _ _ h).2.2.2 _ _ _ _ _ _ _ rfl (by decide) (by decide) (by decide)).2 [] u (by decide) rfl).2.2.2.2.2.1
    ⟨nofun, by decide, by decide, by decide⟩ rfl (by decide)⟩

theorem met_automaton_underflow (o : Obligations.AutomatonSteps) :
    ∃ b u, bridleStep who0 image0 (bound0 8 []) 3 (sImage 0x10000 2) = .ok ((3, b), u) :=
  have ⟨u, h⟩ := mask_plain 8 [] 0x10000 2 (by decide +kernel)
  ⟨_, u, (((o.2 who0 image0 _ 3 _ u _ _ h).2.2.2 _ _ _ _ _ _ _ rfl (by decide) (by decide) (by decide)).2 [] u (by decide) rfl).2.2.2.2.2.2
    ⟨nofun, by decide, by decide, by decide⟩ (.inl rfl) rfl⟩

theorem met_automaton_bad_action (o : Obligations.AutomatonSteps) :
    ∃ b u, bridleStep who0 image0 (bound0 8 []) 3 (sImage 0x10000 4) = .ok ((1, b), u) :=
  have ⟨u, h⟩ := mask_plain 8 [] 0x10000 4 (by decide +kernel)
  ⟨_, u, (((o.2 who0 image0 _ 3 _ u _ _ h).2.2.2 _ _ _ _ _ _ _ rfl (by decide) (by decide) (by decide)).2 [] u (by decide) rfl).1
    (fun h => absurd h.2.1 (by decide))⟩

/-! Records -/

/-- The header of the image. -/
def hdr0 : List Byte :=
  leBytes 4 0x4C445242 ++ leBytes 4 1 ++ [8, 2, 2, 0, 7, 1, 64, 1, 160, 256, 0, 128].flatMap (leBytes 4) ++ leBytes 8 0
/-- A record at the placed page, bound in the Bridle of die 0, in the state of `bound0`. -/
def rec0 : Bound := { bound0 8 [] with pa := 0x20080, va := 0x20080, header := hdr0 }
/-- The records bound, beside the image; the page is dirty. -/
def sRecords (act : Nat) (l : List Bound) : State :=
  let s := (sImage 0x10000 act).privPut g0 0x400 hdr0
  { s with bound := l, mem := s.mem.putNum 0x4100 8 0x200DF }
/-- Its use, the eighth of the Bridle, is noted. -/
def noted (act : Nat) : State :=
  (sRecords act [rec0]).modBound rec0.pa fun _ => { rec0 with lastUse := 7, lids := if rec0.lids.contains 0 then rec0.lids else rec0.lids ++ [0] }
def headIs (pa : Nat) (sp : Span) : Bool := decide (sp.pas.head? = some pa)
theorem record_at (s : State) (h : (s.translateSpan who0 .load none false 0x20080 256).elim (fun _ => false) (headIs 0x20080) = true) :
    ∃ sp, s.translateSpan who0 .load none false 0x20080 256 = .inr sp ∧ sp.pas.head? = some 0x20080 :=
  have ⟨x, e, p⟩ := right_of (headIs 0x20080) _ h
  ⟨x, e, by simpa [headIs] using p⟩
theorem bound_here (act : Nat) (h : ((sRecords act [rec0]).translateSpan who0 .load none false 0x20080 256).elim (fun _ => false) (headIs 0x20080) = true) :
    BoundHere (sRecords act [rec0]) (noted act) who0 0x20080 0 7 rec0 image0 :=
  ⟨record_at _ h, rfl, by decide +kernel, by decide +kernel, rfl⟩

/-- What follows holds of the result of a computation that ends. -/
def thenOk {α : Type} (r : Except SpanFault (α × State)) (P : α → State → Bool) : Bool :=
  match r with
  | .ok (x, s) => P x s
  | .error _ => false
theorem then_of {α : Type} {r : Except SpanFault (α × State)} {P : α → State → Bool} (h : thenOk r P = true) :
    ∃ x s, r = .ok (x, s) ∧ P x s = true := by
  match r, h with
  | .ok (x, s), h => exact ⟨x, s, rfl, h⟩

/-! A row with one transition entry, and a row whose entries lie beyond the image's. -/

def image1 : Image := { image0 with ntrans := 1 }
def rowMore : Row := [0x80000000, 0x10000, 0, 0, 1, 0, 1, 0]
/-- Tokens 3 to 5 push symbol 1 and go to state 1. -/
def entry0 : List Byte := leBytes 4 3 ++ leBytes 4 5 ++ leBytes 4 0x10001 ++ leBytes 4 1
def sEntry : State := ((sImage 0x10000 0).privPut g0 0x4A0 (leBytes 4 0x80000000 ++ leBytes 4 0x10000 ++ leBytes 8 0 ++ leBytes 4 1 ++
  leBytes 4 0 ++ leBytes 4 1)).privPut g0 0x500 entry0
theorem met_automaton_entry (o : Obligations.AutomatonSteps) :
    ∃ u, bridleStep who0 image1 (bound0 8 []) 3 sEntry =
      .ok ((0, { bound0 8 [] with state := 1, stack := [1], depth := 1, steps := 1, lasttok := 3 }), u) := by
  obtain ⟨x, u, e, p⟩ := then_of (r := legalMask who0 image1 (bound0 8 []) sEntry)
    (P := fun x u => decide (x = (some rowMore, 0xFF, false)) &&
      thenOk (((List.range 1).mapM fun k => memLoad who0 none false (0x7E0000000400 + 256 + 16 * (0 + k)) 16) u) fun es _ => decide (es = [entry0]))
    (by decide +kernel)
  simp only [Bool.and_eq_true, decide_eq_true_eq] at p
  obtain ⟨rfl, p⟩ := p
  obtain ⟨es, w, k, p⟩ := then_of p
  simp only [decide_eq_true_eq] at p
  subst p
  exact ⟨w, (((o.2 who0 image1 (bound0 8 []) 3 sEntry u _ _ e).2.2.2 _ _ _ _ _ _ _ rfl (by decide) (by decide) (by decide)).2 [entry0] w
    (by decide) k).2.2.1 ⟨by decide, by decide, by decide, by decide⟩ (by decide) (by decide)⟩
theorem met_automaton_beyond (o : Obligations.AutomatonSteps) : ∃ u, bridleStep who0 image0 (bound0 8 []) 3 sEntry = .ok ((1, bound0 8 []), u) := by
  obtain ⟨x, u, e, p⟩ := then_of (r := legalMask who0 image0 (bound0 8 []) sEntry)
    (P := fun x _ => decide (x = (some rowMore, 0xFF, false))) (by decide +kernel)
  simp only [decide_eq_true_eq] at p
  subst p
  exact ⟨u, ((o.2 who0 image0 (bound0 8 []) 3 sEntry u _ _ e).2.2.2 _ _ _ _ _ _ _ rfl (by decide) (by decide) (by decide)).1 (by decide)⟩
theorem met_automaton_bad_image (o : Obligations.AutomatonSteps) :
    ∃ u, bridleStep who0 image0 (bound0 8 []) 3 (sImage 0x10000 8) = .ok ((1, bound0 8 []), u) := by
  obtain ⟨⟨row, m, bad⟩, u, e, p⟩ := then_of (r := legalMask who0 image0 (bound0 8 []) (sImage 0x10000 8)) (P := fun x _ => x.2.2)
    (by decide +kernel)
  have p : bad = true := p
  subst p
  exact ⟨u, o.1 who0 image0 _ 3 _ u _ _ e⟩

/-- The legal mask of record b is found, with no error of its image, and then whether it accepts. -/
def masked (b : Bound) (s : State) : Bool :=
  thenOk (legalMask who0 image0 b s) fun x v => !x.2.2 && thenOk (accepting who0 b.image image0 b.state v) fun _ _ => true
theorem masked_of {b : Bound} {s : State} (h : masked b s = true) :
    ∃ row m v acc w, legalMask who0 image0 b s = .ok ((row, m, false), v) ∧ accepting who0 b.image image0 b.state v = .ok (acc, w) := by
  obtain ⟨⟨row, m, bad⟩, v, e, p⟩ := then_of h
  simp only [Bool.and_eq_true, Bool.not_eq_true'] at p
  obtain ⟨acc, w, k, _⟩ := then_of p.2
  obtain ⟨rfl, _⟩ := p
  exact ⟨row, m, v, acc, w, e, k⟩

theorem met_record_query (o : Obligations.TokenInstructions) : ∃ x w, bridleLane who0 g0 0 .query 7 0x20080 0 (sRecords 0 [rec0]) = .ok (x, w) :=
  have ⟨_, _, _, _, _, e, k⟩ := masked_of (b := rec0) (s := noted 0) (by decide +kernel)
  ⟨_, _, o.2.1.1 _ _ _ _ _ _ _ _ _ _ _ _ _ _ _ _ (bound_here 0 (by decide +kernel)) (.inr rfl) e k⟩

theorem met_record_mask (o : Obligations.TokenInstructions) :
    ∃ x w, bridleLane who0 g0 0 (.mask false) 7 0x20080 0x20400 (sRecords 0 [rec0]) = .ok (x, w) := by
  have h : thenOk (legalMask who0 image0 rec0 (noted 0)) (fun x v => !x.2.2 &&
      thenOk (memStore who0 [0] 0x20400 ((List.range (maskSize 8)).map fun k =>
          BitVec.ofNat 8 (x.2.1 / 256 ^ k) &&& (if false then (([] : List Byte)[k]?).getD 0 else 0xFF)) v) fun _ v1 => masked rec0 v1) = true := by
    decide +kernel
  obtain ⟨⟨row, m, bad⟩, v, e, p⟩ := then_of h
  simp only [Bool.and_eq_true, Bool.not_eq_true'] at p
  obtain ⟨rfl, p⟩ := p
  obtain ⟨⟨⟩, v1, hs, p⟩ := then_of p
  obtain ⟨_, _, w, acc, x, h1, h2⟩ := masked_of p
  exact ⟨_, _, (o.2.1.2.1 _ _ v who0 g0 0 7 0x20080 0x20400 rec0 image0 row _ m _ acc (w, x) v v1 false [] (bound_here 0 (by decide +kernel)) e
    nofun (fun _ => rfl) hs h1 h2).2⟩

theorem met_record_bad_image (o : Obligations.TokenInstructions) :
    ∃ w, bridleLane who0 g0 0 (.mask false) 7 0x20080 0x20400 (sRecords 8 [rec0]) = .ok (1, w) := by
  obtain ⟨⟨row, m, bad⟩, v, e, p⟩ := then_of (r := legalMask who0 image0 rec0 (noted 8)) (P := fun x _ => x.2.2) (by decide +kernel)
  have p : bad = true := p
  subst p
  exact ⟨_, o.2.1.2.2.2.1 _ _ _ _ _ _ _ _ _ _ _ _ _ false (bound_here 8 (by decide +kernel)) e⟩

def plainSpan (sp : Span) : Bool :=
  decide sp.pas.Nodup && (sp.uses.all fun u => u.leaf.all fun e => leafA e.1 && leafD e.1) && sp.pas.all fun x => !isCap x && decide (x < firmwareKey 0)
theorem plain_of {sp : Span} (h : plainSpan sp = true) : sp.pas.Nodup ∧ (∀ x ∈ sp.uses, ∀ e, x.leaf = some e → leafA e.1 = true ∧ leafD e.1 = true) ∧
    ∀ x ∈ sp.pas, isCap x = false ∧ x < firmwareKey 0 := by
  simp only [plainSpan, Bool.and_eq_true, decide_eq_true_eq, List.all_eq_true, Bool.not_eq_true'] at h
  exact ⟨h.1.1, dirty_of _ (List.all_eq_true.mpr h.1.2), h.2⟩

theorem met_record_store (o : Obligations.TokenInstructions) : ∃ t, memStore who0 [0] 0x20400 [1, 2] (sRecords 0 []) = .ok ((), t) := by
  obtain ⟨sp, e, p⟩ := right_of plainSpan ((sRecords 0 []).translateSpan who0 .store none false 0x20400 2) (by decide +kernel)
  obtain ⟨hn, hu, hx⟩ := plain_of p
  obtain ⟨t, h, _⟩ := o.2.1.2.2.1 who0 [0] 0x20400 [1, 2] (sRecords 0 []) sp e hn rfl (by decide +kernel)
    (fun lid h l hl => by
      obtain rfl : lid = 0 := by simpa using h
      exact all_of (P := fun l => l.snap = false) (o := (sRecords 0 []).launches[0]?) (by decide +kernel) l hl) hu hx
  exact ⟨t, h⟩

theorem met_record_save (o : Obligations.TokenInstructions) :
    ∃ x w, bridleLane who0 g0 0 (.save true) 7 0x20080 0 (sRecords 0 [rec0]) = .ok (x, w) := by
  obtain ⟨⟨⟩, v, e, p⟩ := then_of (r := writeBack { rec0 with lastUse := 7, lids := if rec0.lids.contains 0 then rec0.lids else rec0.lids ++ [0] } (noted 0))
    (P := fun _ v => masked rec0 (if true then v.unbind rec0.pa else v)) (by decide +kernel)
  obtain ⟨_, _, x, _, y, h1, h2⟩ := masked_of p
  exact ⟨_, _, o.2.1.2.2.2.2.1 _ _ v who0 g0 0 7 0x20080 0 rec0 image0 _ _ _ (x, y) true (bound_here 0 (by decide +kernel)) e h1 h2⟩

theorem met_record_written (o : Obligations.TokenInstructions) : ∃ t, writeBack rec0 (sRecords 0 []) = .ok ((), t) := by
  obtain ⟨sp, e, p⟩ := right_of plainSpan ((sRecords 0 []).translateSpan rec0.who .store none false rec0.va (256 + 2 * rec0.depth)) (by decide +kernel)
  obtain ⟨hn, hu, hx⟩ := plain_of p
  obtain ⟨t, h, _⟩ := o.2.1.2.2.2.2.2.1 rec0 (sRecords 0 []) sp e hn rfl (by decide +kernel) nofun hu hx
  exact ⟨t, h⟩

theorem met_record_new (o : Obligations.TokenInstructions) :
    ∃ x w, bridleLane who0 g0 0 (.init 0x7E0000000400 8) 7 0x20080 0 (sRecords 0 []) = .ok (x, w) := by
  obtain ⟨sp, e, hp⟩ := record_at (sRecords 0 []) (by decide +kernel)
  obtain ⟨hdr, u, hl, p⟩ := then_of (r := memLoad who0 none false 0x7E0000000400 64 (sRecords 0 []))
    (P := fun hdr u => decide (hdr = hdr0) && decide (u.bound = []) &&
      masked { rec0 with lasttok := 0xFFFFFFFF, lastUse := 7, lids := [0] }
        { u with bound := u.bound ++ [{ rec0 with lasttok := 0xFFFFFFFF, lastUse := 7, lids := [0] }] }) (by decide +kernel)
  simp only [Bool.and_eq_true, decide_eq_true_eq] at p
  obtain ⟨⟨rfl, hb⟩, p⟩ := p
  obtain ⟨_, _, x, _, y, h1, h2⟩ := masked_of p
  exact ⟨_, _, (o.2.1.2.2.2.2.2.2.2.1 (sRecords 0 []) u who0 g0 0 7 0x20080 0 0x7E0000000400 8 hdr0 sp 0x20080 e hp rfl (by decide +kernel) hl hb).2
    image0 (by decide +kernel) _ _ _ _ (x, y) rfl h1 h2⟩

theorem met_record_new_bad (o : Obligations.TokenInstructions) :
    ∃ w, bridleLane who0 g0 0 (.init 0x7E0000001000 8) 7 0x20080 0 (sRecords 0 []) = .ok (1, w) := by
  obtain ⟨sp, e, hp⟩ := record_at (sRecords 0 []) (by decide +kernel)
  obtain ⟨hdr, u, hl, p⟩ := then_of (r := memLoad who0 none false 0x7E0000001000 64 (sRecords 0 []))
    (P := fun hdr u => decide (Image.ofBytes 0x7E0000001000 hdr = none) && decide (u.bound = [])) (by decide +kernel)
  simp only [Bool.and_eq_true, decide_eq_true_eq] at p
  exact ⟨_, (o.2.1.2.2.2.2.2.2.2.1 (sRecords 0 []) u who0 g0 0 7 0x20080 0 0x7E0000001000 8 hdr sp 0x20080 e hp rfl (by decide +kernel) hl p.2).1 p.1⟩

theorem met_record_bad (o : Obligations.TokenInstructions) :
    ∃ w, bridleLane who0 g0 0 .bind 7 0x20080 0 (sRecords 0 []) = .ok (4, w) := by
  obtain ⟨sp, e, hp⟩ := record_at (sRecords 0 []) (by decide +kernel)
  obtain ⟨bs, u, hl, p⟩ := then_of (r := memLoad who0 none false 0x20080 256 (sRecords 0 []))
    (P := fun bs _ => decide (fieldOf bs 0x10 4 = 0)) (by decide +kernel)
  exact ⟨_, o.2.1.2.2.2.2.2.2.2.2 (sRecords 0 []) u who0 g0 0 7 0x20080 0 sp 0x20080 bs .bind e hp rfl hl (.inl rfl)
    (.inr (.inr (.inr (.inr (.inl (by simpa using p))))))⟩

/-- Two f32 logits, 1 and 2. -/
def row0 : List (Nat × Nat) := [(3, 0x3F800000), (5, 0x40000000)]
def greedy0 : SampleDesc := ⟨0, 0, 0, 0, 8, false, 0, 0, false, 0⟩
theorem met_greedy (o : Obligations.GreedyTokens) : ∃ x, ((sampleRow greedy0 5 0 0 row0).token, x) ∈ row0 :=
  have ⟨_, x, h, _⟩ := (o greedy0 5 0 0 row0 (.inl rfl) (by decide)).2.2.2 ⟨(3, 0x3F800000), by decide, by decide +kernel⟩
  ⟨x, h⟩
theorem met_greedy_none (o : Obligations.GreedyTokens) : (sampleRow greedy0 5 0 0 [(3, 0x7FC00000)]).token = 0xFFFFFFFF :=
  ((o greedy0 5 0 0 [(3, 0x7FC00000)] (.inl rfl) (by decide)).2.2.1 (by decide +kernel)).1

/-! Tickets -/

def ticket0 (a : BitVec 9) : WordY := ⟨0, 0, 4, a, 0, 0, 0, 0⟩
theorem met_tkbeg (o : Obligations.Tickets) : Completes (.tkbeg (ticket0 5)) s0 :=
  ⟨_, ((o.1 _ _ (ticket0 5) _ (.inl ⟨rfl, rfl, rfl⟩) s0 c0 q0).1 (.s 4 1) (.s 5 1) (passes_of (by decide +kernel)) (by decide +kernel)
    (by decide +kernel)).1 (by decide +kernel)⟩
theorem met_tkend (o : Obligations.Tickets) : Completes (.tkend (ticket0 5)) s0 :=
  ⟨_, ((o.1 _ _ (ticket0 5) _ (.inr (.inl ⟨rfl, rfl, rfl⟩)) s0 c0 q0).1 (.s 4 1) (.s 5 1) (passes_of (by decide +kernel)) (by decide +kernel)
    (by decide +kernel)).1 (by decide +kernel)⟩
theorem met_tkpass (o : Obligations.Tickets) : Completes (.tkpass (ticket0 5)) s0 :=
  ⟨_, ((o.1 _ _ (ticket0 5) _ (.inr (.inr (.inr ⟨rfl, rfl, rfl⟩))) s0 c0 q0).1 (.s 4 1) (.s 5 1) (passes_of (by decide +kernel))
    (by decide +kernel) (by decide +kernel)).1 (by decide +kernel)⟩
theorem met_tkwait (o : Obligations.Tickets) : Completes (.tkwait (ticket0 5)) s0 :=
  ⟨_, ((o.1 _ _ (ticket0 5) _ (.inr (.inr (.inl ⟨rfl, rfl, rfl⟩))) s0 c0 q0).1 (.s 4 1) (.s 5 1) (passes_of (by decide +kernel))
    (by decide +kernel) (by decide +kernel)).2 (by decide +kernel)⟩
theorem met_tkwait_goes_on (o : Obligations.Tickets) : Completes (.tkwait (ticket0 5)) (sWait (.ticket 0)) :=
  ⟨_, ((o.1 _ _ (ticket0 5) _ (.inr (.inr (.inl ⟨rfl, rfl, rfl⟩))) (sWait (.ticket 0)) (ctxAt (sWait (.ticket 0)) (by decide +kernel))
    (quiet_at _ (by decide +kernel))).2 0 (by decide +kernel)).1 (by decide +kernel)⟩
/-- The TKWAIT of slot A is outstanding. -/
def sTicket : State :=
  issuing fun h => { h with slotA := { h.slotA with st := .atEvent (.ticket 0) }, pend := [op0 0 (some 0) (.ticket .wait 5 (.s 4))] }
theorem met_tkwait_waits (o : Obligations.Tickets) : exec (.tkwait (ticket0 5)) sTicket = .next sTicket :=
  ((o.1 _ _ (ticket0 5) _ (.inr (.inr (.inl ⟨rfl, rfl, rfl⟩))) sTicket (ctxAt sTicket (by decide +kernel))
    (quiet_at _ (by decide +kernel))).2 0 (by decide +kernel)).2 (by decide +kernel)

def ticketOp0 (t : TicketOp) : Pend := { op0 0 (some 0) (.ticket t 5 (.s 4)) with scope := .device }
/-- The ticket operation `t` on key 5 is outstanding, beside these chains; the launch has two blocks. -/
def sChain (t : TicketOp) (l : List Chain) : State :=
  { (sOps [ticketOp0 t]).modLaunch 0 fun l => { l with gx := 2 } with chains := l }
theorem met_ticket_begins (o : Obligations.Tickets) :
    ∃ u b x, exec (.accessPerform 0) (sChain .beg []) = .next u ∧ u.chainOf b 5 = some x :=
  have ⟨u, _, _, h, _, _, _, _, v, _⟩ := o.2.1 (sChain .beg []) g0 _ _ (ticketOp0 .beg) .beg 5 (.s 4) rfl
    (Option.some_get (by decide +kernel)).symm (Option.some_get (by decide +kernel)).symm (by decide +kernel) (by decide +kernel) rfl rfl
  ⟨u, _, _, h, (v (by decide +kernel)).2.2.2.2 rfl _ (Option.some_get (by decide +kernel)).symm (by decide +kernel) (by decide +kernel)⟩
def chain0 : Chain := ⟨5, 0, none, 0, false⟩
/-- Block 1 of the launch has been admitted too. -/
def sPass : State :=
  let s := sChain .pass [chain0]
  { s with blocks := s.blocks ++ s.blocks.map fun b => { b with bseq := 1 } }
theorem met_ticket_passes (o : Obligations.Tickets) :
    ∃ u b x, exec (.accessPerform 0) sPass = .next u ∧ u.chainOf b 5 = some x :=
  have ⟨u, _, _, h, _, _, _, _, _, v⟩ := o.2.1 sPass g0 _ _ (ticketOp0 .pass) .pass 5 (.s 4) rfl
    (Option.some_get (by decide +kernel)).symm (Option.some_get (by decide +kernel)).symm (by decide +kernel) (by decide +kernel) rfl rfl
  ⟨u, _, _, h, (v chain0 (by decide +kernel)).2.2.2.2.2.2.2 rfl (by decide +kernel) _ (Option.some_get (by decide +kernel)).symm
    (by decide +kernel) (by decide +kernel)⟩
theorem met_ticket_ends (o : Obligations.Tickets) :
    ∃ u b, exec (.accessPerform 0) (sChain .fin [chain0]) = .next u ∧ u.chainOf b 5 = none :=
  have ⟨u, _, _, h, _, _, _, _, _, v⟩ := o.2.1 (sChain .fin [chain0]) g0 _ _ (ticketOp0 .fin) .fin 5 (.s 4) rfl
    (Option.some_get (by decide +kernel)).symm (Option.some_get (by decide +kernel)).symm (by decide +kernel) (by decide +kernel) rfl rfl
  ⟨u, _, h, (v chain0 (by decide +kernel)).2.2.2.2.2.2.1 rfl (by decide +kernel)⟩

/-- The head block has staged the store of its group. -/
def sStaged : State :=
  { (sOps [{ store1 with accs := store1.accs.map fun a => { a with staged := true } }]).modBlock 0 fun b => { b with staged := [⟨0, 0⟩] } with
    issuer := .launch 0 }
theorem met_release (o : Obligations.Tickets) : Completes .ticketRelease sStaged :=
  ⟨_, (o.2.2 sStaged 0 0 0 _ ⟨0, 0⟩ [] rfl (by decide +kernel) (by decide +kernel) (Option.some_get (by decide +kernel)).symm
    (by decide +kernel) (by decide)).1⟩

/-! Time, queries, work graphs -/

theorem met_contq (o : Obligations.QueriesAndTime) : Completes (.contq ⟨0, 0, 8, 0x185, 0x180, 0, 0, 0⟩) s0 :=
  ⟨_, o.1 ⟨0, 0, 8, 0x185, 0x180, 0, 0, 0⟩ s0 c0 8 (.c 5) (.c 0) q0 (by decide +kernel) (passes_of (by decide +kernel))⟩
theorem met_twait (o : Obligations.QueriesAndTime) : Completes (.twait ⟨0, 0, 0, 6, 0, 0, 0, 0⟩) s0 :=
  ⟨_, o.2.1 ⟨0, 0, 0, 6, 0, 0, 0, 0⟩ s0 c0 (.s 6 2) q0 (by decide +kernel) (passes_of (by decide +kernel))⟩
theorem met_twait_over (o : Obligations.QueriesAndTime) : Completes (.twait ⟨0, 0, 0, 6, 0, 0, 0, 0⟩) (sWait (.time 0)) :=
  ⟨_, o.2.2.1 ⟨0, 0, 0, 6, 0, 0, 0, 0⟩ (sWait (.time 0)) (ctxAt (sWait (.time 0)) (by decide +kernel)) 0 (quiet_at _ (by decide +kernel))
    (by decide +kernel) (by decide +kernel)⟩
def sExpiry : State :=
  issuing fun h => { h with slotA := { h.slotA with
    st := .atEvent (.time 0)
    clause := h.slotA.clause.map fun k => { k with words := [clauseWord 0x38F (WordY.bits ⟨0, 0, 0, 6, 0, 0, 0, 0⟩)] } } }
theorem met_twait_expiry (o : Obligations.QueriesAndTime) : Completes .twaitExpiry sExpiry :=
  ⟨_, o.2.2.2.1 ⟨0, 0, 0, 6, 0, 0, 0, 0⟩ sExpiry (ctxAt sExpiry (by decide +kernel)) 0 _ (quiet_at _ (by decide +kernel)) (by decide +kernel)
    (by decide +kernel) (by decide +kernel) (by decide +kernel) (Option.some_get (by decide +kernel)).symm (by decide +kernel)⟩

theorem met_record_bytes (o : Obligations.QueriesAndTime) : (recordBytes 1 12).take 4 = [1, 1, 12, 64] :=
  congrArg (List.take 4) (o.2.2.2.2 1 12 (by decide) (by decide) (by decide))

theorem met_nemit (o : Obligations.WorkGraphs) : Completes (.nemit ⟨0, 0, 4, 0x180, 6, 0, 0, 0⟩) s0 :=
  ⟨_, o.1 ⟨0, 0, 4, 0x180, 6, 0, 0, 0⟩ s0 c0 (.s 4 1) (.c 0) (.v 6 2) q0 (passes_of (by decide +kernel)) (by decide +kernel)⟩
def emit0 (node : Nat) : Pend := op0 0 (some 0) (.emit node (.s 4) [(0, 0x20100)])
theorem met_emit_no_node (o : Obligations.WorkGraphs) :
    s0.runEmit c0 (emit0 3) 3 (.s 4) [(0, 0x20100)] = .ok (s0.land c0.g .a [(.s 4, 1)]) none :=
  o.2.1 s0 c0 (emit0 3) 3 (.s 4) [(0, 0x20100)] (by decide +kernel)

/-- Node 0 of the launch: records of 8 bytes, two segments, its buffer at 0x30000; `g` is its gather state. -/
def node0 : Node := ⟨0, 0, 0x20000, none, 8, 0, 16, 16, 0, 0, 192, 0x30000, 0, 0x30000⟩
def sNode (p : Party) (g : Gather) : State :=
  { s0.modLaunch 0 fun l => { l with nodes := [node0], gathers := [g] } with issuer := p, time := 8000 }
def sEmit : State := sNode (.slot g0 .a) ⟨none, [], 0, none⟩
def cEmit : Ctx := ctxAt sEmit (by decide +kernel)
theorem met_emit (o : Obligations.WorkGraphs) : ∃ t, sEmit.runEmit cEmit (emit0 0) 0 (.s 4) [(0, 0x20100)] = .ok t none :=
  ⟨_, o.2.2.1 sEmit cEmit (emit0 0) 0 node0 (.s 4) [(0, 0x20100)] _ [List.replicate 8 0] (by decide +kernel) rfl
    (Prod.ext rfl (by decide +kernel)) (by decide +kernel) (by decide +kernel)⟩
def sGather : State := sNode (.launch 0) ⟨some ⟨0, [List.replicate 8 7], 0⟩, [], 0, none⟩
theorem met_gather_timer (o : Obligations.WorkGraphs) : Completes (.nodeGatherTimer 0) sGather :=
  have ⟨_, _, _, h, _⟩ := o.2.2.2 sGather 0 _ 0 node0 _ ⟨0, [List.replicate 8 7], 0⟩ rfl (Option.some_get (by decide +kernel)).symm
    (by decide +kernel) (Option.some_get (by decide +kernel)).symm (by decide +kernel) (by decide +kernel) (by decide +kernel)
    (by decide +kernel)
  ⟨_, h⟩

/-! Collectives -/

/-- A communicator of two ranks under handle 0, this device rank 0, with these steps. -/
def comm0 (steps : List RedStep) : Comm where
  handle := 0
  vif := 0
  desc := 0
  cmd := 0
  nrank := 2
  rank := 0
  allow := 0x7F
  members := [0, 1]
  tag := 0
  agreed := 5
  live := true
  opening := false
  closing := false
  nextStep := 0
  steps := steps

/-- A sum of four n32 elements from the page's start to 0x20200, described in s8 to s15 too. -/
def step0 : RedStep := ⟨0, g0, 0, 0, 0x20000, 0x20200, 4, 0, 6, 0, none, false, .armed, 0, true, false, false, [], [], [], none⟩
def sRed (l : List Comm) : State :=
  { issuing fun h => { h with s := [(8, 0x20000), (10, 0x20200), (12, 4), (13, 0x600)] } with comms := l }
def sComm : State := sRed [comm0 []]
theorem met_cllred (o : Obligations.CollectiveInstructions) : Completes (.cllred ⟨0, 0, 4, 0, 8, 0, 0, 0⟩) sComm :=
  have ⟨_, _, _, _, h, _⟩ := o.1 ⟨0, 0, 4, 0, 8, 0, 0, 0⟩ sComm (ctxAt sComm (by decide +kernel)) (.s 4 1) (.s 8 8) 0 (comm0 [])
    (quiet_at _ (by decide +kernel)) (by decide +kernel) (by decide +kernel) (passes_of (by decide +kernel)) (by decide +kernel)
    (by decide +kernel) (by decide +kernel) (by decide +kernel)
  ⟨_, h⟩
theorem met_cllred_no_comm (o : Obligations.CollectiveInstructions) : Completes (.cllred ⟨0, 0, 4, 0, 8, 0, 0, 0⟩) (sRed []) :=
  ⟨_, o.2.1 ⟨0, 0, 4, 0, 8, 0, 0, 0⟩ (sRed []) (ctxAt (sRed []) (by decide +kernel)) (.s 4 1) (.s 8 8) (quiet_at _ (by decide +kernel))
    (by decide +kernel) (by decide +kernel) (passes_of (by decide +kernel)) (by decide +kernel) (by decide +kernel)⟩
theorem met_cllqry (o : Obligations.CollectiveInstructions) : Completes (.cllqry ⟨0, 0, 4, 0x180, 0x180, 0, 0, 0⟩) sComm :=
  ⟨_, o.2.2 ⟨0, 0, 4, 0x180, 0x180, 0, 0, 0⟩ sComm (ctxAt sComm (by decide +kernel)) (.s 4 2) (.c 0) (.c 0) (quiet_at _ (by decide +kernel))
    (passes_of (by decide +kernel))⟩

/-- The step is outstanding, on a page that is dirty. -/
def sStep : State :=
  let s := sOps [op0 0 (some 0) (.step 0 0)]
  { s with comms := [comm0 [step0]], issuer := .comm 0, mem := s.mem.putNum 0x4100 8 0x200DF }
def okSpans (x : Span × Span) : Bool :=
  ((x.1.uses ++ x.2.uses).all fun u => u.leaf.all fun e => leafA e.1 && leafD e.1) && decide x.2.pas.Nodup && !x.1.mism && !x.2.mism
    && (x.1.pas ++ x.2.pas).all fun a => !isCap a && decide (a < firmwareKey 0)
theorem no_reserve (b : Block) (h : b.staged = []) (f : Staged → Bool) (pas : List Nat) : b.reserveTouches f pas = false := by
  simp [Block.reserveTouches, h]
theorem step0_spans : ∃ x, sStep.redAccess (comm0 [step0]) step0 = .inr x ∧ okSpans x = true := right_of okSpans _ (by decide +kernel)
theorem met_reduction (o : Obligations.ReductionsAndTether) :
    Completes (.reductionStepRun 0 [⟨1, 0, 6, 0, 4, 0, List.replicate 16 1⟩]) sStep := by
  obtain ⟨⟨sp, dp⟩, e, p⟩ := step0_spans
  simp only [okSpans, Bool.and_eq_true, List.all_eq_true, Bool.not_eq_true', decide_eq_true_eq] at p
  obtain ⟨⟨⟨⟨hu, hn⟩, hs⟩, hd⟩, hx⟩ := p
  obtain ⟨_, _, h, _⟩ := o.1 sStep 0 (comm0 [step0]) step0 _ _ [⟨1, 0, 6, 0, 4, 0, List.replicate 16 1⟩] sp dp rfl (by decide +kernel)
    (by decide +kernel) (Option.some_get (by decide +kernel)).symm (group_of (by decide +kernel)) (by decide +kernel) rfl (by decide +kernel)
    rfl rfl rfl (by decide) e (by decide) (by decide)
    (fun u h k hk => by simpa [hk, Bool.and_eq_true] using hu u h) hn (by decide +kernel) (all_of (by decide +kernel)) (by decide +kernel)
    hs hd (no_reserve _ (by decide +kernel) _ _) (fun x h => hx x h) (by decide)
  exact ⟨_, h⟩
theorem met_sum_exact (o : Obligations.ReductionsAndTether) :
    ∃ v, collectiveSum 5 .f32 [0x3F800000, 0x40000000] = (roundedTo .f32 .rne false v false).enc :=
  ⟨_, (o.2.1 5 .f32 [0x3F800000, 0x40000000] (by decide) (by decide) (by decide)).1 (by decide)⟩
theorem met_sum_tree (o : Obligations.ReductionsAndTether) :
    ∃ v, collectiveSum 1 .f32 [0x3F800000, 0x40000000] = (roundedTo .f32 .rne true v false).enc :=
  have ⟨_, v, _, _, _, h⟩ := (o.2.1 1 .f32 [0x3F800000, 0x40000000] (by decide) (by decide) (by decide)).2 (by decide)
  ⟨v, h⟩
theorem met_member_lost (o : Obligations.ReductionsAndTether) : Completes .tetherMemberLost sStep :=
  have ⟨_, _, h, _⟩ := o.2.2.1 sStep 0 (comm0 [step0]) rfl (by decide +kernel)
  ⟨_, h⟩
/-- The launch has issued the step. -/
def sAbort : State := sStep.modLaunch 0 fun l => { l with steps := [(0, 0)] }
theorem met_step_abort (o : Obligations.ReductionsAndTether) : Completes (.stepAbort 0) sAbort :=
  have ⟨_, _, _, h, _⟩ := o.2.2.2.1 sAbort 0 (comm0 [step0]) 0 0 _ rfl (by decide +kernel) (Option.some_get (by decide +kernel)).symm
    (by decide +kernel) (by decide +kernel) (by decide +kernel) (by decide +kernel) (by decide +kernel)
    (fun j l hj hl => by
      match j with
      | 0 => exact absurd rfl hj
      | j + 1 =>
        have one : sAbort.launches.length = 1 := by decide +kernel
        exact absurd hl (by rw [List.getElem?_eq_none (by omega)]; nofun))
  ⟨_, h⟩
/-- The state with this party acting. -/
def sBy (p : Party) : State := { s0 with issuer := p }
theorem met_tether_sync (o : Obligations.ReductionsAndTether) : Completes .tetherSyncRegained (sBy .device) :=
  ⟨_, (o.2.2.2.2 (sBy .device) rfl).2⟩

/-! Admission. The tables of a region: a launch region at 0x8000 in a fault region at 0x8100 under interface 0. -/

def sRegion (s : State) : State :=
  { s with mem := (((s.mem.putNum 0x8000 1 4).putNum 0x8008 8 0x8100).putNum 0x8100 1 3).putNum 0x8108 8 0x10000 }

/-- The launch of the placed program has three blocks, `next` of them admitted, a stream and this RCB. -/
def sAdmit (next rcb : Nat) : State :=
  let s := sRegion (s0.modLaunch 0 fun l => { l with gx := 3, nextBseq := next, mseqPc := some 0x20000, rcb := rcb })
  { s with issuer := .device }
theorem met_admit (o : Obligations.BlocksAdmitted) : Completes (.blockAdmit (.grid 0) 1) (sAdmit 1 0x10000) :=
  have ⟨_, _, _, _, h, _⟩ := o.1.1 (sAdmit 1 0x10000) (sAdmit 1 0x10000) 0 1 _ _ _ _ _ rfl (Option.some_get (by decide +kernel)).symm (by decide +kernel)
    ⟨fun _ => rfl, fun h => absurd h (by decide +kernel)⟩ (by decide +kernel)
    (show (sAdmit 1 0x10000).fit (.first (.grid 0)) 1 = some (((sAdmit 1 0x10000).fit (.first (.grid 0)) 1).get (by decide +kernel)) from
      (Option.some_get _).symm) (by decide +kernel)
  ⟨_, h⟩
/-- The first block: the region at 0x8000 has just been read. -/
def pathFirst : List Rcb := ((sAdmit 0 0x8000).launchPath 0 0x8000).getD []
def sFirst : State := (sAdmit 0 0x8000).keepRcbs pathFirst
theorem met_admit_first (o : Obligations.BlocksAdmitted) : Completes (.blockAdmit (.grid 0) 1) (sAdmit 0 0x8000) :=
  have ⟨_, _, _, _, h, _⟩ := o.1.1 (sAdmit 0 0x8000) sFirst 0 1 _ _ _ _ _ rfl (Option.some_get (by decide +kernel)).symm (by decide +kernel)
    ⟨fun h => absurd (by decide +kernel) h, fun _ => ⟨pathFirst, by decide +kernel, rfl, by decide +kernel⟩⟩ (by decide +kernel)
    (show sFirst.fit (.first (.grid 0)) 1 = some ((sFirst.fit (.first (.grid 0)) 1).get (by decide +kernel)) from
      (Option.some_get _).symm) (by decide +kernel)
  ⟨_, h⟩
/-- A batch of one record is closed. -/
def sBatch : State := sNode .device ⟨none, [(0, ⟨0, [List.replicate 8 7], 0⟩)], 1, none⟩
theorem met_admit_batch (o : Obligations.BlocksAdmitted) : Completes (.blockAdmit (.batch 0 0) 1) sBatch :=
  have ⟨_, _, _, _, _, _, h, _⟩ := o.1.2.1 sBatch 0 0 1 _ node0 _ 0 ⟨0, [List.replicate 8 7], 0⟩ [] _ _ _ _ rfl
    (Option.some_get (by decide +kernel)).symm (by decide +kernel) (by decide +kernel) (Option.some_get (by decide +kernel)).symm
    (by decide +kernel) (by decide +kernel)
    (show sBatch.fit (.first (.batch 0 0)) 1 = some ((sBatch.fit (.first (.batch 0 0)) 1).get (by decide +kernel)) from
      (Option.some_get _).symm) (by decide +kernel)
  ⟨_, h⟩
theorem met_admit_refused (o : Obligations.BlocksAdmitted) : Completes (.blockAdmit (.grid 0) 1) (sAdmit 0 0x10000) :=
  ⟨_, (o.1.2.2 (sAdmit 0 0x10000) 0 1 _ rfl (Option.some_get (by decide +kernel)).symm (by decide +kernel) (by decide +kernel)).1
    (by decide +kernel)⟩
/-- The launch of `sAdmit` with other needs. -/
def sNeeds (f : Launch → Launch) : State := (sAdmit 0 0x8000).modLaunch 0 f
theorem met_admit_nofit (o : Obligations.BlocksAdmitted) :
    Completes (.blockAdmit (.grid 0) 1) (sNeeds fun l => { l with ngrp := 200 }) :=
  ⟨_, ((o.1.2.2 (sNeeds fun l => { l with ngrp := 200 }) 0 1 _ rfl (Option.some_get (by decide +kernel)).symm (by decide +kernel)
    (by decide +kernel)).2 _ _ (Option.some_get (by decide +kernel)).symm (Option.some_get (by decide +kernel)).symm).1
    (.inl (by decide +kernel))⟩
theorem met_admit_nobal (o : Obligations.BlocksAdmitted) :
    Completes (.blockAdmit (.grid 0) 1) (sNeeds fun l => { l with gridbar := true, gx := 60000, gy := 60000, gz := 200 }) :=
  ⟨_, ((o.1.2.2 (sNeeds fun l => { l with gridbar := true, gx := 60000, gy := 60000, gz := 200 }) 0 1 _ rfl
    (Option.some_get (by decide +kernel)).symm (by decide +kernel)
    (by decide +kernel)).2 _ _ (Option.some_get (by decide +kernel)).symm (Option.some_get (by decide +kernel)).symm).2
    (by decide +kernel) (by decide +kernel) (by decide +kernel) (by decide +kernel)⟩
theorem met_traversal (o : Obligations.BlocksAdmitted) :
    (Launch.blockId { placedLaunch with gx := 5, gy := 3, swz := 1 } 14).1 < 5 :=
  ((o.2 { placedLaunch with gx := 5, gy := 3, swz := 1 } (.inl rfl) (by decide) (by decide)).1 14 (by decide)).1

/-! The active set -/

def sCore (active : List GRef) (pending : List (GRef × Nat)) (x : Party) : State :=
  { s0.modCore 0 fun k => { k with active := active, pending := pending } with issuer := x, time := 20000 }
theorem met_pending_to_active (o : Obligations.CoreScheduling) : Completes .pendingToActive (sCore [] [(g0, 0)] (.core 0)) :=
  ⟨_, o.1.1 (sCore [] [(g0, 0)] (.core 0)) 0 _ g0 0 rfl (Option.some_get (by decide +kernel)).symm (by decide +kernel) (by decide +kernel)
    (by decide +kernel) (by decide +kernel) (by decide +kernel)⟩
def eight : List GRef := (List.range 8).map fun i => ⟨1, i⟩
theorem met_exchange (o : Obligations.CoreScheduling) : Completes .activeSetExchange (sCore eight [(g0, 0)] (.core 0)) :=
  ⟨_, o.1.2.1 (sCore eight [(g0, 0)] (.core 0)) 0 _ ⟨1, 0⟩ _ g0 0 rfl (Option.some_get (by decide +kernel)).symm rfl (by decide +kernel)
    (by decide +kernel) (by decide +kernel) (by decide +kernel) (by decide +kernel) (by decide +kernel) (by decide +kernel)⟩
theorem met_full_set (o : Obligations.CoreScheduling) : Completes .pendingToActive (sCore eight [(g0, 0)] (.core 0)) :=
  ⟨_, o.1.2.2.1 (sCore eight [(g0, 0)] (.core 0)) 0 _ rfl (Option.some_get (by decide +kernel)).symm (by decide +kernel)⟩
theorem met_core_retire (o : Obligations.CoreScheduling) : Completes .coreRetire (sCore [] [] (.core 0)) :=
  ⟨_, o.2.1 (sCore [] [] (.core 0)) 0 rfl (by decide +kernel)⟩

/-- Slot A is parked on a fetch of the placed page; the group has been parked since time 0. -/
def sParked (x : Party) : State :=
  { issuing fun h => { h with slotA := { h.slotA with park := some ⟨.fetch, 0x20000, 0⟩ }, parkedSince := some 0 } with
    issuer := x, time := 20000 }
theorem met_retry (o : Obligations.CoreScheduling) : Completes (.parkedFaultRetry (.slot g0 .a)) (sParked .device) :=
  ⟨_, o.2.2.1 (sParked .device) _ (.slot g0 .a) rfl rfl (.inl ⟨0, by decide +kernel, by decide +kernel⟩)⟩
theorem no_inl {α β : Type} {P : α → Prop} {r : α ⊕ β} (h : r.isRight = true) : ∀ f, r = .inl f → P f := by
  intro f e; rw [e] at h; cases h
theorem met_retry_fetch (o : Obligations.CoreScheduling) : ∃ t, (sParked .device).retry (.slot g0 .a) = t :=
  ⟨_, o.2.2.2 (sParked .device) g0 .a _ ⟨.fetch, 0x20000, 0⟩ (by decide +kernel) (Option.some_get (by decide +kernel)).symm
    (by decide +kernel) rfl (no_inl (by decide +kernel))⟩

/-! Swaps -/

theorem met_swap_out (o : Obligations.BlockSwaps) : Completes .blockSwapOut (sParked (.block 0)) :=
  ⟨_, o.1.1 (sParked (.block 0)) 0 _ _ rfl (Option.some_get (by decide +kernel)).symm (Option.some_get (by decide +kernel)).symm⟩
theorem met_parkt (o : Obligations.BlockSwaps) : Completes .parktExpiry (sParked (.group g0)) :=
  ⟨_, o.1.2.1 (sParked (.group g0)) g0 _ _ _ 0 rfl (group_of (by decide +kernel)) (Option.some_get (by decide +kernel)).symm
    (Option.some_get (by decide +kernel)).symm (by decide +kernel) (by decide +kernel)⟩
/-- Block 0, older, waits for a tile; block 1 waits too and holds all the others. -/
def sWound : State :=
  let s := s0.modLaunch 0 fun l => { l with acc := 48 }
  let young (b : Block) : Block := { b with bseq := 1, wants := 1, tiles := (List.range 48).map fun n => (n, []) }
  { s with blocks := (s.blocks.map fun b => { b with wants := 1 }) ++ s.blocks.map young }
theorem met_wounded (o : Obligations.BlockSwaps) : (sWound.block? 1).bind sWound.swapCause = some .wound :=
  have e : sWound.block? 1 = some ((sWound.block? 1).get (by decide +kernel)) := (Option.some_get _).symm
  have h := o.1.2.2.1 sWound ((sWound.block? 1).get (by decide +kernel)) (by decide +kernel) (by decide +kernel) (by decide +kernel)
    (by decide +kernel)
  by rw [e]; exact h
/-- Nothing is in flight, as a check. -/
def Block.idleB (b : Block) : Bool :=
  b.groups.all fun h => h.pend.isEmpty && h.aside.isEmpty && h.slotA.abandoned.isNone && h.slotB.abandoned.isNone && h.slotA.walk.isNone &&
    h.slotB.walk.isNone
theorem idle_of {b : Block} (h : b.idleB = true) : b.idleOps := by
  intro k hk
  have := List.all_eq_true.mp h k hk
  simp only [Bool.and_eq_true, List.isEmpty_iff, Option.isNone_iff_eq_none] at this
  exact ⟨this.1.1.1.1.1, this.1.1.1.1.2, this.1.1.1.2, this.1.1.2, this.1.2, this.2⟩
theorem met_swapped (o : Obligations.BlockSwaps) : ∃ b', ((sParked (.block 0)).swapOut 0 .parked).block? 0 = some b' :=
  have ⟨b, h, _⟩ := o.1.2.2.2 (sParked (.block 0)) 0 _ .parked _ _ (Option.some_get (by decide +kernel)).symm (by decide +kernel)
    (by decide +kernel) (idle_of (by decide +kernel)) (by unfold State.noChunk; decide +kernel) (by decide +kernel) (by decide +kernel)
    (Option.some_get (by decide +kernel)).symm (by decide +kernel) (Option.some_get (by decide +kernel)).symm (by decide +kernel)
  ⟨b, h⟩

/-- The block is away at the grid barrier, which has been released; one byte of its share is kept. -/
def sAway : State :=
  { s0.modBlock 0 fun b => { b with place := .swapped (.grid 0), slots := [], savedShare := [(5, 7)] } with issuer := .block 0 }
theorem met_readmit (o : Obligations.BlockSwaps) : Completes (.blockReadmit 1) sAway :=
  ⟨_, o.2.1 sAway 0 1 _ rfl (Option.some_get (by decide +kernel)).symm (by decide +kernel) (by decide +kernel)⟩
theorem met_readmitted (o : Obligations.BlockSwaps) : ∃ b', (sAway.readmit 0 1).block? 0 = some b' :=
  have back := o.2.2 sAway 0 1 _ (.grid 0) _ _ _ _ _ (Option.some_get (by decide +kernel)).symm (by decide +kernel)
    (show sAway.fit (.again 0) 1 = some ((sAway.fit (.again 0) 1).get (by decide +kernel)) from (Option.some_get _).symm)
    (idle_of (by decide +kernel)) (by decide +kernel) (by decide +kernel) (by decide +kernel)
  have ⟨b, _, h, _⟩ := back (by decide +kernel) (by decide +kernel) (by decide +kernel)
  ⟨b, h⟩

/-! Pre-emption -/

/-- Core 0: block 0 of interface 0 at this place, and block 1, of a launch of interface 1 with a higher priority, at that one. -/
def sTwo (x : Party) (p q : Place) (gondola : List Nat) : State :=
  let s := s0.modCore 0 fun k => { k with gondola := gondola }
  { s with
    issuer := x
    time := 9000
    vifs := s.vifs.map fun v => { v with quantum := 1 }
    launches := [{ placedLaunch with rcb := 0 }, { placedLaunch with vif := 1, rcb := 0x10100, nextBseq := 0 }]
    blocks := (s.blocks.map fun b => { b with place := p }) ++ s.blocks.map fun b => { b with lid := 1, place := q } }
/-- MayChange and NeedsCore as checks. -/
def mayB (s : State) (cores : List Nat) : Bool :=
  decide cores.Nodup && (cores.all fun c => decide (c < s.cores.length)) &&
    (s.blocks.all fun b => !cores.contains b.core || (b.idleB && b.groups.all fun h => h.slotA.park.isNone && h.slotB.park.isNone)) &&
    (cores.all fun c => (s.cores[c]?).all fun k => decide k.gondola.Nodup &&
      k.gondola.all fun bid => (s.block? bid).any fun b => decide (b.core = c) && decide (b.place = .preempted)) &&
    s.copies.all fun k => k.work.isNone
theorem may_of {s : State} {cores : List Nat} (h : mayB s cores = true) : MayChange s cores := by
  simp only [mayB, Bool.and_eq_true, Bool.or_eq_true, List.all_eq_true, decide_eq_true_eq, Bool.not_eq_true', Option.isNone_iff_eq_none] at h
  obtain ⟨⟨⟨⟨a, b⟩, c⟩, d⟩, e⟩ := h
  refine ⟨a, b, fun x hx hc => ?_, fun k hk m hm => ?_, fun x hx => e x hx⟩
  · rcases c x hx with n | ⟨i, p⟩
    · rw [List.contains_eq_mem] at n; simp [hc] at n
    · exact ⟨idle_of i, fun g hg => by simpa using p g hg⟩
  · have q := d k hk
    rw [hm] at q
    simp only [Option.all_some, Bool.and_eq_true, decide_eq_true_eq, List.all_eq_true, Option.any_eq_true] at q
    exact ⟨q.1, fun bid hb => have ⟨y, ey, py⟩ := q.2 bid hb; ⟨y, ey, py⟩⟩
def needsB (s : State) (lid c : Nat) : Bool :=
  (s.cores[c]?).any fun k => k.gondola.any fun bid => (s.block? bid).any fun b => decide (b.lid = lid) &&
    (List.range b.groups.length).any fun gid => s.groupReady ⟨bid, gid⟩
theorem needs_of {s : State} {lid c : Nat} (h : needsB s lid c = true) : NeedsCore s lid c := by
  simp only [needsB, Option.any_eq_true, List.any_eq_true, Bool.and_eq_true, decide_eq_true_eq, List.mem_range] at h
  obtain ⟨k, hk, bid, hb, b, eb, el, gid, hg, r⟩ := h
  exact .inl ⟨k, bid, b, gid, hk, hb, eb, el, hg, r⟩

def sRun : State := sTwo .device .resident .preempted [1]
def launch1 : Launch := { placedLaunch with vif := 1, rcb := 0x10100, nextBseq := 0 }
theorem met_preempt (o : Obligations.Preemption) : Completes (.preempt [0]) sRun :=
  have low : ∀ b ∈ sRun.blocks, b.place = .resident →
      ((sRun.launches[b.lid]?).all fun m => decide (sRun.prioOf m < sRun.prioOf launch1)) = true := by decide +kernel
  have ⟨_, h, _⟩ := o.1 sRun 0 [] 0 1 launch1 rfl (may_of (by decide +kernel)) (by decide +kernel) (by decide +kernel)
    (by decide +kernel) (by decide +kernel) (fun k hk => by
      rw [List.mem_singleton.mp hk]; exact needs_of (by decide +kernel))
    (fun b hb _ hp => all_of (low b hb hp)) (by decide +kernel)
  ⟨_, h⟩
def sIdleCore : State := sTwo .device .exited .preempted [1]
theorem met_preempt_idle (o : Obligations.Preemption) : Completes (.preempt [0]) sIdleCore :=
  have ⟨_, h, _⟩ := o.2.1 sIdleCore 0 [] 1 rfl (may_of (by decide +kernel)) (by decide +kernel)
  ⟨_, h⟩
def sQuantum : State := sTwo (.host 0) .resident .preempted [1]
theorem met_quantum_expiry (o : Obligations.Preemption) : Completes .quantumExpiry sQuantum :=
  have h : needsB sQuantum 1 0 = true := by decide +kernel
  have ⟨_, h, _⟩ := o.2.2 sQuantum 0 _ [0] (some 1) rfl (Option.some_get (by decide +kernel)).symm (by decide +kernel) (by decide +kernel)
    (by decide +kernel) (by decide +kernel) (may_of (by decide +kernel)) ⟨0, List.mem_singleton_self 0, by
      simp only [needsB, Option.any_eq_true, List.any_eq_true, Bool.and_eq_true, decide_eq_true_eq, List.mem_range] at h
      obtain ⟨k, hk, bid, hb, b, eb, _, gid, hg, r⟩ := h
      exact ⟨k, bid, b, gid, hk, hb, eb, hg, r⟩⟩
  ⟨_, h⟩

/-! Queues and commands -/

/-- Queue 0 of interface 0 in slot 0; its next entry has these fields. -/
def queue0 : QSlot := ⟨0, 0, 0x5000, 16, 0, 0, 1, 0⟩
def sQueue (s : State) (opc fl a0 a1 a2 addr value : Nat) : State :=
  { sRegion s with
    mem := (sRegion s).mem.putBytes 0x5000 ([BitVec.ofNat 8 opc, BitVec.ofNat 8 fl] ++ leBytes 6 0 ++ leBytes 8 a0 ++ leBytes 8 a1 ++
      leBytes 8 a2 ++ leBytes 8 addr ++ leBytes 8 value)
    queues := [(0, queue0)]
    issuer := .queue 0 }
def sig0 : SignalRef := ⟨0x6000, 9⟩
def sQ (opc a0 a1 a2 : Nat) : State := sQueue s0 opc 0 a0 a1 a2 0x6000 9

theorem met_complete (o : Obligations.CommandsAndRecords) : (s0.complete sig0 7 1 true 5).mem.num (0x6000 + 4) 4 = 5 :=
  (o.1 s0 sig0 7 1 5 true (by decide +kernel) (by decide) (by decide) (by decide) (by decide) (by decide) (by decide +kernel) (.inl (by decide +kernel))).2.1

/-- QueueTurn as one check. -/
def turnB (s : State) (i : Nat) (q : QSlot) (opc fl a0 a1 a2 : Nat) (sg : SignalRef) : Bool :=
  let a := q.base + 64 * (q.rdidx % q.size)
  decide (s.issuer = .queue i) && decide (assocFind s.queues i = some q) && s.isNextQueue i q && s.numAt a 1 == opc &&
    s.numAt (a + 1) 1 == fl && decide (fl < 2 ∨ (fl < 4 ∧ opc = 4)) && ((List.range 6).all fun k => s.physByte (a + 2 + k) == 0) &&
    ((List.range 16).all fun k => s.physByte (a + 0x30 + k) == 0) && s.numAt (a + 8) 8 == a0 && s.numAt (a + 0x10) 8 == a1 &&
    s.numAt (a + 0x18) 8 == a2 && s.numAt (a + 0x20) 8 == sg.addr && s.numAt (a + 0x28) 8 == sg.value.toNat
theorem turn_of {s : State} {i : Nat} {q : QSlot} {opc fl a0 a1 a2 : Nat} {sg : SignalRef}
    (h : turnB s i q opc fl a0 a1 a2 sg = true) : QueueTurn s i q opc fl a0 a1 a2 sg := by
  simp only [turnB, Bool.and_eq_true, decide_eq_true_eq, beq_iff_eq, List.all_eq_true, List.mem_range] at h
  obtain ⟨⟨⟨⟨⟨⟨⟨⟨⟨⟨⟨⟨h1, h2⟩, h3⟩, h4⟩, h5⟩, h6⟩, h7⟩, h8⟩, h9⟩, h10⟩, h11⟩, h12⟩, h13⟩ := h
  exact ⟨h1, h2, h3, h4, h5, h6, h7, h8, h9, h10, h11, h12, h13⟩

theorem turn3 : QueueTurn (sQ 3 0 0 0) 0 queue0 3 0 0 0 0 sig0 := turn_of (by decide +kernel)
theorem met_signal (o : Obligations.CommandsAndRecords) : Completes .signal (sQ 3 0 0 0) := ⟨_, o.2.1 _ _ _ _ _ _ _ _ turn3⟩
theorem turn14 : QueueTurn (sQ 14 0 0 0) 0 queue0 14 0 0 0 0 sig0 := turn_of (by decide +kernel)
theorem met_unknown_command (o : Obligations.CommandsAndRecords) : Completes .signal (sQ 14 0 0 0) :=
  ⟨_, o.2.2.1 _ _ _ _ _ _ _ _ _ turn14 (.inr (by decide))⟩
theorem turn2 : QueueTurn (sQ 2 0x6000 5 0) 0 queue0 2 0 0x6000 5 0 sig0 := turn_of (by decide +kernel)
theorem met_wait (o : Obligations.CommandsAndRecords) : Completes .wait (sQ 2 0x6000 5 0) :=
  ⟨_, o.2.2.2.1 _ _ _ _ _ _ _ _ turn2 (by decide +kernel)⟩
/-- A command of queue 0 has started. -/
def sCmd (opc a0 a1 : Nat) : State := { s0 with issuer := .host 0, cmds := [⟨0, 0, 0, opc, a0, a1, 0, sig0⟩] }
theorem met_wait_satisfied (o : Obligations.CommandsAndRecords) : Completes .waitSatisfied (sCmd 2 0x6000 0) :=
  ⟨_, o.2.2.2.2.1 (sCmd 2 0x6000 0) 0 _ rfl (Option.some_get (by decide +kernel)).symm⟩
theorem turn13 : QueueTurn (sQ 13 50 0 0) 0 queue0 13 0 50 0 0 sig0 := turn_of (by decide +kernel)
theorem met_quantum (o : Obligations.CommandsAndRecords) : Completes .quantum (sQ 13 50 0 0) := ⟨_, o.2.2.2.2.2.1 _ _ _ _ _ _ _ _ turn13⟩
theorem turn12 : QueueTurn (sQ 12 0x7000 4 0) 0 queue0 12 0 0x7000 4 0 sig0 := turn_of (by decide +kernel)
theorem met_faultq (o : Obligations.CommandsAndRecords) : Completes .faultq (sQ 12 0x7000 4 0) :=
  ⟨_, o.2.2.2.2.2.2.1 _ _ _ _ _ _ _ _ 2 turn12 (by decide) (.inl (by decide +kernel))⟩
theorem turn9 : QueueTurn (sQ 9 1 0 4096) 0 queue0 9 0 1 0 4096 sig0 := turn_of (by decide +kernel)
theorem met_resume (o : Obligations.CommandsAndRecords) : Completes .resume (sQ 9 1 0 4096) := ⟨_, o.2.2.2.2.2.2.2 _ _ _ _ _ _ _ _ turn9⟩

theorem turn6 : QueueTurn (sQ 6 0x8000 0 0) 0 queue0 6 0 0x8000 0 0 sig0 := turn_of (by decide +kernel)
theorem met_rcbsync (o : Obligations.RegionAndCodeCommands) : Completes .rcbsync (sQ 6 0x8000 0 0) := ⟨_, o.1.1 _ _ _ _ _ _ _ _ turn6⟩
theorem turn8 : QueueTurn (sQ 8 0x8000 0x100000 0x1000) 0 queue0 8 0 0x8000 0x100000 0x1000 sig0 := turn_of (by decide +kernel)
theorem met_pool (o : Obligations.RegionAndCodeCommands) : Completes .pool (sQ 8 0x8000 0x100000 0x1000) :=
  ⟨_, o.1.2.1 _ _ _ _ _ _ _ _ _ turn8 (Option.some_get (by decide +kernel)).symm (by decide) (by decide) (by decide +kernel)⟩
theorem turn8b : QueueTurn (sQ 8 0x8200 0x100000 0x1000) 0 queue0 8 0 0x8200 0x100000 0x1000 sig0 := turn_of (by decide +kernel)
theorem met_pool_badrcb (o : Obligations.RegionAndCodeCommands) : Completes .pool (sQ 8 0x8200 0x100000 0x1000) :=
  ⟨_, o.1.2.2.1 _ _ _ _ _ _ _ _ turn8b (by decide +kernel)⟩
theorem turn7 (asid : Nat) (h : asid = 1 ∨ asid = 7) : QueueTurn (sQ 7 asid 0x20000 0) 0 queue0 7 0 asid 0x20000 0 sig0 := by
  rcases h with h | h <;> subst h <;> exact turn_of (by decide +kernel)
theorem met_asidset_badrcb (o : Obligations.RegionAndCodeCommands) : Completes .asidset (sQ 7 7 0x20000 0) :=
  ⟨_, (o.1.2.2.2.1 _ _ _ _ _ _ _ _ (turn7 7 (.inr rfl))).1 (by decide +kernel)⟩
theorem met_asidset (o : Obligations.RegionAndCodeCommands) : Completes .asidset (sQ 7 1 0x20000 0) :=
  ⟨_, ((o.1.2.2.2.1 _ _ _ _ _ _ _ _ (turn7 1 (.inl rfl))).2 (by decide +kernel) (by decide) (by decide +kernel)).1 (by decide +kernel)⟩
/-- A store of the group is outstanding through a cached translation, so that a TLBI of its address space waits. -/
def sHeld : State :=
  { sQueue (sOps [store1]) 7 0 1 0x20000 0 0x6000 9 with tlb := [⟨.core 0, 1, false, 0x20000, 4096, 0x2005F, 0x4100⟩] }
theorem turn7c : QueueTurn sHeld 0 queue0 7 0 1 0x20000 0 sig0 := turn_of (by decide +kernel)
theorem met_asidset_starts (o : Obligations.RegionAndCodeCommands) : Completes .asidset sHeld :=
  ⟨_, ((o.1.2.2.2.1 _ _ _ _ _ _ _ _ turn7c).2 (by decide +kernel) (by decide) (by decide +kernel)).2 (by decide +kernel)⟩
theorem met_asidset_ends (o : Obligations.RegionAndCodeCommands) : Completes .asidset (sCmd 7 1 0x20000) :=
  ⟨_, o.1.2.2.2.2.1 (sCmd 7 1 0x20000) 0 _ rfl (Option.some_get (by decide +kernel)).symm⟩

theorem turn4 (asid : Nat) (h : asid = 1 ∨ asid = 7) : QueueTurn (sQ 4 0x9000 256 asid) 0 queue0 4 0 0x9000 256 asid sig0 := by
  rcases h with h | h <;> subst h <;> exact turn_of (by decide +kernel)
theorem eta3 {α β γ : Type} (x : α × β × γ) : x = (x.1, x.2.1, x.2.2) := rfl
theorem met_load_badrcb (o : Obligations.RegionAndCodeCommands) : Completes .load (sQ 4 0x9000 256 7) :=
  ⟨_, (o.2.1 _ _ _ _ _ _ _ _ (turn4 7 (.inr rfl))).1 (by decide +kernel)⟩
theorem met_load_object (o : Obligations.RegionAndCodeCommands) : Completes .load (sQ 4 0x9000 256 1) :=
  ⟨_, (o.2.1 _ _ _ _ _ _ _ _ (turn4 1 (.inl rfl))).2 (by decide +kernel) (.inl (by decide +kernel)) _ _ _ (eta3 _)⟩

def kernel0 : Kernel := ⟨[], 0x10000, none, 5, 16, 16, 0, 0, 0⟩
/-- An object with one kernel, loaded under handle 5 for interface 0 and ASID 1. -/
def code0 : CodeObj where
  handle := 5
  vif := 0
  asid := 1
  base := 0x10000
  appol := false
  needc := 0x7E
  bytes := []
  deferred := false
  kernels := [kernel0]
  symbols := []
  links := []
  uses := []
  linkBase := 0
  ranges := []
  bound := []
  translations := []
def sCode (used : Bool) (s : State) : State :=
  { s.modLaunch 0 fun l => { l with codeh := if used then 5 else 0 } with codes := [code0] }
def sUnload (used : Bool) : State := sQueue (sCode used s0) 5 0 5 0 0 0x6000 9
theorem turn5 (used : Bool) : QueueTurn (sUnload used) 0 queue0 5 0 5 0 0 sig0 := by cases used <;> exact turn_of (by decide +kernel)
theorem turn5n : QueueTurn (sQ 5 5 0 0) 0 queue0 5 0 5 0 0 sig0 := turn_of (by decide +kernel)
theorem met_unload_none (o : Obligations.RegionAndCodeCommands) : Completes .unload (sQ 5 5 0 0) :=
  ⟨_, (o.2.2.2.1 _ _ _ _ _ _ _ _ turn5n).1 (by decide +kernel)⟩
theorem met_unload (o : Obligations.RegionAndCodeCommands) : Completes .unload (sUnload false) :=
  ⟨_, (o.2.2.2.1 _ _ _ _ _ _ _ _ (turn5 false)).2.1 0 (by decide +kernel) (by decide +kernel)⟩
theorem met_unload_starts (o : Obligations.RegionAndCodeCommands) : Completes .unload (sUnload true) :=
  ⟨_, (o.2.2.2.1 _ _ _ _ _ _ _ _ (turn5 true)).2.2 0 (by decide +kernel) (by decide +kernel)⟩
def sUnloading : State := sCode false (sCmd 5 5 0)
theorem met_unload_ends (o : Obligations.RegionAndCodeCommands) : Completes .unload sUnloading :=
  ⟨_, o.2.2.2.2 sUnloading 0 _ 0 rfl (Option.some_get (by decide +kernel)).symm (by decide +kernel)⟩

/-! Launches -/

/-- A LAUNCH of one block of one group of the kernel, its parameter block at 0x9000. -/
def sLaunch (codeh : Nat) : State :=
  let s := sQueue (sCode false s0) 1 0 0x9000 0 0 0x6000 9
  { s with
    mem := s.mem.putBytes 0x9000 (leBytes 2 codeh ++ leBytes 6 0 ++ leBytes 2 1 ++ leBytes 2 1 ++ leBytes 1 1 ++ leBytes 1 1 ++ leBytes 26 0 ++
      leBytes 8 0x8000 ++ leBytes 8 0x6000) }
theorem turn1 (k : Nat) (h : k = 5 ∨ k = 6) : QueueTurn (sLaunch k) 0 queue0 1 0 0x9000 0 0 sig0 := by
  rcases h with h | h <;> subst h <;> exact turn_of (by decide +kernel)
theorem launch0_ok : ∃ x, ((sLaunch 5).entryRead 0 queue0).checkLaunch queue0 0x9000 ((sLaunch 5).physBytes (span 0x9000 256)) = .inr x ∧
    (fun _ : State × Launch × List Rcb => true) x = true := right_of _ _ (by decide +kernel)
theorem met_launch (o : Obligations.Launches) : Completes .launch (sLaunch 5) :=
  have ⟨⟨_, _, _⟩, e, _⟩ := launch0_ok
  have ⟨_, h, _⟩ := o.1.1 _ _ _ _ _ _ _ _ _ _ _ (turn1 5 (.inl rfl)) (by decide) (.inl (by decide +kernel)) e
  ⟨_, h⟩
theorem met_launch_refused (o : Obligations.Launches) : Completes .launch (sLaunch 6) :=
  ⟨_, (o.1.2.1 _ _ _ _ _ _ _ _ 7 (turn1 6 (.inr rfl)) (by decide) (.inl (by decide +kernel)) (by decide +kernel)).1 (by decide +kernel)⟩
/-- The RCB that the block names is no launch region. -/
def sNoRegion : State := { sLaunch 5 with mem := (sLaunch 5).mem.putNum 0x9028 8 0x8200 }
theorem turn1n : QueueTurn sNoRegion 0 queue0 1 0 0x9000 0 0 sig0 := turn_of (by decide +kernel)
theorem met_launch_no_region (o : Obligations.Launches) : Completes .launch sNoRegion :=
  ⟨_, (o.1.2.1 _ _ _ _ _ _ _ _ 4 turn1n (by decide) (.inl (by decide +kernel)) (by decide +kernel)).2 (by decide +kernel)⟩
def sLid (f : Launch → Launch) (place : Place) : State :=
  { (s0.modLaunch 0 f).modBlock 0 fun b => { b with place := place } with issuer := .launch 0 }
def sTimed : State := sLid (fun l => { l with st := .timed }) .resident
theorem met_timed_start (o : Obligations.Launches) : Completes .timedLaunchStart sTimed :=
  ⟨_, o.1.2.2.1 sTimed 0 _ rfl (Option.some_get (by decide +kernel)).symm (by decide +kernel)⟩
def sDone : State := sLid id .exited
theorem met_launch_complete (o : Obligations.Launches) : Completes .launchComplete sDone :=
  have ⟨_, _, h, _⟩ := o.1.2.2.2 sDone 0 _ sDone rfl (Option.some_get (by decide +kernel)).symm (by decide +kernel) rfl
  ⟨_, h⟩

/-! Parameter blocks that are refused: the block of `sLaunch 5` with other bytes from offset o on. -/

def sChecks : State := sRegion (sCode false s0)
def lpb0 : List Byte :=
  leBytes 2 5 ++ leBytes 6 0 ++ leBytes 2 1 ++ leBytes 2 1 ++ leBytes 1 1 ++ leBytes 1 1 ++ leBytes 26 0 ++ leBytes 8 0x8000 ++ leBytes 208 0
def lpbWith (o : Nat) (v : List Byte) : List Byte := lpb0.take o ++ v ++ lpb0.drop (o + v.length)
def lpbStatus (o : Nat) (v : List Byte) : Option Nat := (sChecks.checkLaunch queue0 0x9000 (lpbWith o v)).getLeft?
theorem status_of {o : Nat} {v : List Byte} {n : Nat} (h : sChecks.checkLaunch queue0 0x9000 (lpbWith o v) = .inl n) :
    lpbStatus o v = some n := by rw [lpbStatus, h]; rfl

theorem met_lpb_no_region (o : Obligations.Launches) : lpbStatus 0x28 (leBytes 8 0x8200) = some 4 :=
  status_of ((o.2 sChecks queue0 0x9000 (lpbWith 0x28 (leBytes 8 0x8200)) (by decide +kernel)).1 (by decide +kernel))

/-- The effective values of the launch region. -/
def eff0 (s : State) : Option EffRcb := (s.launchPath 0 0x8000).bind effPath
theorem path_of {s : State} {e : EffRcb} (h : eff0 s = some e) {rcb : Nat} (hr : rcb = 0x8000) :
    ∃ path, s.launchPath queue0.vif rcb = some path ∧ effPath path = some e := by
  subst hr; exact Option.bind_eq_some_iff.mp h
def effHere : EffRcb := ⟨15, 0, 256, 12288, 1024, 16, 1610612736, 65536, 274877906944, 1073741824, 1⟩
theorem eff_here : eff0 sChecks = some effHere := by decide +kernel
theorem asid_here : effHere.asid = 1 := rfl

theorem met_lpb_no_code (o : Obligations.Launches) : lpbStatus 0 (leBytes 2 6) = some 7 :=
  have ⟨_, h, e⟩ := path_of eff_here (by decide +kernel)
  status_of (((o.2 sChecks queue0 0x9000 (lpbWith 0 (leBytes 2 6)) (by decide +kernel)).2 _ _ h e).1 (by decide +kernel))

/-- The parameter block names the region, and the object. -/
structure NamesCode (bs : List Byte) : Prop where
  length : bs.length = 256
  code : leNat ((bs.drop 0).take 2) = 5
  region : leNat ((bs.drop 0x28).take 8) = 0x8000
theorem code_found {bs : List Byte} (h : NamesCode bs) {s : State} (hs : s.codes = [code0]) {e : EffRcb} (he : e.asid = 1) :
    s.codes.findIdx? (fun c => c.asid = e.asid && c.handle = leNat ((bs.drop 0).take 2)) = some 0 := by
  rw [hs, h.code, he]; decide
theorem met_lpb_no_kernel (o : Obligations.Launches) : lpbStatus 4 (leBytes 4 1) = some 7 :=
  have n : NamesCode (lpbWith 4 (leBytes 4 1)) := ⟨by decide +kernel, by decide +kernel, by decide +kernel⟩
  have ⟨_, h, e⟩ := path_of eff_here n.region
  status_of ((((o.2 sChecks queue0 0x9000 _ n.length).2 _ _ h e).2 code0 0 (code_found n rfl asid_here) rfl).1 (by decide +kernel))

/-- The checks of a parameter block that names the kernel. -/
theorem kernel_checks (o : Obligations.Launches) (s : State) (e : EffRcb) (bs : List Byte) (n : NamesCode bs)
    (hk : leNat ((bs.drop 4).take 4) = 0) (he : eff0 s = some e) (ha : e.asid = 1) (hs : s.codes = [code0]) :
    KernelChecks s bs code0 kernel0 e (s.checkLaunch queue0 0x9000 bs) :=
  have ⟨_, h, e⟩ := path_of he n.region
  (((o.2 s queue0 0x9000 bs n.length).2 _ _ h e).2 code0 0 (code_found n hs ha) (by rw [hs]; rfl)).2 kernel0 (show code0.kernels[leNat ((bs.drop 4).take 4)]? = some kernel0 by rw [hk]; rfl) rfl
theorem checks_here (o : Obligations.Launches) (a : Nat) (v : List Byte)
    (n : (lpbWith a v).length = 256 ∧ leNat (((lpbWith a v).drop 0).take 2) = 5 ∧ leNat (((lpbWith a v).drop 0x28).take 8) = 0x8000 ∧
      leNat (((lpbWith a v).drop 4).take 4) = 0) :
    KernelChecks sChecks (lpbWith a v) code0 kernel0 effHere (sChecks.checkLaunch queue0 0x9000 (lpbWith a v)) :=
  kernel_checks o sChecks effHere _ ⟨n.1, n.2.1, n.2.2.1⟩ n.2.2.2 eff_here asid_here rfl

/-- Nothing is set from offset 0x60 on. -/
theorem zeros_of {bs : List Byte} (h : ((bs.drop 0x60).all fun b => b == 0) = true) : ∀ o b, 0x60 ≤ o → bs[o]? = some b → b = 0 := by
  intro o b ho hb
  have : (bs.drop 0x60)[o - 0x60]? = some b := by rw [List.getElem?_drop, Nat.add_sub_cancel' ho]; exact hb
  exact eq_of_beq (List.all_eq_true.mp h b (List.mem_of_getElem? this))

theorem met_lpb_asks (o : Obligations.Launches) : lpbStatus 0x12 [7] = some 2 :=
  status_of ((checks_here o 0x12 [7] (by decide +kernel)).1 (by unfold AsksOk; decide +kernel))
theorem met_lpb_contract (o : Obligations.Launches) : lpbStatus 0x10 [7] = some 1 :=
  status_of ((checks_here o 0x10 [7] (by decide +kernel)).2.1 (by unfold AsksOk; decide +kernel) (by decide +kernel))
theorem met_lpb_shape (o : Obligations.Launches) : lpbStatus 8 (leBytes 2 0) = some 2 :=
  status_of ((checks_here o 8 (leBytes 2 0) (by decide +kernel)).2.2.1
    (by unfold AsksOk; decide +kernel) (by decide +kernel) fun h => absurd h.2.2.1 (by decide +kernel))
theorem met_lpb_traversal (o : Obligations.Launches) : lpbStatus 0xE [4] = some 3 :=
  status_of ((checks_here o 0xE [4] (by decide +kernel)).2.2.2.1
    (by unfold AsksOk; decide +kernel) (by decide +kernel)
    ⟨by decide +kernel, zeros_of (by decide +kernel), by decide +kernel⟩ (by decide +kernel))
/-- Every core is retired. -/
def sRetired : State := { sChecks with cretire := BitVec.allOnes 256 }
theorem eff_retired : eff0 sRetired = some effHere := by decide +kernel
theorem codes_retired : sRetired.codes = [code0] := rfl
theorem met_lpb_no_fit (o : Obligations.Launches) : sRetired.checkLaunch queue0 0x9000 (lpbWith 0 []) = .inl 5 :=
  (kernel_checks o sRetired effHere (lpbWith 0 []) ⟨by decide +kernel, by decide +kernel, by decide +kernel⟩ (by decide +kernel)
    eff_retired asid_here codes_retired).2.2.2.2.1
    (by unfold AsksOk; decide +kernel) (by decide +kernel)
    ⟨by decide +kernel, zeros_of (by decide +kernel), by decide +kernel⟩ (by decide +kernel) (by decide +kernel)
def bigGrid : List Byte := leBytes 2 60000 ++ leBytes 2 30000 ++ [1, 1, 0, 0, 0, 2]
theorem met_lpb_no_ballast (o : Obligations.Launches) : lpbStatus 8 bigGrid = some 6 :=
  status_of ((checks_here o 8 bigGrid (by decide +kernel)).2.2.2.2.2 (by unfold AsksOk; decide +kernel) (by decide +kernel)
    ⟨by decide +kernel, zeros_of (by decide +kernel), by decide +kernel⟩ (by decide +kernel) (by decide +kernel) (by decide +kernel) (by decide +kernel))

/-! Communicators -/

/-- A descriptor of two ranks at 0x9000, its list of members at 0x9100. -/
def sCreate : State :=
  let s := sQ 10 0x9000 0 0
  { s with mem := s.mem.putBytes 0x9000 (leBytes 2 2 ++ leBytes 2 0 ++ leBytes 1 0x7E ++ leBytes 3 0 ++ leBytes 8 0x9100 ++ leBytes 4 7) }
theorem turn10 : QueueTurn sCreate 0 queue0 10 0 0x9000 0 0 sig0 := turn_of (by decide +kernel)
theorem met_commcreate (o : Obligations.Communicators) : Completes .commcreate sCreate :=
  ⟨_, by
    have h := o.1 sCreate 0 queue0 0 0x9000 0 0 sig0 0 turn10
    iterate 11 replace h := h (by decide +kernel)
    exact h⟩
def sOpening : State := { s0 with comms := [{ comm0 [] with opening := true, live := false }], issuer := .comm 0 }
def answer1 : PeerAnswer := ⟨1, 0, 2, 0x7F, 1, [0, 1], 0x2A, true⟩
theorem met_setup_exchange (o : Obligations.Communicators) : Completes (.setupExchange [answer1]) sOpening :=
  have ⟨_, _, h, _⟩ := o.2.1 sOpening 0 _ [answer1] 5 rfl (Option.some_get (by decide +kernel)).symm (by decide +kernel)
    (by decide +kernel) (by decide +kernel) (by decide +kernel) ⟨by decide, by decide, by decide +kernel, by decide +kernel⟩ (by
      rintro j ⟨_, h, _, ha⟩
      have : answer1.carries / 2 ^ j % 2 = 1 := ha answer1 (.head _)
      match j with
      | 0 | 1 | 2 | 3 | 4 | 5 => omega
      | 6 => exact absurd this (by decide)
      | j + 7 => omega)
  ⟨_, h⟩
theorem met_commcreate_timeout (o : Obligations.Communicators) : Completes .commcreateTimeout sOpening :=
  have ⟨_, _, h, _⟩ := o.2.2.1 sOpening 0 _ rfl (Option.some_get (by decide +kernel)).symm (by decide +kernel)
  ⟨_, h⟩
/-- COMMDESTROY of the communicator with these steps. -/
def sDestroy (l : List RedStep) : State := { sQ 11 0 0 0 with comms := [comm0 l] }
theorem turn11 : QueueTurn (sDestroy []) 0 queue0 11 0 0 0 0 sig0 := turn_of (by decide +kernel)
theorem turn11s : QueueTurn (sDestroy [step0]) 0 queue0 11 0 0 0 0 sig0 := turn_of (by decide +kernel)
theorem met_commdestroy (o : Obligations.Communicators) : Completes .commdestroy (sDestroy []) :=
  have ⟨_, _, h, _⟩ := (o.2.2.2.1 _ _ _ _ _ _ _ _ 0 _ turn11 (by decide +kernel) (Option.some_get (by decide +kernel)).symm).1
    (by decide +kernel)
  ⟨_, h⟩
theorem met_commdestroy_starts (o : Obligations.Communicators) : Completes .commdestroy (sDestroy [step0]) :=
  have ⟨_, _, h, _⟩ := (o.2.2.2.1 _ _ _ _ _ _ _ _ 0 _ turn11s (by decide +kernel) (Option.some_get (by decide +kernel)).symm).2
    (by decide +kernel)
  ⟨_, h⟩
def sDestroying : State := { sCmd 11 0 0 with comms := [{ comm0 [] with closing := true }] }
theorem met_commdestroy_ends (o : Obligations.Communicators) : Completes .commdestroy sDestroying :=
  have ⟨_, _, h, _⟩ := o.2.2.2.2 sDestroying 0 _ 0 _ rfl (Option.some_get (by decide +kernel)).symm (by decide +kernel)
    (Option.some_get (by decide +kernel)).symm
  ⟨_, h⟩

/-! Doorbells -/

/-- The host of interface 0 acts; queue 0 may have slot 0, and its descriptor lies at the table's start, 0x9000. -/
def sBell (mapped : Bool) : State :=
  { s0 with
    issuer := .host 0
    queues := if mapped then [(0, queue0)] else []
    vifs := s0.vifs.map fun v => { v with qtbase := 0x9000 }
    mem := s0.mem.putBytes 0x9000 (leBytes 8 0x5000 ++ leBytes 4 16 ++ leBytes 1 0 ++ leBytes 1 1 ++ leBytes 2 0) }
theorem met_doorbell (o : Obligations.Doorbells) : Completes (.doorbell 0 1) (sBell true) :=
  ⟨_, (o.1 (sBell true) 0 0 1 0 queue0 rfl rfl (by decide) (by decide) (by decide +kernel) (by decide +kernel) (by decide +kernel) rfl).1
    (by decide) (by decide)⟩
theorem met_doorbell_too_far (o : Obligations.Doorbells) : Completes (.doorbell 0 17) (sBell true) :=
  have ⟨_, _, h, _⟩ := (o.1 (sBell true) 0 0 17 0 queue0 rfl rfl (by decide) (by decide) (by decide +kernel) (by decide +kernel)
    (by decide +kernel) rfl).2 (.inl (by decide))
  ⟨_, h⟩
theorem met_doorbell_maps (o : Obligations.Doorbells) : Completes (.doorbell 0 1) (sBell false) :=
  ⟨_, o.2.1 (sBell false) 0 0 1 0 _ rfl rfl (by decide) (by decide) (by decide +kernel) (by decide +kernel) rfl
    (Option.some_get (by decide +kernel)).symm rfl (by decide +kernel) (by decide +kernel)⟩
def sIdle : State := { s0 with issuer := .queue 0, queues := [(0, { queue0 with wridx := 0 })], time := 256000 }
theorem met_idle_unmap (o : Obligations.Doorbells) : Completes .queueIdleUnmap sIdle :=
  ⟨_, o.2.2 sIdle 0 _ rfl (Option.some_get (by decide +kernel)).symm (by decide +kernel) (by decide +kernel) rfl rfl⟩

/-! The host, management and power -/

def sHost (apctl : DWord) (l : List Launch) : State :=
  { s0 with
    issuer := .host 0
    launches := l
    vifs := s0.vifs.map fun v => { v with apctl := apctl }
    mem := s0.mem.putNum 0x4100 8 0x200DF }
theorem host_at (apctl : DWord) (l : List Launch) (h : (sHost apctl l).vifs[0]?.isSome = true) :
    HostAccess (sHost apctl l) 0 ((sHost apctl l).vifs[0]?.get h) := ⟨rfl, rfl, (Option.some_get h).symm, by
      simp only [sHost, s0, issuing, List.map_cons, List.getElem?_cons_zero] at h ⊢
      rfl, by
      simp only [sHost, s0, issuing, List.map_cons, List.getElem?_cons_zero] at h ⊢
      rfl⟩
theorem host0 : ∃ w, HostAccess (sHost 0x101 []) 0 w := ⟨_, host_at 0x101 [] (by decide +kernel)⟩
theorem met_vistat (o : Obligations.HostAccesses) : Completes (.vistatWrite 7) (sHost 0x101 []) :=
  have ⟨_, h⟩ := host0
  ⟨_, (o.1 _ _ _ h).1 7⟩
theorem met_register_apva (o : Obligations.HostAccesses) : Completes (.viRegisterWrite 0x2C 4 1) (sHost 0x101 []) :=
  have ⟨_, h⟩ := host0
  ⟨_, ((o.1 _ _ _ h).2.1 4 1 (by decide) (by decide)).1 4 (by decide)⟩
theorem met_register_apctl (o : Obligations.HostAccesses) : Completes (.viRegisterWrite 0x20 8 1) (sHost 0x101 []) :=
  have ⟨_, h⟩ := host0
  ⟨_, ((o.1 _ _ _ h).2.1 8 1 (by decide) (by decide)).2.1 0 (by decide)⟩
theorem met_register_read_only (o : Obligations.HostAccesses) : Completes (.viRegisterWrite 0x20000 4 1) (sHost 0x101 []) :=
  have ⟨_, h⟩ := host0
  ⟨_, ((o.1 _ _ _ h).2.1 4 1 (by decide) (by decide)).2.2 0x20000 (by decide)⟩
theorem met_vireset_idle (o : Obligations.HostAccesses) : Completes (.vireset 1) (sHost 0x101 []) :=
  have ⟨_, h⟩ := host0
  ⟨_, (o.1 _ _ _ h).2.2.1 (fun _ _ h => nomatch h)⟩
/-- Interface 0 has this launch alone. -/
theorem host_one (l : Launch) (h : (sHost 0x101 [l]).vifs[0]?.isSome = true) (v : l.vif = 0) (o : Obligations.HostAccesses) :
    ((sHost 0x101 [l]).atCompletion 0 l = true → l.snap = true → l.replayable = true → Completes (.vireset 1) (sHost 0x101 [l])) ∧
    ((sHost 0x101 [l]).atCompletion 0 l = false → l.live = true → Completes (.vireset 1) (sHost 0x101 [l])) := by
  have k := (o.1 _ _ _ (host_at 0x101 [l] h)).2.2.2.1 0 l rfl v (fun j m e _ => by
    match j with
    | 0 => rfl
    | j + 1 => cases e)
  refine ⟨fun a b c => have ⟨_, _, h, _⟩ := k.1 a b c; ⟨_, h⟩, fun a b => ?_⟩
  by_cases q : l.snap = false ∨ l.replayable = false ∨ l.retry ≤ l.replays
  · exact ⟨_, (k.2 a b).1 q⟩
  · simp only [not_or, Bool.not_eq_false, Nat.not_le] at q
    exact ⟨_, (k.2 a b).2 q.1 q.2.1 q.2.2⟩
theorem met_vireset_kills (o : Obligations.HostAccesses) : Completes (.vireset 1) (sHost 0x101 [placedLaunch]) :=
  (host_one placedLaunch (by decide +kernel) rfl o).2 (by decide +kernel) rfl
def replayLaunch (st : LaunchSt) : Launch := { placedLaunch with snap := true, replayable := true, retry := 2, st := st }
theorem met_vireset_rolls_back (o : Obligations.HostAccesses) : Completes (.vireset 1) (sHost 0x101 [replayLaunch .running]) :=
  (host_one _ (by decide +kernel) rfl o).2 (by decide +kernel) rfl
theorem met_vireset_completed (o : Obligations.HostAccesses) : Completes (.vireset 1) (sHost 0x101 [replayLaunch .completed]) :=
  (host_one _ (by decide +kernel) rfl o).1 (by decide +kernel) rfl rfl
theorem met_vireset_other (o : Obligations.HostAccesses) : Completes (.vireset 2) (sHost 0x101 []) :=
  have ⟨_, h⟩ := host0
  ⟨_, (o.1 _ _ _ h).2.2.2.2.2.2.1 2 (by decide)⟩
theorem met_kill_completed (o : Obligations.HostAccesses) :
    (sHost 0x101 [replayLaunch .completed]).killOne 0 0 = (sHost 0x101 [replayLaunch .completed]).noReplay 0 :=
  have ⟨_, h⟩ := host0
  ((o.1 _ _ _ h).2.2.2.2.2.1 (sHost 0x101 [replayLaunch .completed]) 0 _ rfl).1 (by decide +kernel)
theorem met_kill_ended (o : Obligations.HostAccesses) :
    (sHost 0x101 [{ placedLaunch with st := .killed }]).killOne 0 0 = sHost 0x101 [{ placedLaunch with st := .killed }] :=
  have ⟨_, h⟩ := host0
  ((o.1 _ _ _ h).2.2.2.2.2.1 (sHost 0x101 [{ placedLaunch with st := .killed }]) 0 _ rfl).2.1 (by decide +kernel) (by decide +kernel)
theorem met_kill_live (o : Obligations.HostAccesses) :
    (sHost 0x101 [placedLaunch]).killOne 0 0 = (sHost 0x101 [placedLaunch]).endKilled 0 placedLaunch 0 :=
  have ⟨_, h⟩ := host0
  ((o.1 _ _ _ h).2.2.2.2.2.1 (sHost 0x101 [placedLaunch]) 0 _ rfl).2.2 (by decide +kernel) rfl
theorem met_qtbase (o : Obligations.HostAccesses) : Completes (.qtbaseWrite 0x9001) (sHost 0x101 []) :=
  have ⟨_, h⟩ := host0
  ⟨_, (o.1 _ _ _ h).2.2.2.2.2.2.2.1 0x9001 (by decide +kernel) rfl⟩
theorem met_register_read (o : Obligations.HostAccesses) : ∃ t, (sHost 0x101 []).hostRead 0 0x40 8 = t :=
  have ⟨_, h⟩ := host0
  ⟨_, (o.1 _ _ _ h).2.2.2.2.2.2.2.2.1 0x40 0 (List.mem_of_getElem? (i := 8) rfl)⟩
theorem met_capability_read (o : Obligations.HostAccesses) : ∃ t, (sHost 0x101 []).hostRead 0 0x10008 1 = t :=
  have ⟨_, h⟩ := host0
  ⟨_, (o.1 _ _ _ h).2.2.2.2.2.2.2.2.2.1 8 (by decide)⟩
theorem met_not_up (o : Obligations.HostAccesses) : Completes (.vireset 1) { sHost 0x101 [] with stage := 3 } :=
  have ⟨_, h⟩ := host0
  ⟨_, ((o.1 _ _ _ h).2.2.2.2.2.2.2.2.2.2.1 3 0 0 _ rfl (by decide)).2 1⟩
theorem met_link_down (o : Obligations.HostAccesses) : Completes (.vireset 1) { sHost 0x101 [] with stopped := true } :=
  have ⟨_, h⟩ := host0
  ⟨_, ((o.1 _ _ _ h).2.2.2.2.2.2.2.2.2.2.2 0 0 _ rfl).2 1⟩
theorem met_aperture_off (o : Obligations.HostAccesses) : Completes (.apertureAccess 0 (.read 4)) (sHost 1 []) :=
  ⟨_, (o.2.1 _ _ _ 0 (host_at 1 [] (by decide +kernel))).1 _ (by decide +kernel)⟩
theorem met_aperture_write_off (o : Obligations.HostAccesses) : Completes (.apertureAccess 0 (.write [1])) (sHost 1 []) :=
  ⟨_, (o.2.1 _ _ _ 0 (host_at 1 [] (by decide +kernel))).2.1 _ (by decide +kernel)⟩
def vif0 : Vif := (sHost 0x101 []).vifs[0]?.get (by decide +kernel)
theorem host_vif0 : HostAccess (sHost 0x101 []) 0 vif0 := host_at 0x101 [] _
/-- Where the aperture's access to ASID 1 at this offset leads. -/
def spanAt (need : Need) (off n : Nat) : SpanFault ⊕ Span :=
  (sHost 0x101 []).translateSpan ⟨vif0.apctl.toNat % 256, none, none, 256, 8, none⟩ need none false (vif0.apva.toNat + off) n
/-- The translations used have A and D set, the places are apart, and lie in one aligned unit as `one` says. -/
def cleanSpan (one : Bool) (x : Span) : Bool :=
  (x.uses.all fun u => u.leaf.all fun e => leafA e.1 && leafD e.1) && decide x.pas.Nodup &&
    decide ((∀ a ∈ x.pas, ∀ b ∈ x.pas, a / 4 = b / 4) ↔ one = true)
theorem clean_of {one : Bool} {x : Span} (h : cleanSpan one x = true) :
    (∀ u ∈ x.uses, ∀ e, u.leaf = some e → leafA e.1 = true ∧ leafD e.1 = true) ∧ x.pas.Nodup ∧ (OneUnit x.pas ↔ one = true) := by
  simp only [cleanSpan, Bool.and_eq_true, decide_eq_true_eq] at h
  exact ⟨dirty_of _ h.1.1, h.1.2, h.2⟩
theorem read_span : ∃ x, spanAt .load 0x20000 4 = .inr x ∧ cleanSpan true x = true := right_of (cleanSpan true) _ (by decide +kernel)
theorem read_span_wide : ∃ x, spanAt .load 0x20000 8 = .inr x ∧ cleanSpan false x = true := right_of (cleanSpan false) _ (by decide +kernel)
theorem write_span : ∃ x, spanAt .store 0x20000 4 = .inr x ∧ cleanSpan true x = true := right_of (cleanSpan true) _ (by decide +kernel)
theorem write_span_wide : ∃ x, spanAt .store 0x20000 8 = .inr x ∧ cleanSpan false x = true := right_of (cleanSpan false) _ (by decide +kernel)
theorem met_aperture_read (o : Obligations.HostAccesses) : Completes (.apertureAccess 0x20000 (.read 4)) (sHost 0x101 []) :=
  have ⟨x, e, p⟩ := read_span
  have ⟨u, _, one⟩ := clean_of p
  ⟨_, ((o.2.1 _ _ _ 0x20000 host_vif0).2.2.1 4 x (by decide +kernel) (by decide) e fun a h k hk => (u a h k hk).1).1 (one.mpr rfl) rfl⟩
theorem met_aperture_read_wide (o : Obligations.HostAccesses) : Completes (.apertureAccess 0x20000 (.read 8)) (sHost 0x101 []) :=
  have ⟨x, e, p⟩ := read_span_wide
  have ⟨u, _, one⟩ := clean_of p
  ⟨_, ((o.2.1 _ _ _ 0x20000 host_vif0).2.2.1 8 x (by decide +kernel) (by decide) e fun a h k hk => (u a h k hk).1).2
    fun h => nomatch one.mp h⟩
theorem met_aperture_fault (o : Obligations.HostAccesses) : Completes (.apertureAccess 0x40000 (.read 4)) (sHost 0x101 []) := by
  obtain ⟨x, e, _⟩ := left_of (fun _ => true) (spanAt .load 0x40000 4) (by decide +kernel)
  obtain ⟨_, _, h, _⟩ := (o.2.1 _ _ _ 0x40000 host_vif0).2.2.2.1 4 x (by decide +kernel) (by decide) e
  exact ⟨_, h⟩
theorem met_aperture_write (o : Obligations.HostAccesses) : Completes (.apertureAccess 0x20000 (.write [1, 2, 3, 4])) (sHost 0x101 []) :=
  have ⟨x, e, p⟩ := write_span
  have ⟨u, apart, one⟩ := clean_of p
  have ⟨_, h, _⟩ := ((o.2.1 _ _ _ 0x20000 host_vif0).2.2.2.2 [1, 2, 3, 4] x (by decide +kernel) (by decide) e u).1 (one.mpr rfl) rfl apart
    (by decide +kernel)
  ⟨_, h⟩
theorem met_aperture_write_wide (o : Obligations.HostAccesses) :
    Completes (.apertureAccess 0x20000 (.write [1, 2, 3, 4, 5, 6, 7, 8])) (sHost 0x101 []) :=
  have ⟨x, e, p⟩ := write_span_wide
  have ⟨u, _, one⟩ := clean_of p
  ⟨_, ((o.2.1 _ _ _ 0x20000 host_vif0).2.2.2.2 [1, 2, 3, 4, 5, 6, 7, 8] x (by decide +kernel) (by decide) e u).2 fun h => nomatch one.mp h⟩
/-- A request of interface 0 for eight bytes of the page is under way. -/
def work0 (data : Option (List Byte)) : ApertureWork := ⟨1, 0x20000, span 0x20000 8, data, []⟩
def sPieces (data : Option (List Byte)) : State := { s0 with
  issuer := .host 0
  vifs := s0.vifs.map fun v => { v with aperture := some (work0 data) } }
theorem met_aperture_reads_piece (o : Obligations.HostAccesses) : Completes (.apertureAccess 0 (.piece 0x20004)) (sPieces none) :=
  ⟨_, (o.2.2.1 (sPieces none) 0 _ (work0 none) 0x20004 rfl (Option.some_get (by decide +kernel)).symm (by decide +kernel) rfl).1 rfl⟩
theorem met_aperture_writes_piece (o : Obligations.HostAccesses) :
    Completes (.apertureAccess 0 (.piece 0x20004)) (sPieces (some (leBytes 8 7))) :=
  ⟨_, (o.2.2.1 (sPieces (some (leBytes 8 7))) 0 _ (work0 (some (leBytes 8 7))) 0x20004 rfl (Option.some_get (by decide +kernel)).symm
    (by decide +kernel) rfl).2 _ rfl⟩
theorem met_aperture_waits (o : Obligations.HostAccesses) : exec (.vistatWrite 7) (sPieces none) = .next (sPieces none) :=
  (o.2.2.2 (sPieces none) 0 _ (work0 none) rfl rfl (Option.some_get (by decide +kernel)).symm (by decide +kernel)).2.1 7

/-- The management owner acts. -/
def sOwner : State := sBy (.function (.physical s0.firmware.owner))
theorem met_power_limit (o : Obligations.ManagementRequests) : Completes (.setPowerLimit 600) sOwner :=
  ⟨_, (o.1.1 sOwner _ rfl rfl rfl (by decide +kernel)).1 600 (by decide) (by decide)⟩
theorem met_configuration (o : Obligations.ManagementRequests) : Completes (.firmwareConfiguration 63 1) sOwner :=
  ⟨_, (o.1.1 sOwner _ rfl rfl rfl (by decide +kernel)).2.1 63 1 (by decide) (by decide +kernel)⟩
theorem met_live_update (o : Obligations.ManagementRequests) : Completes (.liveUpdate 0 4) sOwner :=
  have ⟨_, h, _⟩ := (o.1.1 sOwner _ rfl rfl rfl (by decide +kernel)).2.2 0 4 (by decide +kernel)
  ⟨_, h⟩
theorem met_denied (o : Obligations.ManagementRequests) : Completes (.setPowerLimit 600) (sBy (.function (.virtual 3))) :=
  ⟨_, o.1.2 (sBy (.function (.virtual 3))) _ _ rfl rfl (by decide +kernel) (by decide) (.inl ⟨600, rfl⟩)⟩
/-- Physical function 0, and interface 0 on its port, with these keys. -/
def sKeys (l : List (Word × List Byte)) : State :=
  { sBy (.function (.physical 0)) with vifs := s0.vifs.map fun v => { v with port := 0, keys := l } }
def keys8 : List (Word × List Byte) := (List.range 8).map fun i => (BitVec.ofNat 32 (i + 1), [])
theorem met_enroll (o : Obligations.ManagementRequests) : Completes (.keyEnroll 0 9 [1]) (sKeys []) :=
  ⟨_, (o.2.1 (sKeys []) 0 0 _ 9 [1] rfl rfl (by decide +kernel) (Option.some_get (by decide +kernel)).symm (by decide +kernel)).1
    (by decide +kernel)⟩
theorem met_enroll_full (o : Obligations.ManagementRequests) : Completes (.keyEnroll 0 9 [1]) (sKeys keys8) :=
  ⟨_, (o.2.1 (sKeys keys8) 0 0 _ 9 [1] rfl rfl (by decide +kernel) (Option.some_get (by decide +kernel)).symm (by decide +kernel)).2.1
    (by decide +kernel)⟩
theorem met_key_remove (o : Obligations.ManagementRequests) : Completes (.keyRemove 0 8) (sKeys keys8) :=
  ⟨_, (o.2.1 (sKeys keys8) 0 0 _ 8 [1] rfl rfl (by decide +kernel) (Option.some_get (by decide +kernel)).symm (by decide +kernel)).2.2⟩
theorem met_telemetry (o : Obligations.ManagementRequests) : ∃ t, s0.readTelemetry 1 = t := ⟨_, o.2.2.1 s0 1 (by decide +kernel) rfl⟩
theorem met_measurements (o : Obligations.ManagementRequests) : Completes .getMeasurements (sBy (.function (.virtual 3))) :=
  ⟨_, (o.2.2.2.1 (sBy (.function (.virtual 3))) _ _ rfl (by decide +kernel) (.inl rfl) rfl).1⟩

/-- Both complexes hold a verified image, or neither does. -/
def sImages (ok : Bool) (x : Party) : State :=
  { s0 with
    issuer := x
    firmware := { s0.firmware with
      okA := ok
      okB := ok
      imageA := { s0.firmware.imageA with signed := ok }
      imageB := { s0.firmware.imageB with signed := ok } } }
/-- Neither complex is verified, and bring-up does not go on. -/
def sHalted : State := { sImages false (.function (.physical 1)) with stage := 1 }
theorem met_measurements_halted (o : Obligations.ManagementRequests) : Completes .vendorMeasurementBlock sHalted :=
  ⟨_, (o.2.2.2.1 sHalted _ _ rfl (by decide +kernel) (.inr ⟨⟨1, rfl⟩, rfl, rfl⟩) rfl).2⟩
theorem met_read_halted (o : Obligations.ManagementRequests) :
    sHalted.physicalRead 1 0x10000 4 = { sHalted with out := sHalted.out ++ [.unverified 1 [0, 0, 0, 0]] } :=
  o.2.2.2.2 sHalted 1 0x10000 4 (by decide +kernel) (by decide) rfl rfl (.inr (by decide))
theorem met_heartbeat (o : Obligations.DeviceLevelEvents) : Completes .heartbeatTimeout (sImages true .device) :=
  have ⟨_, h, _⟩ := (o.1 (sImages true .device) rfl).1 rfl (by decide +kernel)
  ⟨_, h⟩
theorem met_power_window (o : Obligations.DeviceLevelEvents) : Completes (.powerWindow 600) (sBy .device) :=
  ⟨_, (o.1 (sBy .device) rfl).2.1 600 (by decide +kernel)⟩
theorem met_throttle (o : Obligations.DeviceLevelEvents) : Completes (.thermalThrottle 105) (sBy .device) :=
  ⟨_, (o.1 (sBy .device) rfl).2.2.1 105 (by decide)⟩
theorem met_throttle_stops (o : Obligations.DeviceLevelEvents) : Completes (.thermalThrottle 115) (sBy .device) :=
  have ⟨_, h, _⟩ := (o.1 (sBy .device) rfl).2.2.2.1 115 _ (by decide) (.inl rfl)
  ⟨_, h⟩
theorem met_shutdown (o : Obligations.DeviceLevelEvents) : Completes (.thermalShutdown 115) (sBy .device) :=
  have ⟨_, h, _⟩ := (o.1 (sBy .device) rfl).2.2.2.1 115 _ (by decide) (.inr rfl)
  ⟨_, h⟩
theorem met_upset_register (o : Obligations.DeviceLevelEvents) :
    ∃ k, ((sBy .device).upset (.register g0 (.v 0 0))).group? g0 = some k :=
  have ⟨k, h, _⟩ := (o.1 (sBy .device) rfl).2.2.2.2.2.1 g0 _ (.v 0 0) (group_of (by decide +kernel))
  ⟨k, h⟩
theorem met_upset_tile (o : Obligations.DeviceLevelEvents) : ∃ b, ((sBy .device).upset (.tile 0 1 0)).block? 0 = some b :=
  have ⟨b, h, _⟩ := (o.1 (sBy .device) rfl).2.2.2.2.2.2.2.1 0 _ 1 0 (Option.some_get (by decide +kernel)).symm
  ⟨b, h⟩
theorem met_dram_scrub (o : Obligations.DeviceLevelEvents) : Completes (.dramRefreshScrub [(0x20, true)]) (sBy .device) :=
  ⟨_, (o.1 (sBy .device) rfl).2.2.2.2.2.2.2.2 0x20 true (by decide) (by decide +kernel)⟩
theorem met_sheet_scrub (o : Obligations.DeviceLevelEvents) : Completes (.sheetScrub [(0x8000BFFFF8, false)]) (sBy (.core 1)) :=
  ⟨_, o.2.1 (sBy (.core 1)) 1 0x8000BFFFF8 false rfl (by decide) (by decide) (by decide) (by decide +kernel)⟩
/-- The group's store to the page is held until its unit has been copied aside; the launch names this RCB. -/
def sUnit (rcb : Nat) : State :=
  { (sOps [store1]).modLaunch 0 fun l => { l with snap := true, replayable := true, rcb := rcb } with issuer := .launch 0 }
def unitChecks (s : State) : Bool :=
  s.unitHeld 0 0x20000 && s.isDram 0x20000 && s.mem.wf && (s.launches[0]?).any fun l => l.snap && l.replayable && l.units.isEmpty
theorem unit_met (o : Obligations.DeviceLevelEvents) (s : State) (l : Launch) (hi : s.issuer = .launch 0) (hl : s.launches[0]? = some l)
    (h : unitChecks s = true) : Completes (.snapshotUnitCopy 0x20000) s := by
  simp only [unitChecks, hl, Option.any_some, Bool.and_eq_true, List.isEmpty_iff] at h
  obtain ⟨⟨⟨a, b⟩, c⟩, ⟨d, e⟩, f⟩ := h
  have k := o.2.2.1 s 0 l 0x20000 hi hl (by decide) a d e b (by rw [f]; nofun) c
  cases q : s.ballastFits l.rcb 4096 with
  | false => exact have ⟨_, _, h, _⟩ := k.1 q; ⟨_, h⟩
  | true => exact have ⟨_, _, h, _⟩ := k.2 q; ⟨_, h⟩
theorem met_snapshot_copy (o : Obligations.DeviceLevelEvents) : Completes (.snapshotUnitCopy 0x20000) (sUnit 0x10000) :=
  unit_met o _ _ rfl (Option.some_get (by decide +kernel)).symm (by decide +kernel)
theorem met_snapshot_room : (sUnit 0x10000).ballastFits 0x10000 4096 = true := by decide +kernel
/-- The interface's node has no ballast left. -/
def sNoRoom : State := { sUnit 0x10000 with ballast := [⟨0x10000, 2 ^ 40, .snapshot 0⟩] }
theorem met_snapshot_no_room (o : Obligations.DeviceLevelEvents) : Completes (.snapshotUnitCopy 0x20000) sNoRoom :=
  unit_met o _ _ rfl (Option.some_get (by decide +kernel)).symm (by decide +kernel)
theorem met_snapshot_full : sNoRoom.ballastFits 0x10000 4096 = false := by decide +kernel
theorem met_power_on_reset (o : Obligations.DeviceLevelEvents) :
    ∃ t, exec .powerOnReset (sImages true .device) = .next t ∧ t.firmware.okA = true :=
  have ⟨t, h, hs⟩ := o.2.2.2.1 (sImages true .device) rfl
  ⟨t, h, hs.2.2.2.2.2.2.2.2.2.2.2.2.2.2.2.2.2.2.1.trans (by decide +kernel)⟩
theorem met_bring_up (o : Obligations.DeviceLevelEvents) : { sImages true .device with stage := 3 }.bringUp.stage = 4 := by
  rw [o.2.2.2.2 { sImages true .device with stage := 3 } (by decide) rfl]; decide +kernel
theorem met_bring_up_halted (o : Obligations.DeviceLevelEvents) : sHalted.bringUp = sHalted := by
  rw [o.2.2.2.2 sHalted (by decide) rfl]; rfl

/-! Barrier counts -/

def sArrive : State :=
  { sBars fun h => { h with pend := [op0 0 (some 0) (.arrive 1 3)] } with issuer := .group g0 }
theorem met_arrival (o : Obligations.BarrierCounts) : Completes (.accessPerform 0) sArrive :=
  have ⟨_, _, h, _⟩ := o.1 sArrive g0 _ _ (op0 0 (some 0) (.arrive 1 3)) 1 3 rfl (Option.some_get (by decide +kernel)).symm
    (Option.some_get (by decide +kernel)).symm (by decide +kernel) (by decide +kernel) rfl
  ⟨_, h⟩
theorem met_marrb_counts (o : Obligations.BarrierCounts) : Completes (.marrb ⟨1, 0⟩) q1 :=
  have ⟨_, _, h, _⟩ := o.2.1 q1 k1 ⟨1, 0⟩ sq1 (by decide +kernel) (by decide)
  ⟨_, h⟩
/-- A ganged part behind its last band, with an arrival at barrier 1. -/
def part1 : GangPart := { part0 true id with work := { (part0 true id).work with ready := true, mrp := 7, iword := (mma0 11).iword ||| 0x1000 } }
def sPart1 : State := q5 fun b => { b with parts := [part1] }
theorem met_part_counts (o : Obligations.BarrierCounts) : Completes .gangPartRun sPart1 :=
  have ⟨_, _, h, _⟩ := o.2.2.1 sPart1 0 _ _ part1 [] rfl (Option.some_get (by decide +kernel)).symm (Option.some_get (by decide +kernel)).symm
    rfl (by decide +kernel) (by decide +kernel) rfl rfl rfl (by decide)
  ⟨_, h⟩
def sLeaves : State := twoGroups (sBars id)
theorem met_exit_counts (o : Obligations.BarrierCounts) : Completes (.exit join0) sLeaves :=
  have ⟨_, _, h, _⟩ := o.2.2.2.1 join0 sLeaves (ctxAt sLeaves (by decide +kernel)) (quiet_at _ (by decide +kernel))
    (passes_of (by decide +kernel)) (by decide +kernel) (by decide +kernel) (by decide +kernel) (by decide +kernel) (by decide +kernel)
  ⟨_, h⟩
def bar0 : Barrier := (((sBars id).block? 0).get (by decide +kernel)).bars.headD ⟨0, 0, [], 0, 0⟩
theorem met_lag (o : Obligations.BarrierCounts) : (bar0.arrive 1 1 70000).lag .seqr = 65535 :=
  (o.2.2.2.2 bar0 1 1 70000 .seqr (by decide) (by decide +kernel) (by decide +kernel) (fun _ h => by cases h) (by decide +kernel)
    (by decide +kernel)).trans (by decide +kernel)

/-! The step -/

def sTurn (p : Party) (s : State) : State := { s with turn := [.issue p] }
theorem met_step_word (o : Obligations.StepRunsInstruction) : ∃ i t, step (sTurn (.slot g0 .a) s0) = tickResult (exec (decodeInstr i) t) :=
  ⟨_, _, (o (sTurn (.slot g0 .a) s0) [] (by decide +kernel)).1 g0 .a _ _ _ rfl (Option.some_get (by decide +kernel)).symm (by decide +kernel)
    (by decide +kernel) (.inl (by decide +kernel)) (Option.some_get (by decide +kernel)).symm (Option.some_get (by decide +kernel)).symm⟩
theorem met_step_wait_over (o : Obligations.StepRunsInstruction) :
    ∃ i t, step (sTurn (.slot g0 .a) (sWait (.block 0))) = tickResult (exec (decodeInstr i) t) :=
  ⟨_, _, (o (sTurn (.slot g0 .a) (sWait (.block 0))) [] (by decide +kernel)).1 g0 .a _ _ _ rfl (Option.some_get (by decide +kernel)).symm
    (by decide +kernel) (by decide +kernel) (.inr ⟨.block 0, by decide +kernel, by decide +kernel⟩) (Option.some_get (by decide +kernel)).symm
    (Option.some_get (by decide +kernel)).symm⟩
def sHead : State := sTurn (.slot g0 .a) (sHeader nop0 false)
theorem head_code : ∃ x, ({ sHead with turn := [] } : State).readCode (({ sHead with turn := [] } : State).whoGroup g0) 0x20000 1 = .inr x ∧
    (match x.1 with | [w] => isHeader w | _ => false) = true := right_of (fun x : List DWord × State => match x.1 with | [w] => isHeader w | _ => false) _ (by decide +kernel)
theorem met_step_header (o : Obligations.StepRunsInstruction) : ∃ w t, step sHead = tickResult (exec (decodeHeader w) t) := by
  obtain ⟨⟨ws, t⟩, e, p⟩ := head_code
  match ws, p with
  | [w], p =>
    exact ⟨_, _, (o sHead [] (by decide +kernel)).2.1 g0 .a (ctxAt (sHeader nop0 false) (by decide +kernel)) w [] t rfl (by decide +kernel)
      (by decide +kernel) (by decide +kernel) (.inl (by decide +kernel)) (by decide +kernel) (by decide +kernel) e p⟩
theorem met_step_event (o : Obligations.StepRunsInstruction) :
    ∃ t, step { s0 with turn := [.event .device (.powerWindow 5)] } = tickResult (exec (.powerWindow 5) t) :=
  ⟨_, (o { s0 with turn := [.event .device (.powerWindow 5)] } [] (by decide +kernel)).2.2.2.1 _ _ rfl rfl⟩
theorem met_step_host_store (o : Obligations.StepRunsInstruction) :
    ∃ t, step { s0 with turn := [.hostStore [(5, 6)]] } = .next t :=
  ⟨_, (o { s0 with turn := [.hostStore [(5, 6)]] } [] (by decide +kernel)).2.2.2.2.1 _ rfl⟩
def sStream : State := sTurn (.block 0) q1
def qS : Sequencer := (((sStream.block? 0).get (by decide +kernel)).seqr).get (by decide +kernel)
def sStreamRun : State := ({ sStream with turn := [] } : State).modBlock 0 fun b => { b with seqr := some { qS with st := .running } }
theorem stream_code : ∃ x, sStreamRun.readCode (({ sStream with turn := [] } : State).whoBlock 0) qS.pc.toNat 1 = .inr x ∧
    (!x.1.isEmpty) = true := right_of (fun x : List DWord × State => !x.1.isEmpty) _ (by decide +kernel)
theorem met_step_stream (o : Obligations.StepRunsInstruction) : ∃ w t, step sStream = tickResult (exec (decodeMatrix w) t) := by
  obtain ⟨⟨ws, t⟩, e, p⟩ := stream_code
  match ws, p with
  | w :: ws, _ =>
    exact ⟨_, _, (o sStream [] (by decide +kernel)).2.2.1 0 _ qS w ws t rfl (Option.some_get (by decide +kernel)).symm
      (by decide +kernel) (by decide +kernel) e⟩

theorem met_decode (o : Obligations.DecodeOfEncode) : decode .clause (bytesOfNat 8 0x4108_2004_02A3_008B ++ [1]) =
    .ok (.ffma ⟨2, 0, 2, 0, 0, 0x004, 0x005, 0x08C, 0x004, 11⟩, [1]) :=
  o (.ffma ⟨2, 0, 2, 0, 0, 0x004, 0x005, 0x08C, 0x004, 11⟩) 0x4108_2004_02A3_008B [1] (by decide) (by decide)
def stepTo : State := match step { s0 with turn := [.hostStore [(5, 6)]] } with
  | .next t => t
  | _ => s0
theorem met_canonical (o : Obligations.MemoryStaysCanonical) : stepTo.mem.wf = true :=
  o { s0 with turn := [.hostStore [(5, 6)]] } stepTo (by decide +kernel) (by rfl)

/-! What register instructions leave -/

theorem met_frame_scalar (o : Obligations.RegisterInstructionFrame) : Completes (.sadd ⟨0, 0, 5, 3, 0x184, 0, 0, 5⟩) s0 :=
  have ⟨_, _, h, _⟩ := (o s0 c0 q0 (by decide +kernel) (by decide +kernel)).1 (.sadd ⟨0, 0, 5, 3, 0x184, 0, 0, 5⟩) _ (.s 5 1) (.s 3 1) [.c 4]
    rfl (passes_of (by decide +kernel))
  ⟨_, h⟩
theorem met_frame_mask (o : Obligations.RegisterInstructionFrame) : Completes (.kand ⟨0, 0, 0x081, 0x082, 0x083, 0, 0, 0⟩) s0 :=
  have ⟨_, _, h, _⟩ := (o s0 c0 q0 (by decide +kernel) (by decide +kernel)).2.1 (.kand ⟨0, 0, 0x081, 0x082, 0x083, 0, 0, 0⟩) _ (.k 1)
    (.k 2) [.k 3] rfl (passes_of (by decide +kernel))
  ⟨_, h⟩
theorem met_frame_vector (o : Obligations.RegisterInstructionFrame) : Completes (.vadd ⟨0, 0, 7, 0, 0, 4, 5, 0x086, 0, 5⟩) s0 :=
  have ⟨_, _, h, _⟩ := (o s0 c0 q0 (by decide +kernel) (by decide +kernel)).2.2.1 (.vadd ⟨0, 0, 7, 0, 0, 4, 5, 0x086, 0, 5⟩) _ (.v 4 1)
    [.v 5 1, .s 6 1] rfl (passes_of (by decide +kernel))
  ⟨_, h⟩
theorem met_frame_float (o : Obligations.RegisterInstructionFrame) : Completes (.ffma ⟨0, 0, 7, 0, 0, 4, 5, 0x08C, 4, 11⟩) s0 :=
  have ⟨_, _, _, h, _⟩ := (o s0 c0 q0 (by decide +kernel) (by decide +kernel)).2.2.2 (.ffma ⟨0, 0, 7, 0, 0, 4, 5, 0x08C, 4, 11⟩) _ (.v 4 1)
    [.v 5 1, .s 12 1, .v 4 1] rfl (by decide +kernel) (passes_of (by decide +kernel))
  ⟨_, h⟩

/-! Words without an instruction -/

theorem met_matrix_word_illegal (o : Obligations.EveryWordDecodes) : decodeMatrix 0x11_00_0000_0000_0000 = .illegalMatrixWord 0x11_00_0000_0000_0000 :=
  (o .matrix 0x11_00_0000_0000_0000).2.2.1 (by decide)
theorem met_opcode_unlisted (o : Obligations.EveryWordDecodes) : decodeInstr 0x2980_7008_0201_4107 = .illegalOpcode 0x2980_7008_0201_4107 :=
  (o .clause 0x2980_7008_0201_4107).2.2.2 (by decide)

/-! Ill-formed terms, one for each check -/

theorem test_wf_shared_opcodes :
    [Instr.smovi ⟨0, 0, 0, 1, 0⟩, .smoviB64 ⟨0, 0, 0, 0, 0⟩, .saddc ⟨0, 0, 0, 0, 0, 0, 1, 5⟩, .saddcC ⟨0, 0, 0, 0, 0, 0, 0, 5⟩,
      .ssubb ⟨0, 0, 0, 0, 0, 0, 1, 5⟩, .ssubbC ⟨0, 0, 0, 0, 0, 0, 2, 5⟩, .srd ⟨0, 0, 0, 0, 0x30⟩, .srd ⟨0, 0, 0, 0, 0x31⟩,
      .srdTimelo ⟨0, 0, 0, 0, 0x31⟩, .srdTimehi ⟨0, 0, 0, 0, 0x30⟩, .swr ⟨0, 0, 0, 0, 0x23⟩, .swrGstat ⟨0, 0, 0, 0, 0x22⟩,
      .rngk ⟨0, 0, 0, 0, 0, 0, 0, 0, 0x181, 0⟩, .rngkB64 ⟨0, 0, 0, 0, 0, 0, 0, 0, 0x180, 0⟩].map Instr.wf = List.replicate 14 false := by decide
theorem test_wf_headers_and_words :
    [Instr.clauseHeader ⟨0x3E, 0, 0, 0, 0, 0, 0, 0⟩, .illegalOpcode 0x0100_0000_0000_0000, .illegalOpcode 0xFC00_0000_0000_0000,
      .illegalMatrixWord 0x1000_0000_0000_0000].map Instr.wf = List.replicate 4 false := by decide
theorem test_wf_matrix_control :
    [Instr.mset ⟨0, 1, 0, 0, 0⟩, .mset ⟨0, 0, 1, 0, 0⟩, .mset ⟨0, 0, 0, 1, 0⟩, .msetHi ⟨0, 0, 0, 0, 0⟩, .madd ⟨0, 0, 0, 1, 0⟩,
      .mbnz ⟨0, 1, 0, 0, 0⟩, .mbra ⟨1, 0, 0, 0, 0⟩, .mwaitb ⟨0, 0⟩, .mwaitb ⟨1, 1⟩, .marrb ⟨0, 0⟩, .malloc ⟨0, 0⟩, .mfree ⟨1, 1⟩,
      .mzero ⟨0, 0⟩, .mend ⟨1⟩].map Instr.wf = List.replicate 14 false := by decide
theorem test_wf_matrix_work :
    [Instr.mma ⟨0, 0, 0, 0, 0, 13, 0, 0, 0, 0, 0, 0⟩, .mmas ⟨0, 0, 0, 0, 0, 0, 15, 0, 0, 0, 0, 0⟩, .mmaz ⟨0, 0, 0, 0, 0, 0, 0, 0, 0, 0, 0, 8⟩,
      .mmag ⟨0, 0, 0, 0, 0, 14, 0, 0, 0, 0, 0, 0⟩, .mdrn ⟨0, 0, 0, 1, 0, 0, 0, 0, 0⟩, .mdrna ⟨0, 0, 0, 0, 0, 1, 0, 0, 0⟩,
      .mdrn ⟨0, 0, 0, 0, 13, 0, 0, 0, 0⟩].map Instr.wf = List.replicate 7 false := by decide
theorem test_wf_parties :
    [Instr.blockAdmit (.grid 0) 256, .blockReadmit 256, .preempt [0, 256], .doorbell 4096 0, .apertureAccess (2 ^ 32) (.read 1),
      .keyEnroll 64 0 [], .keyRemove 64 0, .firmwareConfiguration 0 2, .firmwareConfiguration 64 0].map Instr.wf =
      List.replicate 9 false := by decide

/-! Words that the manual writes out, by family -/

theorem test_decode_scalar : decodeInstr 0x0100_0140_7840_0005 = .sadd ⟨0, 0, 0x005, 0x003, 0x184, 0, 0, 5⟩ := by decide
theorem test_decode_branches :
    decodeInstr 0x0940_7408_000C_0016 = .bsplit ⟨0, 0, 7, 0x081, 0, 0x000C_0016⟩ ∧
    decodeInstr 0x0980_7000_0000_000D = .bjoin ⟨0, 0, 7, 0, 0, 13⟩ ∧ decodeInstr 0x0AC0_7000_0000_0000 = .exit ⟨0, 0, 7, 0, 0, 0⟩ ∧
    decodeInstr 0x0A40_7000_0000_000A = .callt ⟨0, 0, 7, 0, 0, 0x000A⟩ := by decide
theorem test_decode_vector : decodeInstr 0x264C_7081_0022_4046 = .vset ⟨3, 0, 7, 0, 0, 0x081, 0x000, 0x089, 2, 6⟩ := by decide
theorem test_decode_float : decodeInstr 0x4108_2004_02A3_008B = .ffma ⟨2, 0, 2, 0, 0, 0x004, 0x005, 0x08C, 0x004, 11⟩ := by decide
theorem test_decode_exact :
    decodeInstr 0x4480_7000_0080_000B = .xadd ⟨0, 0, 7, 0, 0, 0, 1, 0, 0, 11⟩ ∧
    decodeInstr 0x4500_7080_0000_000B = .xrnd ⟨0, 0, 7, 0, 0, 0x080, 0, 0, 0, 11⟩ := by decide
theorem test_decode_function : decodeInstr 0x6080_7003_0380_000B = .ex2r ⟨0, 0, 7, 0, 0, 3, 7, 0, 0, 11⟩ := by decide
theorem test_decode_memory :
    decodeInstr 0x8040_7020_0900_8040 = .ld ⟨0, 0, 7, 4, 2, 2, 0, 1, 0, 2, 0, 0, 0⟩ ∧
    decodeInstr 0x80C0_7042_5108_0040 = .ldb ⟨0, 0, 7, 8, 0x094, 2, 2, 0, 0, 2, 0, 0, 0⟩ ∧
    decodeInstr 0x8100_0002_2903_8551 = .st ⟨0, 0, 0, 0, 0x08A, 2, 0, 7, 0x0A, 2, 2, 0, 1⟩ ∧
    decodeInstr 0x8140_7030_0980_8052 = .sts ⟨0, 0, 7, 6, 2, 3, 0, 1, 0, 2, 2, 1, 0⟩ ∧
    decodeInstr 0x8080_7030_0980_004A = .lds ⟨0, 0, 7, 6, 2, 3, 0, 0, 0, 2, 1, 1, 0⟩ ∧
    decodeInstr 0x8080_7010_1984_0040 = .lds ⟨0, 0, 7, 2, 6, 3, 1, 0, 0, 2, 0, 0, 0⟩ := by decide
theorem test_decode_atomic : decodeInstr 0x8280_0180_4040_8009 = .acass ⟨0, 0, 6, 2, 4, 0, 1, 0, 0, 2, 1⟩ := by decide
theorem test_decode_copy : decodeInstr 0xA080_0403_0400_200A = .cpyt ⟨0, 0, 0x010, 0x018, 1, 0, 0, 1, 0, 10⟩ := by decide
theorem test_decode_barriers :
    decodeInstr 0xC040_0808_0080_0000 = .mbar ⟨0, 0, 1, 1, 0, 0, 1, 0, 0, 0⟩ ∧
    decodeInstr 0xC080_1000_0000_0000 = .mwait ⟨0, 0, 2, 0, 0, 0, 0, 0, 0, 0⟩ := by decide
theorem test_decode_tokens :
    decodeInstr 0xE0C0_01C0_404C_0100 = .tmmask ⟨0, 0, 7, 2, 4, 0x180, 1, 0⟩ ∧
    decodeInstr 0xE180_0201_810C_1A02 = .sample ⟨0, 0, 8, 0x00C, 0x010, 0x183, 2, 2⟩ ∧
    decodeInstr 0xE080_0240_4080_0000 = .tmstep ⟨0, 0, 9, 2, 8, 0, 0, 0⟩ := by decide
theorem test_decode_tickets :
    decodeInstr 0xE280_0140_8000_0300 = .tkwait ⟨0, 0, 5, 4, 0, 0, 3, 0⟩ ∧
    decodeInstr 0xE3C0_0002_8000_0000 = .twait ⟨0, 0, 0, 0x014, 0, 0, 0, 0⟩ ∧
    decodeInstr 0xE300_0780_0100_0202 = .cllred ⟨0, 0, 0x01E, 0, 0x010, 0, 2, 2⟩ ∧
    decodeInstr 0xE400_0170_4060_0100 = .nemit ⟨0, 0, 5, 0x182, 6, 0, 1, 0⟩ := by decide
theorem test_decode_headers :
    decodeClauseWord 0xFC90_0000_2000_0000 = .clauseHeader ⟨0x3F, 2, 2, 0, 0, 0, 1, 0⟩ ∧
    decodeClauseWord 0xFC08_0000_0000_0000 = .clauseHeader ⟨0x3F, 0, 1, 0, 0, 0, 0, 0⟩ := by decide
theorem test_decode_matrix :
    decodeMatrix 0x0D02_14C7_0018_2101 = .mmag ⟨0, 4, 5, 6, 7, 0, 0, 1, 8, 2, 1, 1⟩ ∧
    decodeMatrix 0x0E05_3000_B000_4000 = .mdrn ⟨0, 10, 12, 0, 11, 0, 4, 0, 0⟩ := by decide

/-! Worked examples -/

/-- What an instruction leaves, as a check. -/
def leaves (i : Instr) (s : State) (p : Group → Bool) : Bool :=
  match exec i s with
  | .next t => (t.group? g0).any p
  | _ => false

/-- The records of contract 1 for bf16 and of contract 6 for s8 (R182). -/
theorem test_behaviour_records :
    (recordBytes 1 0).take 12 = [0x01, 0x01, 0x00, 0x20, 0x04, 0x00, 0x1B, 0x01, 0x00, 0x01, 0x04, 0x00] := by decide
theorem test_behaviour_records_int :
    (recordBytes 6 7).take 12 = [0x01, 0x06, 0x07, 0x20, 0x00, 0x00, 0x00, 0x00, 0x07, 0x03, 0x01, 0x01] := by decide

/-- Lanes 0 to 2 are active and hold 2^100, 1 and -2^100, or 2^30, 1 and -2^30. -/
def sThree (a b : Word) : State :=
  issuing fun h => { h with v := [(480, a), (481, 0x3F800000), (482, b)], slotA := { h.slotA with exec := 7 } }
/-- The example under R191: xa becomes exactly 1. -/
theorem test_xadd_exact : leaves (.xadd ⟨0, 0, 7, 0, 0, 0, 5, 0, 0, 11⟩) (sThree 0x71800000 0xF1800000)
    (fun h => decide (h.xa = 1 <<< 298)) = true := by decide +kernel
theorem test_xrnd : leaves (.xrnd ⟨0, 0, 7, 0, 0, 0x080, 0, 0, 0, 11⟩) (issuing fun h => { h with xa := 1 <<< 298 })
    (fun h => decide (h.cell (.s 0) = 0x3F800000)) = true := by decide +kernel
/-- The example under R296. -/
theorem test_xscan : leaves (.xscan ⟨0, 0, 7, 0, 0, 4, 5, 0, 0, 11⟩) (sThree 0x4E800000 0xCE800000)
    (fun h => decide ([h.cell (.v 4 0), h.cell (.v 4 1), h.cell (.v 4 2)] = [0x4E800000, 0x4E800000, 0x3F800000] ∧ h.xa = 1 <<< 298)) =
      true := by decide +kernel
/-- A word that Carhal 3 dropped: its issue traps with ILLOP (R104). -/
theorem test_dropped_word : leaves (.illegalOpcode 0x2980_7008_0201_4107) sTable1
    (fun h => decide (h.sup = true ∧ h.tcode.toNat % 256 = 1)) = true := by decide +kernel
/-- The device right after reset runs a placed word as its first instruction (log 5). -/
theorem test_first_instruction :
    (match step (State.reset.withFetchWord 64 0x0100_0140_7840_0005) with
      | .next t => (t.group? g0).any fun h => decide (h.cell (.s 5) = 4)
      | _ => false) = true := by decide +kernel
/-- The worked comparison of the contracts (R176): the sums of two short rows under contracts 1, 2, 3, 4 and 6. -/
def shortSum (c : Nat) (as bs : List Nat) : Nat :=
  mmaElement .f32 (matFlushIn c) (matFlushOut c) (alignBits c) (groupLen c) 0
    ((List.zipWith (fun a b => Val.mul (FF.bf16.value a) (FF.bf16.value b)) as bs) ++ List.replicate 27 (.zero false))
theorem test_worked_case_1 : [1, 2, 3, 4, 6].map (fun c => shortSum c [0x4580, 0x3F80, 0x3F80, 0x3F80, 0xC580]
    [0x4580, 0x3F80, 0x3F80, 0x3F80, 0x4580]) = [0x40800000, 0x40400000, 0x40400000, 0x40400000, 0x40400000] := by decide +kernel
theorem test_worked_case_2 : [1, 2, 3, 4, 6].map (fun c => shortSum c [0x3F80, 0x3F80, 0x3800, 0, 0] [0x3F80, 0xBF80, 0x3800, 0, 0]) =
    [0, 0, 0, 0x30800000, 0x30800000] := by decide +kernel
/-- Four ranks hold 1 and three times 2^-24 (R181). -/
theorem test_collective_sum : [1, 4, 5, 6].map (fun c => collectiveSum c .bf16 [0x3F80, 0x3380, 0x3380, 0x3380]) =
    List.replicate 4 0x3F80 := by decide +kernel

end
end Sys2Proof.Machine
end

/-!
SUPPORT. Memory's canonical form (log 1) along a step: the predicate, and the stores, which are the only writers of
memory. Below, one lemma per function of the state, in the order of the model, says that what it leaves is canonical.
-/
namespace Sys2Proof.Machine

/-- Memory is in its canonical form (log 1). -/
def State.Canonical (s : State) : Prop := s.mem.wf = true

namespace State.Canonical
variable {s t : State}

/-- A move that leaves memory as it is. Where only a later step fixes `t`, `e` is given as `by rfl`. -/
theorem keep (h : s.Canonical) (e : t.mem = s.mem) : t.Canonical :=
  (congrArg Memory.wf e).trans h

theorem snd {α : Type} {r : α × State} {v : α} (h : r.2.Canonical) (e : r = (v, t)) : t.Canonical := by
  rw [e] at h
  exact h

theorem foldl {α : Type} {f : State → α → State} {l : List α} (h : s.Canonical)
    (hf : ∀ t a, t.Canonical → (f t a).Canonical) : (l.foldl f s).Canonical :=
  List.foldlRecOn l f h fun t ht a _ => hf t a ht

/-- The state of a pair. -/
theorem fst {α : Type} {r : State × α} {v : α} (h : r.1.Canonical) (e : r = (t, v)) : t.Canonical := by
  rw [e] at h
  exact h

theorem foldl_fst {α β : Type} {f : State × β → α → State × β} {l : List α} {r : State × β} (h : r.1.Canonical)
    (hf : ∀ r a, r.1.Canonical → (f r a).1.Canonical) : (l.foldl f r).1.Canonical :=
  List.foldlRecOn (motive := fun r => r.1.Canonical) l f h fun r hr a _ => hf r a hr

/-! Stores -/

section
variable {a n v lid rcb unit : Nat} {bs : List Byte} {ps : List (Nat × Byte)} {g : GRef}

theorem putPhys (h : s.Canonical) : (s.putPhys ps).Canonical := Memory.wf_putAt _ _ h

theorem storeBytes (h : s.Canonical) : (s.storeBytes a bs).Canonical := h.putPhys

theorem storeNum (h : s.Canonical) : (s.storeNum a n v).Canonical := h.storeBytes

theorem zeroRange (h : s.Canonical) : (s.zeroRange a n).Canonical := Memory.wf_clear _ _ _ h

theorem privPut (h : s.Canonical) : (s.privPut g n bs).Canonical := h.putPhys

theorem putTail {e : TailEntry} (h : s.Canonical) : (s.putTail g n e).Canonical := h.privPut

theorem writeUse (h : s.Canonical) : (s.writeUse rcb).Canonical := h.foldl fun _ _ h => h.storeBytes

theorem writeRcbStatus {k : Bool} {st : Option Nat} (h : s.Canonical) : (s.writeRcbStatus rcb k st).Canonical := h.storeNum

theorem noReplay (h : s.Canonical) : (s.noReplay lid).Canonical := by
  unfold State.noReplay
  repeat' split
  all_goals exact h.keep rfl

theorem of_reserve {use : BallastUse} (h : s.Canonical) (e : s.reserve rcb n use = some t) : t.Canonical := by
  unfold State.reserve at e
  split at e
  · cases e
    exact h.keep rfl
  · cases e

theorem snapUnit (h : s.Canonical) : (s.snapUnit lid unit).Canonical := by
  unfold State.snapUnit
  split
  · split
    · split
      next e => exact ((h.of_reserve e).keep (by rfl)).writeUse
      next => exact h.noReplay
    · exact h
  · exact h

theorem beforeWrite {pas : List Nat} (h : s.Canonical) : (State.beforeWrite pas s lid).Canonical := by
  have due := h.foldl (l := s.unitsDue lid pas) fun t u h => h.snapUnit (lid := lid) (unit := u)
  unfold State.beforeWrite
  split
  · exact due.noReplay
  · exact due

theorem writeFor {lids : List Nat} (h : s.Canonical) : (s.writeFor lids ps).Canonical :=
  (h.foldl fun _ _ h => h.beforeWrite).putPhys

end
end State.Canonical

end Sys2Proof.Machine

/-!
SUPPORT. The memory engine and the bridles: translations put to use, faults reported, and operations that may fault.
-/
namespace Sys2Proof.Machine

namespace State.Canonical
variable {s t : State}

/-! Translations in use, records and reports -/

theorem markUse {w : Bool} {tr : Trans} (h : s.Canonical) : (s.markUse w tr).Canonical := by
  unfold State.markUse
  split
  · exact h
  · split
    · exact h
    · exact h.storeNum

theorem cache {e : TlbEntry} (h : s.Canonical) : (s.cache e).Canonical := h.keep rfl

theorem useTrans {who : Who} {w : Bool} {ts : List Trans} (h : s.Canonical) : (s.useTrans who w ts).Canonical :=
  h.foldl fun _ _ h => h.markUse.foldl fun _ _ h => h.cache

theorem complete {sg : SignalRef} {code cause aux : Nat} {late : Bool} (h : s.Canonical) :
    (s.complete sg code cause late aux).Canonical := by
  unfold State.complete
  split
  · exact h
  · exact h.storeBytes

theorem drainRing {v : Vif} (fuel : Nat) (h : s.Canonical) : (drainRing fuel v s).2.Canonical := by
  induction fuel generalizing v s with
  | zero => exact h
  | succ fuel ih =>
    unfold Machine.drainRing
    split
    · dsimp only
      split
      · exact ih h.storeBytes
      · exact h
    · exact h

theorem flushFaults {v : Nat} (h : s.Canonical) : (s.flushFaults v).Canonical := by
  unfold State.flushFaults
  split
  · exact h
  · exact (h.drainRing _).keep rfl

theorem report {r : FaultRec} (h : s.Canonical) : (s.report r).Canonical := by
  unfold State.report
  split
  · exact h
  · exact (h.keep (by rfl)).flushFaults

end State.Canonical

/-! Operations that may fault: a state that one leaves is canonical when the one it met is -/

/-- The operation leaves canonical memory canonical. -/
def MemM.Keeps {α : Type} (m : MemM α) : Prop := ∀ s v t, s.Canonical → m s = .ok (v, t) → t.Canonical

namespace MemM.Keeps
variable {α β : Type} {m : MemM α}

theorem pure (v : α) : MemM.Keeps (pure v : MemM α) := by
  intro s w t h e
  cases e
  exact h

theorem throw (f : SpanFault) : MemM.Keeps (throw f : MemM α) := by
  intro s w t h e
  cases e

theorem modify {f : State → State} (hf : ∀ s, s.Canonical → (f s).Canonical) : MemM.Keeps (modify f : MemM PUnit) := by
  intro s w t h e
  cases e
  exact hf s h

theorem set {s : State} (h : s.Canonical) : MemM.Keeps (set s : MemM PUnit) := by
  intro u w t _ e
  cases e
  exact h

theorem bind {f : α → MemM β} (hm : m.Keeps) (hf : ∀ v, (f v).Keeps) : (m >>= f).Keeps := by
  intro s w t h e
  change Except.bind (m s) (fun p => f p.1 p.2) = .ok (w, t) at e
  cases hv : m s with
  | error x =>
    rw [hv] at e
    cases e
  | ok p =>
    rw [hv] at e
    exact hf p.1 p.2 w t (hm s p.1 p.2 h hv) e

/-- What is read of the state before it goes on is canonical. -/
theorem get_bind {f : State → MemM β} (hf : ∀ s, s.Canonical → (f s).Keeps) : ((get : MemM State) >>= f).Keeps :=
  fun s w t h e => hf s h s w t h e

end MemM.Keeps

section
variable {who : Who} {va len n k st top q : Nat} {i : Image} {b : Bound} {lids : List Nat} {bs : List Byte} {fuel : Nat}

theorem memLoad_keeps {c : Option Nat} {miss : Bool} : (memLoad who c miss va len).Keeps := by
  intro s v t h e
  unfold memLoad at e
  repeat' split at e
  all_goals cases e
  exact h.useTrans

theorem memNum_keeps : (memNum who va len).Keeps := memLoad_keeps.bind fun _ => .pure _

theorem memStore_keeps : (memStore who lids va bs).Keeps := by
  intro s v t h e
  unfold memStore at e
  split at e
  all_goals cases e
  exact h.useTrans.writeFor

theorem writeBack_keeps : (writeBack b).Keeps := by
  intro s v t h e
  unfold writeBack at e
  split at e
  all_goals cases e
  exact h.useTrans.writeFor

theorem readRow_keeps : (readRow who va i q).Keeps := memLoad_keeps.bind fun _ => .pure _

theorem lookupFrom_keeps {x : Nat} : (lookupFrom who va i st top x fuel k).Keeps := by
  induction fuel generalizing k with
  | zero => exact .pure _
  | succ fuel ih =>
    refine readRow_keeps.bind fun r => ?_
    repeat' split
    · exact .pure _
    · exact .pure _
    · exact ih

theorem lookupRow_keeps : (lookupRow who va i st top).Keeps := lookupFrom_keeps

theorem accepting_keeps : (accepting who va i st).Keeps := memNum_keeps.bind fun _ => .pure _

theorem legalMask_keeps : (legalMask who i b).Keeps := by
  unfold legalMask
  split
  · exact .pure _
  · refine lookupRow_keeps.bind fun r => ?_
    split
    · exact .pure _
    · split
      · exact .pure _
      · exact memLoad_keeps.bind fun _ => accepting_keeps.bind fun _ => .pure _

theorem findTrans_keeps {e : Nat} {found : Option (Nat × Nat)} {bad : Bool} :
    (findTrans who va i k n e found bad).Keeps := by
  induction n generalizing e found bad with
  | zero => exact .pure _
  | succ n ih => exact memLoad_keeps.bind fun _ => ih

theorem bridleStep_keeps : (bridleStep who i b k).Keeps := by
  unfold bridleStep
  refine legalMask_keeps.bind fun (row, m, bad) => ?_
  dsimp only
  repeat' split
  any_goals exact .pure _
  refine findTrans_keeps.bind fun _ => ?_
  repeat' split
  all_goals exact .pure _

theorem bridleStatus_keeps : (bridleStatus who k b).Keeps := by
  unfold bridleStatus
  split
  · exact .pure _
  · split
    · exact .pure _
    · refine legalMask_keeps.bind fun (_, m, bad) => ?_
      dsimp only
      split
      · exact .pure _
      · exact accepting_keeps.bind fun _ => .pure _

end

namespace State.Canonical
variable {s : State}

theorem modBound {pa : Nat} {f : Bound → Bound} (h : s.Canonical) : (s.modBound pa f).Canonical := h.keep rfl

theorem unbind {pa : Nat} (h : s.Canonical) : (s.unbind pa).Canonical := h.keep rfl

theorem reportWriteBack {b : Bound} {va : Nat} (h : s.Canonical) : (s.reportWriteBack b va).Canonical := by
  unfold State.reportWriteBack
  split
  · exact h
  · exact h.modBound.report

theorem evictFrom {l : List Bound} (h : s.Canonical) : (evictFrom l s).1.Canonical := by
  induction l generalizing s with
  | nil => exact h
  | cons b r ih =>
    unfold Machine.evictFrom
    split
    next e => exact (writeBack_keeps _ _ _ h e).unbind
    next => exact ih h.reportWriteBack

/-- The write-backs of a launch's records (R393). -/
theorem writeBackAll {lid : Nat} (h : s.Canonical) : (writeBackAll lid s).1.Canonical := by
  refine foldl_fst h fun acc b h => ?_
  split
  next e => exact (writeBack_keeps _ _ _ h e).modBound
  next => exact h

end State.Canonical

section
variable {who : Who} {g : GRef} {va pa bridle image slim lid use arg : Nat} {b n : Bound}

theorem makeRoom_keeps : (makeRoom bridle).Keeps := by
  intro s v t h e
  unfold makeRoom at e
  split at e
  · cases e
    exact h
  · cases e
    exact h.evictFrom

theorem takeOver_keeps : (takeOver b).Keeps := by
  intro s v t h e
  unfold takeOver at e
  split at e
  next w =>
    cases e
    exact (writeBack_keeps _ _ _ h w).unbind
  next =>
    cases e
    exact h.reportWriteBack

theorem readRecord_keeps : (readRecord who g va pa bridle).Keeps := by
  refine memLoad_keeps.bind fun _ => ?_
  dsimp only
  split
  · exact .pure _
  · refine memLoad_keeps.bind fun _ => ?_
    split
    · exact .pure _
    · split
      · exact .pure _
      · exact memLoad_keeps.bind fun _ => .pure _

theorem newRecord_keeps : (newRecord who g va pa bridle image slim).Keeps := by
  refine memLoad_keeps.bind fun _ => ?_
  split
  · exact .pure _
  · exact .pure _

theorem recordAddr_keeps : (recordAddr who va).Keeps := by
  intro s v t h e
  unfold recordAddr at e
  split at e
  all_goals cases e
  exact h

theorem enterBridle_keeps : (enterBridle bridle n).Keeps := by
  refine makeRoom_keeps.bind fun _ => ?_
  split
  · exact .pure _
  · exact (MemM.Keeps.modify fun _ h => h.keep (by rfl)).bind fun _ => .pure _

theorem imageValid_keeps : (imageValid who b).Keeps := memLoad_keeps.bind fun _ => .pure _

theorem rebind_keeps {make : MemM (Nat ⊕ Bound)} (hm : make.Keeps) : (rebind bridle b make).Keeps := by
  refine .get_bind fun s h => ?_
  split
  · exact takeOver_keeps.bind fun _ => .pure _
  · refine makeRoom_keeps.bind fun _ => ?_
    split
    · exact .pure _
    · refine takeOver_keeps.bind fun _ => hm.bind fun r => ?_
      split
      · exact (MemM.Keeps.set h).bind fun _ => .pure _
      · exact enterBridle_keeps

theorem bindRecord_keeps {fresh : Bool} {make : Nat → MemM (Nat ⊕ Bound)} (hm : ∀ pa, (make pa).Keeps) :
    (bindRecord who va bridle fresh make).Keeps := by
  refine recordAddr_keeps.bind fun pa => .get_bind fun s h => ?_
  split
  · refine (hm pa).bind fun r => ?_
    split
    · exact .pure _
    · exact enterBridle_keeps
  · split
    · refine (hm pa).bind fun r => ?_
      split
      · exact .pure _
      · split
        · exact (MemM.Keeps.modify fun _ h => h.modBound).bind fun _ => .pure _
        · exact rebind_keeps (.pure _)
    · split
      · exact .pure _
      · refine imageValid_keeps.bind fun _ => ?_
        split
        · exact .pure _
        · exact rebind_keeps (hm pa)

theorem bridleLane_keeps {op : BridleOp} : (bridleLane who g lid op use va arg).Keeps := by
  unfold bridleLane
  dsimp only
  split
  · refine (bindRecord_keeps fun _ => newRecord_keeps).bind fun r => ?_
    split
    · exact .pure _
    · refine (MemM.Keeps.modify fun _ h => h.modBound).bind fun _ => ?_
      split
      · exact .pure _
      · exact bridleStatus_keeps
  · refine (bindRecord_keeps fun _ => readRecord_keeps).bind fun r => ?_
    split
    · exact .pure _
    · refine (MemM.Keeps.modify fun _ h => h.modBound).bind fun _ => ?_
      split
      · exact .pure _
      · split
        · exact bridleStep_keeps.bind fun _ => (MemM.Keeps.modify fun _ h => h.modBound).bind fun _ => bridleStatus_keeps
        · refine legalMask_keeps.bind fun _ => ?_
          split
          · exact .pure _
          · split
            · exact memLoad_keeps.bind fun _ => memStore_keeps.bind fun _ => bridleStatus_keeps
            · exact (MemM.Keeps.pure _).bind fun _ => memStore_keeps.bind fun _ => bridleStatus_keeps
        · refine writeBack_keeps.bind fun _ => ?_
          split
          · exact (MemM.Keeps.modify fun _ h => h.unbind).bind fun _ => bridleStatus_keeps
          · exact bridleStatus_keeps
        · exact bridleStatus_keeps
end
end Sys2Proof.Machine

/-!
SUPPORT. Changes of one part of the state, and the end of groups, blocks and launches.
-/
namespace Sys2Proof.Machine

namespace State.Canonical
variable {s t : State} {g : GRef} {x : SlotId} {bid lid node cause rcb ser : Nat} {l : Launch} {p : Pend}

/-! Changes of one part of the state -/

theorem modBlock {f : Block → Block} (h : s.Canonical) : (s.modBlock bid f).Canonical := h.keep rfl

theorem modGroup {f : Group → Group} (h : s.Canonical) : (s.modGroup g f).Canonical := h.keep rfl

theorem modSlot {f : Slot → Slot} (h : s.Canonical) : (s.modSlot g x f).Canonical := h.keep rfl

theorem modLaunch {f : Launch → Launch} (h : s.Canonical) : (s.modLaunch lid f).Canonical := h.keep rfl

theorem modCore {c : Nat} {f : Core → Core} (h : s.Canonical) : (s.modCore c f).Canonical := h.keep rfl

theorem modCopy {c : Nat} {f : Copy → Copy} (h : s.Canonical) : (s.modCopy c f).Canonical := h.keep rfl

theorem modVif {v : Nat} {f : Vif → Vif} (h : s.Canonical) : (s.modVif v f).Canonical := h.keep rfl

theorem releaseOf (h : s.Canonical) : (s.releaseOf bid).Canonical := h.keep rfl

theorem invalidate {kind asid va : Nat} {core : Option Nat} (h : s.Canonical) :
    (s.invalidate kind asid va core).Canonical := h.keep rfl

theorem clearPages (h : s.Canonical) : (s.clearPages bid).Canonical := h.keep rfl

theorem settleChains (h : s.Canonical) : s.settleChains.Canonical := h.keep rfl

theorem unschedule {f : GRef → Bool} (h : s.Canonical) : (s.unschedule f).Canonical := h.keep rfl

theorem boundary (h : s.Canonical) : s.boundary.Canonical := h.keep rfl

theorem dropOp (h : s.Canonical) : (s.dropOp g ser).Canonical := h.keep rfl

theorem removeBlocks (h : s.Canonical) : (s.removeBlocks lid).Canonical := h.keep rfl

theorem land {cs : List (RegCell × Word)} (h : s.Canonical) : (s.land g x cs).Canonical := h.keep rfl

/-! The end of groups, blocks and launches -/

theorem settleGridFrom (fuel : Nat) (h : s.Canonical) : (s.settleGridFrom lid fuel).Canonical := by
  induction fuel generalizing s with
  | zero => exact h
  | succ fuel ih =>
    unfold State.settleGridFrom
    split
    · exact h
    · split
      · exact ih h.modLaunch
      · exact h

theorem settleGrid (h : s.Canonical) : (s.settleGrid lid).Canonical := h.settleGridFrom _

theorem leaveSharing (h : s.Canonical) : (s.leaveSharing bid).Canonical := by
  unfold State.leaveSharing
  split
  · exact h
  · exact ((h.keep (by rfl)).foldl fun _ _ h => h.modBlock).modBlock

theorem closeBatch (h : s.Canonical) : (s.closeBatch lid node).Canonical := by
  unfold State.closeBatch
  repeat' split
  · exact h
  · exact h
  · exact h.modLaunch.storeBytes
  · exact h

theorem exitBlock (h : s.Canonical) : (s.exitBlock bid).Canonical := by
  unfold State.exitBlock
  split
  · exact h
  next b _ =>
    extract_lets left stopped freed chained settled closed
    have settledOk : settled.Canonical := h.leaveSharing.modBlock.releaseOf.settleChains.settleGrid
    have closedOk : closed.Canonical := by
      unfold closed
      split
      · exact settledOk.foldl fun _ _ h => h.closeBatch
      · exact settledOk
    cases closed.launches[b.lid]? with
    | none => exact closedOk
    | some l => exact closedOk.writeUse

theorem exitGroup (h : s.Canonical) : (s.exitGroup g).Canonical := by
  unfold State.exitGroup
  dsimp only
  split
  · exact h.keep rfl
  · split
    · exact (h.keep (by rfl)).exitBlock
    · exact (h.keep (by rfl)).settleGrid

theorem failSteps {ci : Nat} {f : RedStep → Bool} (h : s.Canonical) : (s.failSteps ci cause f).Canonical :=
  (h.keep (by rfl)).foldl fun _ _ h => h.dropOp

theorem abortSteps (h : s.Canonical) : (s.abortSteps lid).Canonical := h.foldl fun _ _ h => h.failSteps

theorem resetSteps (h : s.Canonical) : (s.resetSteps l).Canonical := by
  refine h.foldl fun t ci h => ?_
  split
  · exact h
  · split
    · exact h
    · exact h.failSteps.keep rfl

theorem endKilled (h : s.Canonical) : (s.endKilled lid l cause).Canonical :=
  (h.removeBlocks.abortSteps.writeBackAll.keep (by rfl)).modLaunch.complete.writeRcbStatus.writeUse

theorem restoreUnits {us : List (Nat × SnapUnit)} (h : s.Canonical) : (s.restoreUnits lid l us).1.Canonical := by
  induction us generalizing s with
  | nil => exact h
  | cons u r ih =>
    unfold State.restoreUnits
    split
    · exact h.keep rfl
    · exact ih (h.storeBytes.keep rfl)

theorem rollback (h : s.Canonical) : (s.rollback lid l cause).Canonical := by
  unfold State.rollback
  dsimp only
  split
  next e => exact (h.removeBlocks.abortSteps.resetSteps.restoreUnits.fst e).endKilled
  next e =>
    have restored := h.removeBlocks.abortSteps.resetSteps.restoreUnits.fst e
    exact ((restored.foldl fun _ _ h => h.zeroRange).keep (by rfl)).writeUse.boundary

theorem killOne (h : s.Canonical) : (s.killOne cause lid).Canonical := by
  unfold State.killOne
  repeat' split
  · exact h
  · exact h.noReplay
  · exact h
  · exact h.rollback
  · exact h.endKilled

theorem kill (h : s.Canonical) : (s.kill lid cause).Canonical := by
  unfold State.kill
  dsimp only
  split
  · exact (h.keep (by rfl)).killOne.foldl fun _ _ h => h.killOne
  · exact h.killOne.foldl fun _ _ h => h.killOne

theorem killGroup (h : s.Canonical) : (s.killGroup g cause).Canonical := by
  unfold State.killGroup
  split
  · exact h
  · exact h.kill

end State.Canonical
end Sys2Proof.Machine

/-!
SUPPORT. Accesses performed, walks, traps, and the end of an instruction.
-/
namespace Sys2Proof.Machine

namespace State.Canonical
variable {s t : State} {g : GRef} {x : SlotId} {bid lid node ser va n kind : Nat} {l : Launch} {c : Ctx} {b : Block} {p : Pend}
  {accs : List LaneAcc}

/-! Accesses performed -/

theorem endOp (h : s.Canonical) : (s.endOp g p).Canonical := by
  unfold State.endOp
  dsimp only
  split
  · exact h.modGroup
  · exact h.dropOp

theorem atomicLane {k aop : Nat} {cas : Bool} {acc : State × List (RegCell × Word)} {a : LaneAcc} (h : acc.1.Canonical) :
    (atomicLane lid k aop cas acc a).1.Canonical := by
  unfold Machine.atomicLane
  dsimp only
  split
  · exact h
  · exact h.writeFor

theorem performAccs (h : s.Canonical) : (s.performAccs g p accs).Canonical := by
  unfold State.performAccs
  dsimp only
  split
  · split
    · exact h.kill
    · exact h.land
  · exact h.writeFor
  · split
    · exact h.kill
    · exact (h.foldl_fst fun _ _ h => h.atomicLane).land
  · exact h

theorem noteGot {cells : List (Nat × Byte)} (h : s.Canonical) : (s.noteGot g ser cells).Canonical := h.keep rfl

theorem performPiece (h : s.Canonical) : (s.performPiece g b p n).Canonical := by
  unfold State.performPiece
  dsimp only
  split
  · split
    · exact h.kill
    · exact h.noteGot
  · exact h.writeFor.noteGot
  · exact h.performAccs.noteGot
  · exact h

theorem sgJoin {req : Word} (h : s.Canonical) : (s.sgJoin bid req).1.Canonical := by
  unfold State.sgJoin
  dsimp only
  split
  · exact h
  · split
    · exact h
    · split
      · exact h
      · split
        · exact h
        · split
          · exact h
          · exact ((h.keep (by rfl)).foldl fun _ _ h => h.modBlock).modBlock

theorem mapPage (h : s.Canonical) : (s.mapPage lid va).1.Canonical := by
  unfold State.mapPage
  split
  · exact h
  · split
    · exact h
    · split
      · exact h
      · exact (h.keep (by rfl)).zeroRange.storeNum.modLaunch
    · exact h

theorem ticketEffect {op : TicketOp} {key : Word} (h : s.Canonical) : (s.ticketEffect b op key).Canonical := by
  cases op <;> exact h.keep rfl

theorem toReserve (h : s.Canonical) : (s.toReserve g p).Canonical := h.keep rfl

theorem perform (h : s.Canonical) : (s.perform g p).Canonical := by
  unfold State.perform
  split
  · exact h
  · split
    · exact h.sgJoin.land.endOp
    · split
      · exact h.land.endOp
      · exact h.leaveSharing.land.modGroup
    · exact h.land.endOp
    · exact h.mapPage.land.endOp
    · exact h.invalidate.endOp
    · exact h.modBlock.endOp
    · split
      · exact h
      · dsimp only
        split
        · exact h.ticketEffect.land.endOp
        · exact h.land.endOp
    · split
      · exact h.performAccs.toReserve
      · exact h.performAccs.endOp

theorem releaseStaged {e : Staged} (h : s.Canonical) : (s.releaseStaged bid e).Canonical := by
  unfold State.releaseStaged
  dsimp only
  split
  · exact h.modBlock
  · exact h.modBlock.performAccs.dropOp.modBlock.settleGrid

/-! Class-7 operations, which have their whole effect at once -/

theorem runLanes {α β : Type} {laneOf : α → Nat} {f : α → MemM β} {as : List α} (h : s.Canonical)
    (hf : ∀ a, (f a).Keeps) : (runLanes laneOf f as s).1.Canonical := by
  induction as generalizing s with
  | nil => exact h
  | cons a r ih =>
    unfold Machine.runLanes
    split
    next e => exact ih (hf a _ _ _ h e)
    next => exact ih h

end State.Canonical

section
variable {α β : Type} {n va : Nat} {who : Who}

theorem aligned_keeps : (aligned n va).Keeps := by
  unfold aligned
  split
  · exact .pure _
  · exact .throw _

theorem canonical_keeps : (canonical va).Keeps := by
  unfold canonical
  split
  · exact .pure _
  · exact .throw _

theorem bothAccesses_keeps {a : MemM α} {b : MemM β} (ha : a.Keeps) (hb : b.Keeps) : (bothAccesses a b).Keeps := by
  intro s v t h e
  unfold bothAccesses at e
  split at e
  next => cases e
  next ea =>
    split at e
    next => cases e
    next eb =>
      cases e
      exact hb _ _ _ (ha _ _ _ h ea) eb

theorem withStore_keeps {op : BridleOp} {l : BridleLane} {a : MemM α} (ha : a.Keeps) : (withStore who op l a).Keeps := by
  intro s v t h e
  unfold withStore at e
  split at e
  next ea =>
    cases e
    exact ha _ _ _ h ea
  next => cases e

theorem memLoadMixed_keeps {k len : Nat} {miss : Bool} : (memLoadMixed who k miss va len).Keeps := by
  intro s v t h e
  unfold memLoadMixed at e
  repeat' split at e
  all_goals cases e
  exact h.useTrans

theorem sampleLane_keeps {k : Nat} {miss : Bool} {d : SampleDesc} {l : SampleLane} : (sampleLane who k miss d l).Keeps :=
  (bothAccesses_keeps memLoad_keeps memLoadMixed_keeps).bind fun _ => .pure _

end

/-- A state that a class-7 operation leaves is canonical. -/
def WholeOut.Canonical (o : WholeOut) : Prop := ∀ t after, o = .ok t after → t.Canonical

/-- A state that a walk of lanes leaves is canonical. -/
def WalkOut.Canonical (o : WalkOut) : Prop := ∀ t accs mism, o = .ok t accs mism → t.Canonical

theorem WholeOut.Canonical.wait : WholeOut.wait.Canonical := fun _ _ e => nomatch e

theorem WholeOut.Canonical.fault {k : AFault} {m : Lanes} {va : Nat} : (WholeOut.fault k m va).Canonical :=
  fun _ _ e => nomatch e

theorem WholeOut.Canonical.ok {s : State} {after : Option (Nat × Lanes)} (h : s.Canonical) :
    (WholeOut.ok s after).Canonical := by
  intro t a e
  cases e
  exact h

namespace State.Canonical
variable {s t : State} {g : GRef} {x : SlotId} {bid lid node ser va n kind code : Nat} {l : Launch} {c : Ctx} {b : Block}
  {p : Pend} {accs : List LaneAcc} {iword : DWord}

theorem runBridle {op : BridleOp} {ls : List BridleLane} (h : s.Canonical) : (s.runBridle c p op ls).Canonical := by
  unfold State.runBridle
  extract_lets who one
  have kept (l : BridleLane) : (one l).Keeps := by
    refine aligned_keeps.bind fun _ => ?_
    split
    · exact aligned_keeps.bind fun _ => canonical_keeps.bind fun _ => withStore_keeps bridleLane_keeps
    · exact withStore_keeps bridleLane_keeps
  have ran := h.runLanes (laneOf := BridleLane.lane) (as := ls) kept
  split
  next e =>
    have ran := ran.fst e
    split
    · exact .fault
    · extract_lets landed bad
      split
      · exact .ok ran.land
      · exact .ok ran.land.modGroup

theorem runSample {d : SampleDesc} {ls : List SampleLane} (h : s.Canonical) : (s.runSample c p d ls).Canonical := by
  unfold State.runSample
  dsimp only
  split
  · exact .fault
  · split
    · exact .fault
    · split
      · exact .fault
      · exact .ok (h.runLanes fun _ => sampleLane_keeps).land.modGroup

theorem placeRecord {r : List Byte} (h : s.Canonical) : (s.placeRecord lid node r).Canonical := by
  unfold State.placeRecord
  split
  · exact h
  · dsimp only
    split
    · exact h.modLaunch.closeBatch
    · exact h.modLaunch

theorem runEmit {d : RegCell} {rs : List (Nat × Nat)} (h : s.Canonical) : (s.runEmit c p node d rs).Canonical := by
  unfold State.runEmit
  split
  · exact .ok h.land
  · extract_lets who one
    have ran := h.runLanes (laneOf := Prod.fst) (as := rs) (f := one) fun _ => aligned_keeps.bind fun _ => memLoad_keeps
    split
    next e =>
      have ran := ran.fst e
      split
      · exact .fault
      · split
        · exact .wait
        · refine .ok (State.Canonical.land ?_)
          split
          · exact (ran.foldl fun _ _ h => h.placeRecord).closeBatch
          · exact ran.foldl fun _ _ h => h.placeRecord

theorem runWhole (h : s.Canonical) : (s.runWhole c p).Canonical := by
  unfold State.runWhole
  split
  · exact h.runBridle
  · exact h.runSample
  · exact h.runEmit
  · exact .wait

/-! Walks, parking, and groups that stop -/

theorem walkLanes (h : s.Canonical) : (s.walkLanes c p).Canonical := by
  intro t accs mism e
  unfold State.walkLanes at e
  dsimp only at e
  split at e
  · cases e
  · cases e
    exact h.foldl fun _ _ h => h.useTrans

theorem reportGroup (h : s.Canonical) : (s.reportGroup g va kind).Canonical := h.report

theorem park {why : ParkWhy} (h : s.Canonical) : (s.park g x why va kind).Canonical := h.modSlot.reportGroup

theorem mapOp {mism : Bool} (h : s.Canonical) : (s.mapOp g ser accs mism).Canonical := h.keep rfl

theorem parkOp (h : s.Canonical) : (s.parkOp g p va).Canonical := h.modGroup.park

theorem drainWhole (h : s.Canonical) : (s.drainWhole c p).Canonical := by
  unfold State.drainWhole
  split
  · split
    next e => exact (h.runWhole _ _ e).dropOp
    · exact h.parkOp
    · exact h.killGroup
    · exact h
  · exact h

theorem drainOp (h : s.Canonical) : (s.drainOp g p).Canonical := by
  unfold State.drainOp
  split
  · exact h
  · split
    · exact h.drainWhole
    · split
      · exact h
      · split
        · exact h.perform
        · split
          · exact h.parkOp
          · exact h
          next e => exact (h.walkLanes _ _ _ e).mapOp.perform

theorem drainOps (h : s.Canonical) : (s.drainOps g).Canonical := by
  unfold State.drainOps
  split
  · exact h
  · refine h.foldl fun t q h => ?_
    split
    · exact h
    · exact h.drainOp

theorem pastIssue {q : Option Pend} {mism : Bool} (h : s.Canonical) : (s.pastIssue c p q mism).Canonical := by
  unfold State.pastIssue
  dsimp only
  split
  · exact h.killGroup
  · exact h.modGroup

theorem settleWalk (h : s.Canonical) : (s.settleWalk g x).Canonical := by
  unfold State.settleWalk
  repeat' split
  · exact h
  · exact h
  · exact h.pastIssue
  next e => exact (h.walkLanes _ _ _ e).pastIssue
  · exact h.pastIssue
  · exact h.pastIssue.parkOp
  · exact h.killGroup
  · exact h

theorem settleWhole (h : s.Canonical) : (s.settleWhole g x).Canonical := by
  unfold State.settleWhole
  repeat' split
  · exact h
  · exact h
  · exact h.pastIssue
  next e => exact (h.runWhole _ _ e).pastIssue
  · exact h.pastIssue.parkOp
  · exact h.killGroup
  · exact h

theorem quiesce (h : s.Canonical) : (s.quiesce g).Canonical :=
  (h.settleWalk.settleWalk.modGroup.drainOps.foldl fun _ _ h => h.settleWhole).modGroup.drainOps

/-! The tail stack, traps, and the end of an instruction -/

theorem setDepth (h : s.Canonical) : (s.setDepth g n).Canonical := h.keep rfl

theorem popInto {k : Group} (h : s.Canonical) : (s.popInto g k x).Canonical := by
  unfold State.popInto
  dsimp only
  repeat' split
  · exact h.setDepth.killGroup
  · exact h.setDepth.modSlot.modGroup
  · exact h.setDepth.modSlot
  · exact h.setDepth.modSlot

theorem of_refillStep (h : s.Canonical) (e : s.refillStep g = some t) : t.Canonical := by
  unfold State.refillStep at e
  dsimp only at e
  repeat' split at e
  all_goals cases e
  · exact h.popInto
  · exact h.popInto
  · exact h.killGroup
  · exact h.putTail.modSlot
  · exact h.modGroup
  · exact h.modSlot
  · exact h.modSlot

theorem refillLoop (fuel : Nat) (h : s.Canonical) : (State.refillLoop g fuel s).Canonical := by
  induction fuel generalizing s with
  | zero => exact h
  | succ fuel ih =>
    unfold State.refillLoop
    split
    next e => exact ih (h.of_refillStep e)
    next => exact h

theorem refill (h : s.Canonical) : (s.refill g).Canonical := by
  unfold State.refill
  dsimp only
  repeat' split
  · exact h.refillLoop _
  · exact (h.refillLoop _).exitGroup
  · exact h.refillLoop _

theorem trap {i : TrapInfo} {q : Option Pend} (h : s.Canonical) : (s.trap g x i q).Canonical := by
  unfold State.trap
  dsimp only
  repeat' split
  · exact h
  · exact h
  · exact h.killGroup
  · exact h.modGroup.quiesce
  · exact h.modGroup.quiesce
  · exact h.modGroup.quiesce.modGroup.privPut.modGroup
  · exact h.modGroup.quiesce.modGroup.privPut.modGroup

theorem trapPlain (h : s.Canonical) : (s.trapPlain c iword code).Canonical := h.trap

theorem trapLanes {m : Lanes} (h : s.Canonical) : (s.trapLanes c iword code m va).Canonical := h.trap

theorem endStepAt (h : s.Canonical) : (s.endStepAt c iword n).Canonical := by
  unfold State.endStepAt
  split
  · exact h.trap
  · exact h

theorem endStep (h : s.Canonical) : (s.endStep c iword).Canonical := h.endStepAt

theorem clauseGoesOn {ended : Bool} (h : s.Canonical) : (s.clauseGoesOn c ended).Canonical := h.keep rfl

theorem finishWith {r : Retire} {tail : State → State} (h : s.Canonical) (ht : ∀ t, t.Canonical → (tail t).Canonical) :
    (s.finishWith c iword r tail).Canonical := by
  unfold State.finishWith
  dsimp only
  repeat' split
  · exact h
  · exact h.modSlot.clauseGoesOn.killGroup
  · exact h.modSlot.clauseGoesOn.trap
  · exact h.modSlot.clauseGoesOn
  · exact (ht _ h.modSlot.clauseGoesOn).endStep

theorem finish {r : Retire} (h : s.Canonical) : (s.finish c iword r).Canonical := h.finishWith fun _ h => h

theorem finishNext {op : BitVec 10} {stl : BitVec 4} (h : s.Canonical) : (s.finishNext c op stl iword).Canonical := h.finish

theorem wait {w : Wait} (h : s.Canonical) : (s.wait c iword w).Canonical := h.modSlot.endStep

theorem of_readCode {who : Who} {ws : List DWord} (h : s.Canonical) (e : s.readCode who va n = .inr (ws, t)) :
    t.Canonical := by
  unfold State.readCode at e
  repeat' split at e
  all_goals cases e
  exact h.useTrans

theorem armStep (h : s.Canonical) : (s.armStep g).Canonical := by
  unfold State.armStep
  dsimp only
  repeat' split
  · exact h
  · exact h
  · exact h.modGroup
  · exact h.trap

theorem refillReturn (h : s.Canonical) : (s.refillReturn g).Canonical := by
  unfold State.refillReturn
  repeat' split
  · exact h
  · exact h
  · exact h.modGroup
  · exact h.modGroup.refill.armStep

end State.Canonical
end Sys2Proof.Machine

/-!
SUPPORT. The checks before an instruction, the fetch, and control instructions.
-/
namespace Sys2Proof.Machine

/-- A state that a step leads to is canonical. -/
def Result.Canonical (r : Result) : Prop := ∀ t, r = .next t → t.Canonical

namespace Result.Canonical
variable {s : State}

theorem next (h : s.Canonical) : Result.Canonical (.next s) := by
  intro t e
  cases e
  exact h

theorem fault {x : Fault} : Result.Canonical (.fault x) := fun _ e => nomatch e

/-- A word that a slot issues. -/
theorem issue {f : Ctx → State} (hf : ∀ c, (f c).Canonical) : Result.Canonical (s.issue f) := by
  unfold State.issue
  split
  · exact .fault
  · exact .next (hf _)

end Result.Canonical

/-- A state that a fetch leaves is canonical. -/
def Fetched.Canonical : Fetched → Prop
  | .word _ s => s.Canonical
  | .header _ s => s.Canonical
  | .done s => s.Canonical

namespace State.Canonical
variable {s t : State} {g : GRef} {x : SlotId} {bid lid node ser va n kind code : Nat} {c : Ctx} {b : Block}
  {p : Pend} {w : DWord}

/-! The checks before an instruction, and the fetch -/

theorem holdOn {k : Hold} (h : s.Canonical) : (s.holdOn c k).Canonical := h.keep rfl

section
variable {q : Plan} {k : List Opnd → State}

theorem checked (h : s.Canonical) (hk : ∀ os, (k os).Canonical) : (s.checked c q k).Canonical := by
  unfold State.checked
  dsimp only
  repeat' split
  · exact h.trapPlain
  · exact h.trapPlain
  · exact h.trapPlain
  · exact h.holdOn
  · exact h.trapPlain
  · exact h.killGroup
  · exact hk _

theorem checkedOn {early : List Use} (h : s.Canonical) (hk : ∀ os, (k os).Canonical) :
    (s.checkedOn c early q k).Canonical := by
  unfold State.checkedOn
  split
  · exact h.checked hk
  · exact h.holdOn

theorem regular {op : BitVec 10} {stl : BitVec 4} {lat : Nat} {f : List Opnd → Eff} (h : s.Canonical) :
    (s.regular c q op stl lat f).Canonical := by
  refine h.checked fun os => ?_
  dsimp only
  split
  · exact h.modGroup.finishNext
  · exact h.modGroup.modSlot.finishWith fun _ h => h.trap

end

theorem fetchFault {f : SpanFault} (h : s.Canonical) : (s.fetchFault c f).Canonical := by
  unfold State.fetchFault
  split
  · exact h.park
  · exact h.park
  · exact h.killGroup
  · exact h.trap

theorem illcls (h : s.Canonical) : (s.illcls c w).Canonical := h.trap

theorem resumeClause (h : s.Canonical) : (s.resumeClause c w).Canonical := by
  unfold State.resumeClause
  dsimp only
  repeat' split
  · exact h.fetchFault
  · exact h.illcls
  · exact h.fetchFault
  next e => exact (h.of_readCode e).modSlot
  · exact h.illcls

theorem slotWord (h : s.Canonical) : (s.slotWord c).Canonical := by
  unfold State.slotWord
  extract_lets sl ready
  split
  · exact h.refillReturn
  · repeat' split
    · exact h
    · exact h
    · exact h
    · exact h.fetchFault
    · exact h
    next e _ => exact h.of_readCode e
    · exact h.resumeClause
    · exact h.illcls

theorem matrixTrap (h : s.Canonical) : (s.matrixTrap bid code w va).Canonical := by
  unfold State.matrixTrap
  dsimp only
  repeat' split
  · exact h
  · exact h
  · exact h
  · exact h.trap
  · exact h.trap

theorem seqrTrap (h : s.Canonical) : (s.seqrTrap bid code w va).Canonical := h.modBlock.matrixTrap

theorem seqrPark (h : s.Canonical) : (s.seqrPark bid va kind).Canonical := h.modBlock.report

theorem seqrFault {f : SpanFault} (h : s.Canonical) : (s.seqrFault bid w f kind).Canonical := by
  unfold State.seqrFault
  split
  · exact h.seqrPark
  · exact h.seqrPark
  · exact h.kill
  · exact h.seqrTrap

theorem seqrWord (h : s.Canonical) : (s.seqrWord bid).Canonical := by
  unfold State.seqrWord
  dsimp only
  repeat' split
  · exact h
  · exact h
  · exact h
  · exact h.modBlock.seqrFault
  · exact h
  next e => exact h.modBlock.of_readCode e

/-! Control instructions -/

theorem execBra {f : WordB} (h : s.Canonical) : Result.Canonical (execBra f s) :=
  .issue fun _ => h.checked fun _ => h.finish

theorem execBrc {f : WordB} (h : s.Canonical) : Result.Canonical (execBrc f s) :=
  .issue fun _ => h.checked fun _ => h.finish

theorem jumpPair {k : State → State} (h : s.Canonical) (hk : ∀ t, t.Canonical → (k t).Canonical) :
    (s.jumpPair c w va k).Canonical := by
  unfold State.jumpPair
  repeat' split
  · exact h.trapLanes
  · exact h.trapLanes
  · exact hk s h

theorem execCall {f : WordB} (h : s.Canonical) : Result.Canonical (execCall f s) := by
  refine .issue fun c => h.checked fun os => ?_
  split
  · exact h.modGroup.finish
  · exact h

theorem execCalli {f : WordB} (h : s.Canonical) : Result.Canonical (execCalli f s) := by
  refine .issue fun c => h.checked fun os => ?_
  split
  · exact h.jumpPair fun _ h => h.modGroup.finish
  · exact h

theorem entryFault {f : AFault} (h : s.Canonical) : (s.entryFault c w va f).Canonical := by
  unfold State.entryFault
  split
  · exact h.park
  · exact h.trap
  · exact h.killGroup
  · exact h.trapLanes

theorem execCallt {f : WordB} (h : s.Canonical) : Result.Canonical (execCallt f s) := by
  refine .issue fun c => h.checked fun os => ?_
  dsimp only
  repeat' split
  · exact h.trapLanes
  · exact h.entryFault
  · exact h.holdOn
  · exact h.killGroup
  · exact h.useTrans.jumpPair fun _ h => h.modGroup.finish
  · exact h

theorem execRet {f : WordB} (h : s.Canonical) : Result.Canonical (execRet f s) := by
  refine .issue fun c => h.checked fun os => ?_
  split
  · exact h.jumpPair fun _ h => h.finish
  · exact h

theorem split {m k : Lanes} {a d j : DWord} (h : s.Canonical) : (s.split c m k a d j).Canonical := by
  unfold State.split
  dsimp only
  split
  · exact h.modSlot.modSlot
  · exact h.putTail.setDepth.modSlot

theorem execBsplit {f : WordB} (h : s.Canonical) : Result.Canonical (execBsplit f s) := by
  refine .issue fun c => h.checked fun os => ?_
  dsimp only
  repeat' split
  · exact h.finish
  · exact h.finish
  · exact h.trapPlain
  · exact h.holdOn
  · exact h.finishWith fun _ h => h.split
  · exact h

theorem join {a : DWord} (h : s.Canonical) : (s.join c a).Canonical := by
  unfold State.join
  refine State.Canonical.refill ?_
  repeat' split
  · exact h.modGroup.modGroup
  · exact h.modGroup.killGroup
  · exact h.modGroup.setDepth.modSlot
  · exact h.modGroup.putTail.modSlot
  · exact h.modGroup.modSlot

theorem execBjoin {f : WordB} (h : s.Canonical) : Result.Canonical (execBjoin f s) := by
  refine .issue fun c => h.checked fun os => ?_
  extract_lets outer
  repeat' split
  · exact h.finish
  · exact h.holdOn
  · exact h.finishWith fun _ h => h.join

theorem execExit {f : WordB} (h : s.Canonical) : Result.Canonical (execExit f s) := by
  refine .issue fun c => h.checked fun os => ?_
  split
  · exact h.holdOn
  · exact h.finishWith fun _ h => h.modSlot.refill

theorem execYield {f : WordB} (h : s.Canonical) : Result.Canonical (execYield f s) :=
  .issue fun _ => h.checked fun _ => h.finishNext

theorem waitOrGo {op : BitVec 10} {stl : BitVec 4} {e : Wait} (h : s.Canonical) : (s.waitOrGo c op stl w e).Canonical := by
  unfold State.waitOrGo
  split
  · exact h.finishNext
  · exact h.wait

theorem execBbar {f : WordB} (h : s.Canonical) : Result.Canonical (execBbar f s) := by
  refine .issue fun c => h.checked fun os => ?_
  dsimp only
  repeat' split
  · exact h.finishNext
  · exact h
  · exact h.waitOrGo
  · exact h.waitOrGo
  · exact h.holdOn
  · exact h.modGroup.waitOrGo

theorem execGbar {f : WordB} (h : s.Canonical) : Result.Canonical (execGbar f s) := by
  refine .issue fun c => h.checked fun os => ?_
  dsimp only
  repeat' split
  · exact h.finishNext
  · exact h
  · exact h.waitOrGo
  · exact h.waitOrGo
  · exact h.holdOn
  · exact h.modGroup.settleGrid.waitOrGo

theorem trapImm {op : BitVec 10} {f : WordSI} (h : s.Canonical) : Result.Canonical (s.trapImm op f code) :=
  .issue fun _ => h.checked fun _ => h.finishWith fun _ h => h.trap

theorem execSigset {f : WordSI} (h : s.Canonical) : Result.Canonical (execSigset f s) :=
  .issue fun _ => h.checked fun _ => h.finish

theorem readSpecial {f : WordSI} {v : Ctx → Option Word} {also : Group → Group} (h : s.Canonical) :
    Result.Canonical (s.readSpecial f v also) := by
  refine .issue fun c => h.checked fun os => ?_
  split
  · exact h.modGroup.finishNext
  · exact h

theorem writeSpecial {f : WordSI} (h : s.Canonical) : Result.Canonical (s.writeSpecial f) := by
  refine .issue fun c => ?_
  extract_lets ix use ok w early
  split
  · exact h.trapPlain
  · refine h.checkedOn fun os => ?_
    split
    · exact h.modGroup.finishNext
    · exact h

theorem execClauseHeader {f : WordH} (h : s.Canonical) : Result.Canonical (execClauseHeader f s) := by
  refine .issue fun c => ?_
  dsimp only
  split
  · exact h.fetchFault
  next e =>
    have h := h.of_readCode e
    repeat' split
    · exact h.illcls
    · exact h.modSlot
    · exact h.modBlock.modSlot
    · exact h.modSlot.endStepAt

theorem execIllegalOpcode (h : s.Canonical) : Result.Canonical (execIllegalOpcode w s) := .issue fun _ => h.trapPlain

end State.Canonical
end Sys2Proof.Machine

/-!
SUPPORT. Vector and memory instructions, copies, token masks and tickets.
-/
namespace Sys2Proof.Machine

namespace State.Canonical
variable {s t : State} {g : GRef} {x : SlotId} {bid lid node ser va n k kind code cid cause : Nat} {l : Launch} {c : Ctx}
  {b : Block} {p : Pend} {w : DWord} {op : BitVec 10} {stl : BitVec 4} {mism store : Bool} {piece : Option Nat}

/-! Vector instructions whose checks read a register -/

theorem vectorIf {f : WordV} {legal : Ctx → Bool} {early uses wide : List Use} {lat : Nat} {e : Ctx → List Opnd → Eff}
    (h : s.Canonical) : Result.Canonical (s.vectorIf op f legal early uses wide lat e) := by
  refine .issue fun c => ?_
  dsimp only
  split
  · exact h.regular
  · exact h.holdOn

/-! Memory instructions -/

theorem startOp (h : s.Canonical) : (s.startOp c p).Canonical := by
  unfold State.startOp
  dsimp only
  repeat' split
  · exact h.holdOn
  · exact h.modGroup.modSlot
  · exact h.modGroup.modGroup.finishNext

theorem vectorAccess {f : WordM} (h : s.Canonical) : Result.Canonical (s.vectorAccess op f store) := by
  refine .issue fun c => h.checked fun os => ?_
  split
  · exact h.startOp
  · exact h

theorem scalarAccess {f : WordM} (h : s.Canonical) : Result.Canonical (s.scalarAccess op f store) := by
  refine .issue fun c => h.checked fun os => ?_
  split
  · exact h.startOp
  · exact h

theorem blockAccess {f : WordM} (h : s.Canonical) : Result.Canonical (s.blockAccess op f store) := by
  refine .issue fun c => h.checked fun os => ?_
  split
  · exact h.startOp
  · exact h

theorem atomicAccess {f : WordMA} {cas scalar : Bool} (h : s.Canonical) :
    Result.Canonical (s.atomicAccess op f cas scalar) := by
  refine .issue fun c => h.checked fun os => ?_
  split
  · exact h.startOp
  · exact h

theorem execPrfm {f : WordM} (h : s.Canonical) : Result.Canonical (execPrfm f s) :=
  .issue fun _ => h.checked fun _ => h.startOp

theorem execSgjoin {f : WordM} (h : s.Canonical) : Result.Canonical (execSgjoin f s) := by
  refine .issue fun c => h.checkedOn fun os => ?_
  split
  · exact h.startOp
  · exact h

theorem sharingOp {f : WordM} {body : RegCell → Body} (h : s.Canonical) : Result.Canonical (s.sharingOp op f body) := by
  refine .issue fun c => h.checked fun os => ?_
  split
  · exact h.startOp
  · exact h

theorem execPfmap {f : WordM} (h : s.Canonical) : Result.Canonical (execPfmap f s) := by
  refine .issue fun c => h.checked fun os => ?_
  split
  · exact h.startOp
  · exact h

theorem execTlbi {f : WordM} (h : s.Canonical) : Result.Canonical (execTlbi f s) :=
  .issue fun _ => h.checked fun _ => h.startOp

theorem takeAccessFault {f : AFault} {m : Lanes} (h : s.Canonical) : (s.takeAccessFault c p f m va).Canonical := by
  unfold State.takeAccessFault
  dsimp only
  split
  · exact h.modSlot.killGroup
  · split
    · exact h.modSlot.modGroup.finishNext.park
    · exact h.modSlot.modGroup.finishNext
  · exact h.modSlot.trap

theorem walkDone (h : s.Canonical) : (s.walkDone c p mism).Canonical := h.modSlot.modGroup.finishNext

theorem walkMemory (h : s.Canonical) : (s.walkMemory c p).Canonical := by
  unfold State.walkMemory
  repeat' split
  · exact h
  · exact h.takeAccessFault
  · exact h
  next e => exact (h.walkLanes _ _ _ e).walkDone

/-! Copies -/

theorem issueCopy {f : WordC} {tile ok : Bool} {engine : Ctx → Option Nat} (h : s.Canonical) :
    Result.Canonical (s.issueCopy op f tile ok engine) := by
  refine .issue fun c => h.checkedOn fun os => ?_
  dsimp only
  repeat' split
  · exact h.trapLanes
  · exact h.holdOn
  · exact h.holdOn
  · exact State.Canonical.startOp (State.Canonical.land (State.Canonical.modGroup (h.keep (by rfl))))
  · exact h

theorem queryCopy {f : WordC} {v : Option Copy → Nat} (h : s.Canonical) : Result.Canonical (s.queryCopy op f v) := by
  refine .issue fun c => h.checkedOn fun os => ?_
  split
  · exact h.land.finishNext
  · exact h

theorem execCpwait {f : WordC} (h : s.Canonical) : Result.Canonical (execCpwait f s) := by
  refine .issue fun c => ?_
  dsimp only
  split
  · split
    · exact h.finishNext
    · exact h
  · refine h.checkedOn fun os => ?_
    split
    · exact h.waitOrGo
    · exact h

theorem endSer (h : s.Canonical) : (s.endSer g ser).Canonical := by
  unfold State.endSer
  split
  · exact h
  · exact h.endOp

theorem endCopy {st : CopySt} (h : s.Canonical) : (s.endCopy cid st cause).Canonical := by
  unfold State.endCopy
  split
  · exact h
  · exact h.modCopy.endSer

theorem cancelCopy (h : s.Canonical) : (s.cancelCopy cid).Canonical := by
  unfold State.cancelCopy
  split
  · exact h.endCopy
  · exact h.endCopy
  · exact h.modCopy
  · exact h

theorem execCpcan {f : WordC} (h : s.Canonical) : Result.Canonical (execCpcan f s) := by
  refine .issue fun c => h.checkedOn fun os => ?_
  split
  · refine State.Canonical.finishNext ?_
    split
    · exact h.cancelCopy
    · exact h
  · exact h

section
variable {c : Copy} {w : ChunkWork} {all : Bool}

theorem copyFault {f : SpanFault} (h : s.Canonical) : (s.copyFault cid c f).Canonical := by
  unfold State.copyFault
  dsimp only
  repeat' split
  · exact h.modCopy.report
  · exact h.modCopy
  · exact h.endCopy.killGroup
  · exact h.endCopy

theorem copyMixed (h : s.Canonical) : (s.copyMixed cid c mism).Canonical := by
  unfold State.copyMixed
  split
  · exact h.modCopy.modGroup
  · exact h

theorem startChunk (h : s.Canonical) : (s.startChunk cid c b l).Canonical := by
  unfold State.startChunk
  dsimp only
  repeat' split
  · exact h
  · exact h.copyFault
  · exact h.copyFault
  · exact h
  · exact h.useTrans.useTrans.copyMixed.modCopy

theorem copyWrite (h : s.Canonical) : (s.copyWrite cid c w l all).Canonical := by
  unfold State.copyWrite
  extract_lets left next now put written wp moved
  repeat' split
  · exact h.writeFor.modCopy.endCopy
  · exact h.writeFor.modCopy
  · exact h.writeFor.modCopy

theorem copyWork (h : s.Canonical) : (s.copyWork cid c w l piece).Canonical := by
  unfold State.copyWork
  dsimp only
  repeat' split
  · exact h.copyFault
  · exact h.modCopy
  · exact h.modCopy
  · exact h.modCopy
  · exact h.copyWrite

theorem copyNext (h : s.Canonical) : (s.copyNext cid c b l piece).Canonical := by
  unfold State.copyNext
  dsimp only
  repeat' split
  · exact h.copyWork
  · exact h.endCopy
  · exact h.startChunk.copyWork
  · exact h.startChunk
  · exact h.startChunk

end

theorem execCopyStart (h : s.Canonical) : Result.Canonical (execCopyStart s) := by
  unfold Machine.execCopyStart
  split
  · split
    · exact .next h
    · split
      · exact .next h
      · split
        · exact .next h
        · exact .next h.modCopy
  · exact .next h

theorem finishChunks (h : s.Canonical) : (s.finishChunks bid b l).Canonical := by
  refine h.foldl fun t k h => ?_
  repeat' split
  · exact h
  · exact h
  · exact h.copyNext
  · exact h.modCopy

theorem copyChunk (h : s.Canonical) : (s.copyChunk cid piece).Canonical := by
  unfold State.copyChunk
  repeat' split
  · exact h
  · exact h
  · exact h
  · exact h.endCopy
  · exact h.copyNext

theorem execCopyChunk (h : s.Canonical) : Result.Canonical (execCopyChunk s) := by
  unfold Machine.execCopyChunk
  split
  · exact .next h.copyChunk
  · exact .next h.copyChunk
  · exact .next h

theorem resumeCopy (h : s.Canonical) : (s.resumeCopy cid).Canonical := by
  unfold State.resumeCopy
  repeat' split
  · exact h
  · exact h
  · exact h.modCopy
  · exact h

theorem execCopyResume (h : s.Canonical) : Result.Canonical (execCopyResume s) := by
  unfold Machine.execCopyResume
  split
  · exact .next h.resumeCopy
  · exact .next h

/-! Token masks and tickets -/

theorem recordOp {f : WordY} {legal : Ctx → Bool} {more : List Use} {body : Ctx → List Opnd → BridleOp × (Nat → Nat)}
    (h : s.Canonical) : Result.Canonical (s.recordOp op f legal more body) := by
  refine .issue fun c => h.checked fun os => ?_
  split
  · exact h.startOp
  · exact h

theorem execTmload {f : WordY} (h : s.Canonical) : Result.Canonical (execTmload f s) := by
  refine .issue fun c => h.checkedOn fun os => ?_
  split
  · exact h.startOp
  · exact h

theorem sampling {f : WordY} {draws : Bool} (h : s.Canonical) : Result.Canonical (s.sampling op f draws) := by
  refine .issue fun c => h.checkedOn fun os => ?_
  split
  · exact h.startOp
  · exact h

theorem ticketOp {f : WordY} {o : TicketOp} {holds : Ctx → Word → Bool} (h : s.Canonical) :
    Result.Canonical (s.ticketOp op f o holds) := by
  refine .issue fun c => ?_
  dsimp only
  split
  · split
    · exact h.finishNext
    · exact h
  · refine h.checked fun os => ?_
    repeat' split
    · exact h.startOp
    · exact h.holdOn
    · exact h.modGroup.wait
    · exact h

theorem execTicketRelease (h : s.Canonical) : Result.Canonical (execTicketRelease s) := by
  unfold Machine.execTicketRelease
  repeat' split
  · exact .next h
  · exact .next h
  · exact .next h
  · exact .next h.releaseStaged
  · exact .next h

theorem execContq {f : WordY} (h : s.Canonical) : Result.Canonical (execContq f s) := by
  refine .issue fun c => h.checked fun os => ?_
  split
  · exact h.land.finishNext
  · exact h

theorem execTwait {f : WordY} (h : s.Canonical) : Result.Canonical (execTwait f s) := by
  refine .issue fun c => ?_
  dsimp only
  split
  · split
    · exact h.finishNext
    · exact h
  · refine h.checked fun os => ?_
    split
    · exact h.waitOrGo
    · exact h

theorem execTwaitExpiry (h : s.Canonical) : Result.Canonical (execTwaitExpiry s) := by
  unfold Machine.execTwaitExpiry
  repeat' split
  · exact .next h
  · exact .next h.finishNext
  · exact .next h
  · exact .next h
  · exact .next h

end State.Canonical
end Sys2Proof.Machine

/-!
SUPPORT. Collectives, work graphs, the return from a handler, barriers and tiles.
-/
namespace Sys2Proof.Machine

namespace State.Canonical
variable {s t : State} {g : GRef} {x : SlotId} {bid lid node ser va n k kind code ci cause bar : Nat} {l : Launch} {c : Ctx}
  {b : Block} {p : Pend} {w : DWord} {op : BitVec 10} {stl : BitVec 4} {mism : Bool} {piece : Option Nat}
  {m : Comm} {r : RedStep} {offers : List PeerOffer}

/-! Collectives and work graphs -/

theorem execCllred {f : WordY} (h : s.Canonical) : Result.Canonical (execCllred f s) := by
  refine .issue fun c => h.checkedOn fun os => ?_
  dsimp only
  repeat' split
  · exact h.trapLanes
  · exact h.trapLanes
  · exact h.land.finishNext
  · exact h.holdOn
  · exact h.holdOn
  · exact State.Canonical.startOp (State.Canonical.land (State.Canonical.modLaunch (h.keep (by rfl))))
  · exact h

theorem execCllqry {f : WordY} (h : s.Canonical) : Result.Canonical (execCllqry f s) := by
  refine .issue fun c => h.checkedOn fun os => ?_
  split
  · exact h.land.finishNext
  · exact h

theorem modStep {f : RedStep → RedStep} (h : s.Canonical) : (s.modStep ci k f).Canonical := h.keep rfl

theorem redStart {sp dp : Span} (h : s.Canonical) : (s.redStart ci m r sp dp offers).Canonical := by
  unfold State.redStart
  extract_lets who mine sources out used mism marked
  refine State.Canonical.modStep ?_
  unfold marked
  split
  · exact h.useTrans.useTrans.modGroup
  · exact h.useTrans.useTrans

theorem redWrite (h : s.Canonical) : (s.redWrite ci m r piece).Canonical := by
  unfold State.redWrite
  dsimp only
  split
  · exact h.writeFor.modStep.dropOp
  · exact h.writeFor.modStep

theorem redFail (h : s.Canonical) : (s.redFail ci r cause).Canonical := by
  unfold State.redFail
  dsimp only
  split
  · exact h.failSteps.kill
  · exact h.failSteps

theorem redPause {own : Option Nat} (h : s.Canonical) : (s.redPause ci r own).Canonical := by
  unfold State.redPause
  dsimp only
  repeat' split
  · exact h.modStep
  · exact h.modStep
  · exact h.modStep.report

theorem redMeet (h : s.Canonical) : (s.redMeet ci m r offers piece).Canonical := by
  unfold State.redMeet
  extract_lets own ownCause causes failed
  clear_value failed causes ownCause own
  repeat' split
  · exact h.redFail
  · exact h.redFail
  · exact h.redFail
  · exact h.redPause
  · exact h.redPause
  · exact h
  · exact h
  · dsimp only
    split
    · exact h.redStart
    · exact h.redStart.redWrite

theorem stepRun (h : s.Canonical) : (s.stepRun ci n offers piece).Canonical := by
  unfold State.stepRun
  split
  · exact h
  · split
    · split
      · exact h.redWrite
      · split
        · exact h
        · extract_lets late moved
          repeat' split
          · exact h.modStep
          · exact h.modStep
          · exact h.modStep.redMeet
    · exact h

theorem execReductionStepRun (h : s.Canonical) : Result.Canonical (execReductionStepRun n offers s) := by
  unfold Machine.execReductionStepRun
  split
  · exact .next h.stepRun
  · exact .next h.stepRun
  · exact .next h

theorem execStepAbort (h : s.Canonical) : Result.Canonical (execStepAbort n s) := by
  unfold Machine.execStepAbort
  dsimp only
  repeat' split
  · exact .next h
  · exact .next h.failSteps
  · exact .next h.failSteps
  · exact .next h.killOne.failSteps.resetSteps
  · exact .next h

theorem execTetherMemberLost (h : s.Canonical) : Result.Canonical (execTetherMemberLost s) := by
  unfold Machine.execTetherMemberLost
  split
  · exact .next h.failSteps
  · exact .next h

theorem execNemit {f : WordY} (h : s.Canonical) : Result.Canonical (execNemit f s) := by
  refine .issue fun c => h.checked fun os => ?_
  split
  · exact h.startOp
  · exact h

theorem execNodeGatherTimer (h : s.Canonical) : Result.Canonical (execNodeGatherTimer node s) := by
  unfold Machine.execNodeGatherTimer
  repeat' split
  · exact .next h
  · exact .next h.closeBatch
  · exact .next h
  · exact .next h
  · exact .next h

/-! Walks, replayed operations, and the return from a handler -/

theorem walkWhole (h : s.Canonical) : (s.walkWhole c p).Canonical := by
  unfold State.walkWhole
  split
  · exact h
  · split
    · exact h.endStep
    · exact h.takeAccessFault
    next e =>
      have h := h.runWhole _ _ e
      dsimp only
      split
      · exact h.modSlot.finishNext
      · exact h.modSlot.modSlot.finishWith fun _ h => h.trap

theorem pageWalk (h : s.Canonical) : (s.pageWalk c p).Canonical := by
  unfold State.pageWalk
  repeat' split
  · exact h
  · exact h.walkWhole
  · exact h.walkMemory

theorem execPageWalk (h : s.Canonical) : Result.Canonical (execPageWalk s) := by
  unfold Machine.execPageWalk
  repeat' split
  · exact .next h
  · exact .next h
  · exact .next h.pageWalk
  · exact .next h

theorem unpark (h : s.Canonical) : (s.unpark g x).Canonical := h.keep rfl

theorem replayFault {f : AFault} {a : Lanes} (h : s.Canonical) : (s.replayFault c p f a va).Canonical := by
  unfold State.replayFault
  split
  · exact h.killGroup
  · exact h.parkOp
  · exact h.parkOp
  · exact h.dropOp.unpark.trap

theorem replayOne (h : s.Canonical) : (s.replayOne g p).Canonical := by
  unfold State.replayOne
  split
  · exact h
  · split
    · split
      · exact h
      · exact h.replayFault
      next e =>
        have h := h.runWhole _ _ e
        dsimp only
        split
        · exact h.dropOp.unpark
        · exact h.dropOp.unpark.trap
    · split
      · exact h.replayFault
      next e => exact (h.walkLanes _ _ _ e).mapOp.unpark

theorem replay {which : Pend → Bool} (h : s.Canonical) : (s.replay g which).Canonical := by
  unfold State.replay
  split
  · exact h
  · refine h.foldl fun t p h => ?_
    split
    · exact h.replayOne
    · exact h

theorem accessPerform (h : s.Canonical) : (s.accessPerform g ser piece).Canonical := by
  unfold State.accessPerform
  repeat' split
  · exact h.replayOne
  · exact h
  · exact h
  · exact h.replayOne
  · exact h.perform
  · exact h.perform
  · exact h.performPiece
  · exact h

theorem execAccessPerform (h : s.Canonical) : Result.Canonical (execAccessPerform ser s) := by
  unfold Machine.execAccessPerform
  split
  · exact .next h.accessPerform
  · exact .next h.accessPerform
  · exact .next h

theorem parkTrapped (h : s.Canonical) : (s.parkTrapped g p).Canonical := by
  unfold State.parkTrapped
  split
  · exact h.park
  · exact h.modGroup.modSlot

theorem leaveHandler {q : Option Pend} (h : s.Canonical) : (s.leaveHandler g q).Canonical := by
  unfold State.leaveHandler
  repeat' split
  · exact h
  · exact h.killGroup
  · exact h.killGroup
  · exact h.modGroup.replay.refillReturn
  · exact h.modGroup.parkTrapped.replay.refillReturn

theorem returnFrom {q : Option Pend} (h : s.Canonical) : (s.returnFrom c op stl w q).Canonical := by
  unfold State.returnFrom
  dsimp only
  repeat' split
  · exact h.holdOn
  · exact h.finishNext.leaveHandler
  · exact h.finishNext

theorem execEret {f : WordS} (h : s.Canonical) : Result.Canonical (execEret f s) :=
  .issue fun _ => h.checked fun _ => h.returnFrom

theorem execPfpark {f : WordM} (h : s.Canonical) : Result.Canonical (execPfpark f s) := by
  refine .issue fun c => h.checked fun os => ?_
  repeat' split
  · exact h.returnFrom
  · exact h.trapPlain
  · exact h.trapPlain

/-! Barriers and tiles -/

theorem execMbar {f : WordX} (h : s.Canonical) : Result.Canonical (execMbar f s) :=
  .issue fun _ => h.checked fun _ => h.startOp

theorem takeOrWait {e : Wait} (h : s.Canonical) : (s.takeOrWait c op stl w bar e).Canonical := by
  unfold State.takeOrWait
  split
  · exact h.modBlock.finishNext
  · exact h.wait

theorem execMwait {f : WordX} (h : s.Canonical) : Result.Canonical (execMwait f s) :=
  .issue fun _ => h.checked fun _ => h.takeOrWait

theorem execMarrw {f : WordX} (h : s.Canonical) : Result.Canonical (execMarrw f s) := by
  refine .issue fun c => h.checked fun os => ?_
  repeat' split
  · exact h.takeOrWait
  · exact h.takeOrWait
  · exact h.holdOn
  · exact h.modGroup.takeOrWait

theorem tileMove {f : WordX} {d : Want → BitVec 9 → Use} {k : Ctx → Opnd → List Nat → (Nat → Nat × Nat) → State}
    (h : s.Canonical) (hk : ∀ c d ns f, (k c d ns f).Canonical) : Result.Canonical (s.tileMove op f d k) := by
  refine .issue fun c => h.checkedOn fun os => ?_
  split
  · extract_lets line i
    split
    · exact h
    · split
      · exact h.killGroup
      · exact (hk _ _ _ _).finishNext
  · exact h

theorem execAtov {f : WordX} (h : s.Canonical) : Result.Canonical (execAtov f s) := h.tileMove fun _ _ _ _ => h.land

theorem execVtoa {f : WordX} (h : s.Canonical) : Result.Canonical (execVtoa f s) := h.tileMove fun _ _ _ _ => h.modBlock

theorem addTile {w : MWork} (h : s.Canonical) : (s.addTile lid k w).Canonical :=
  h.foldl fun _ _ h => h.foldl fun _ _ h => h.writeFor

end State.Canonical
end Sys2Proof.Machine

/-!
SUPPORT. The matrix sequencer: its words, and the parts of ganged words.
-/
namespace Sys2Proof.Machine

/-- A word that a sequencer issues. -/
theorem Result.Canonical.sequence {s : State} {f : SCtx → State} (hf : ∀ c, (f c).Canonical) :
    Result.Canonical (s.sequence f) := by
  unfold State.sequence
  repeat' split
  · exact .next (hf _)
  · exact .fault
  · exact .fault

namespace State.Canonical
variable {s t : State} {bid lid va n code bar : Nat} {l : Launch} {c : SCtx} {b : Block} {w : DWord} {k : MWork}
  {v : MView} {p : GangPart} {mism write : Bool}

/-! Matrix words -/

theorem modSeqr {f : Sequencer → Sequencer} (h : s.Canonical) : (s.modSeqr bid f).Canonical := h.keep rfl

theorem seqrNext (h : s.Canonical) : (s.seqrNext c).Canonical := h.keep rfl

theorem setH {a : DWord} (h : s.Canonical) : (s.setH c n a).Canonical := h.keep rfl

theorem seqrIllop (h : s.Canonical) : (s.seqrIllop c w).Canonical := h.seqrTrap

theorem execMset {f : WordMR} (h : s.Canonical) : Result.Canonical (execMset f s) := .sequence fun _ => h.setH.seqrNext

theorem execMsetHi {f : WordMR} (h : s.Canonical) : Result.Canonical (execMsetHi f s) := .sequence fun _ => h.setH.seqrNext

theorem execMadd {f : WordMR} (h : s.Canonical) : Result.Canonical (execMadd f s) := .sequence fun _ => h.setH.seqrNext

theorem execMbnz {f : WordMR} (h : s.Canonical) : Result.Canonical (execMbnz f s) := .sequence fun _ => h.keep rfl

theorem execMbra {f : WordMR} (h : s.Canonical) : Result.Canonical (execMbra f s) := .sequence fun _ => h.keep rfl

theorem execMwaitb {f : WordMB} (h : s.Canonical) : Result.Canonical (execMwaitb f s) := by
  refine .sequence fun c => ?_
  split
  · exact h.modBlock.seqrNext
  · exact h

theorem execMarrb {f : WordMB} (h : s.Canonical) : Result.Canonical (execMarrb f s) := by
  refine .sequence fun c => ?_
  split
  · exact h.modBlock.seqrNext
  · exact h

theorem execMend {f : WordME} (h : s.Canonical) : Result.Canonical (execMend f s) := .sequence fun _ => h.modSeqr

theorem execMalloc {f : WordMT} (h : s.Canonical) : Result.Canonical (execMalloc f s) := by
  refine .sequence fun c => ?_
  dsimp only
  repeat' split
  · exact h.seqrIllop
  · exact h.modBlock
  · exact h
  · exact h.modBlock.seqrNext

theorem execMfree {f : WordMT} (h : s.Canonical) : Result.Canonical (execMfree f s) := by
  refine .sequence fun c => ?_
  dsimp only
  split
  · exact h
  · exact h.modBlock.seqrNext

theorem execMzero {f : WordMT} (h : s.Canonical) : Result.Canonical (execMzero f s) := by
  refine .sequence fun c => ?_
  dsimp only
  repeat' split
  · exact h.seqrIllop
  · exact h
  · exact h.modBlock.seqrNext

theorem seqrMixed (h : s.Canonical) : (s.seqrMixed bid mism).Canonical := by
  unfold State.seqrMixed
  split
  · exact h.modGroup
  · exact h

theorem useRead {m : MRead} (h : s.Canonical) : (s.useRead v write m).Canonical := h.useTrans.seqrMixed

theorem of_takeWait (h : s.Canonical) (e : s.takeWait c bar = some t) : t.Canonical := by
  unfold State.takeWait at e
  repeat' split at e
  all_goals cases e
  · exact h
  · exact h.modBlock.modSeqr

theorem beginMma (h : s.Canonical) : (s.beginMma c k).Canonical := by
  unfold State.beginMma
  split
  · exact h
  next e =>
    have taken := h.of_takeWait e
    split
    · exact taken.seqrIllop
    · extract_lets room v
      repeat' split
      · exact h
      · exact taken.seqrFault
      · exact h
      · exact taken.useRead.modBlock.modSeqr.seqrNext

theorem deliver {leader member : Nat} (h : s.Canonical) : (s.deliver leader k member).Canonical := by
  unfold State.deliver
  split
  · exact h.modBlock
  · exact h.modBlock

theorem beginMmag (h : s.Canonical) : (s.beginMmag c k).Canonical := by
  unfold State.beginMmag
  dsimp only
  repeat' split
  · exact h
  · exact h.seqrIllop
  · exact h.seqrFault
  · exact h.seqrFault
  · exact h.seqrIllop
  · exact h.seqrTrap
  · exact h.seqrFault
  · exact h.seqrFault
  · exact h.kill
  · exact h
  · exact (h.useRead.foldl fun _ _ h => h.deliver).seqrNext

theorem beginDrain (h : s.Canonical) : (s.beginDrain c k).Canonical := by
  unfold State.beginDrain
  split
  · exact h
  next e =>
    have taken := h.of_takeWait e
    split
    · exact taken.seqrIllop
    · split
      · exact h
      · split
        · exact h.kill
        · extract_lets read v
          split
          · exact taken.seqrFault
          · exact taken.useRead.modSeqr.seqrNext

theorem seqrArrive (h : s.Canonical) : (s.seqrArrive bid bar).Canonical := by
  unfold State.seqrArrive
  split
  · exact h
  · exact h.modBlock

theorem wordBand (h : s.Canonical) : (s.wordBand c k).Canonical := by
  unfold State.wordBand
  dsimp only
  repeat' split
  · exact h.kill
  · exact h.modBlock.modSeqr
  · exact h.modBlock.modSeqr.seqrArrive

theorem recheckWord (h : s.Canonical) : (s.recheckWord c k).Canonical := by
  unfold State.recheckWord
  dsimp only
  repeat' split
  · exact h.seqrFault
  · exact h
  · exact h.useRead.modSeqr

theorem setDrain {d : Option MWork} (h : s.Canonical) : (s.setDrain bid d).Canonical := h.keep rfl

theorem endDrain (h : s.Canonical) : (s.endDrain c k).Canonical := by
  unfold State.endDrain
  refine State.Canonical.seqrArrive ?_
  split
  · exact h.setDrain.modBlock
  · exact h.setDrain

theorem drainBand (h : s.Canonical) : (s.drainBand c k).Canonical := by
  unfold State.drainBand
  dsimp only
  repeat' split
  · exact h
  · exact h.kill
  · exact h.addTile.endDrain
  · exact h.writeFor.setDrain
  · exact h.writeFor.endDrain

theorem recheckDrain (h : s.Canonical) : (s.recheckDrain c k).Canonical := by
  unfold State.recheckDrain
  extract_lets v ranges
  split
  · exact h.seqrFault
  · exact h.useRead.setDrain

theorem execMatrixWordDone (h : s.Canonical) : Result.Canonical (execMatrixWordDone s) := by
  unfold Machine.execMatrixWordDone
  dsimp only
  repeat' split
  · exact .next h
  · exact .next h
  · exact .next h.wordBand
  · exact .next h.modSeqr.recheckWord
  · exact .next h
  · exact .next h.drainBand
  · exact .next h.modSeqr.recheckDrain
  · exact .next h
  · exact .next h
  · exact .next h.drainBand
  · exact .next h.modSeqr.recheckDrain
  · exact .next h
  · exact .next h
  · exact .next h

/-! Parts of ganged words -/

theorem setPart {q : Option GangPart} (h : s.Canonical) : (s.setPart bid q).Canonical := h.keep rfl

theorem partTrap (h : s.Canonical) : (s.partTrap bid p code va).Canonical := h.setPart.matrixTrap

theorem partFault {f : SpanFault} (h : s.Canonical) : (s.partFault bid p f).Canonical := by
  unfold State.partFault
  split
  · exact h.kill
  · exact h.setPart.report
  · exact h.setPart.report
  · exact h.partTrap

theorem checkPart (h : s.Canonical) : (s.checkPart bid b l p).Canonical := by
  unfold State.checkPart
  dsimp only
  split
  · exact h.partFault
  · split
    · exact h.partFault
    · split
      · exact h.partFault
      · split
        · exact h.kill
        · split
          · exact h
          · exact h.useRead.useRead.modBlock.setPart

theorem beginPart (h : s.Canonical) : (s.beginPart bid b l p).Canonical := by
  unfold State.beginPart
  extract_lets w taken room word
  have takenOk : taken.Canonical := by
    unfold taken
    split
    · exact h
    · exact h.modBlock
  split
  · exact h
  · split
    · exact takenOk.partTrap
    · split
      · exact h
      · exact takenOk.setPart

theorem partBand (h : s.Canonical) : (s.partBand bid l p).Canonical := by
  unfold State.partBand
  dsimp only
  repeat' split
  · exact h.kill
  · exact h.modBlock.setPart
  · exact h.modBlock.setPart.seqrArrive

theorem execGangPartRun (h : s.Canonical) : Result.Canonical (execGangPartRun s) := by
  unfold Machine.execGangPartRun
  repeat' split
  · exact .next h
  · exact .next h
  · exact .next h.beginPart
  · exact .next h.partBand
  · exact .next h
  · exact .next h.checkPart
  · exact .next h
  · exact .next h

end State.Canonical
end Sys2Proof.Machine

/-!
SUPPORT. Admission, the schedule, and blocks that leave their core and come back.
-/
namespace Sys2Proof.Machine

namespace State.Canonical
variable {s t : State} {g : GRef} {x : SlotId} {bid lid core vif va n asid len : Nat} {l : Launch} {b : Block} {p : Pend}
  {who : Who} {why : SwapWhy} {f : Candidate}

/-! Admission -/

theorem keepRcbs {path : List Rcb} (h : s.Canonical) : (s.keepRcbs path).Canonical := h.keep rfl

theorem restoreShare (h : s.Canonical) : (s.restoreShare b).Canonical := Memory.wf_putAt _ _ (Memory.wf_clear _ _ _ h)

theorem enterPending (h : s.Canonical) : (s.enterPending bid).Canonical := by
  unfold State.enterPending
  split
  · exact h
  · exact h.modCore

theorem startSlice (h : s.Canonical) : (s.startSlice vif).Canonical := by
  unfold State.startSlice
  split
  · exact h
  · exact h.modVif

/-- Ballast taken where it fits. -/
theorem reserve_getD {rcb size : Nat} {u : BallastUse} (h : s.Canonical) : ((s.reserve rcb size u).getD s).Canonical := by
  cases e : s.reserve rcb size u with
  | none => exact h
  | some t => exact h.of_reserve e

theorem refuseLaunch (h : s.Canonical) : (s.refuseLaunch lid n).Canonical := by
  unfold State.refuseLaunch
  split
  · exact h
  · exact h.modLaunch.complete.writeRcbStatus

theorem admitFirst (h : s.Canonical) : (s.admitFirst f core).Canonical := by
  unfold State.admitFirst
  split
  · exact h
  next l b n slots off _ =>
    extract_lets bid started funded filled listed shared counted
    have fundedOk : funded.Canonical := by
      unfold funded
      split
      · exact h.startSlice
      · exact h.startSlice.reserve_getD
    have sharedOk : shared.Canonical := State.Canonical.restoreShare (fundedOk.keep (by rfl))
    have countedOk : counted.Canonical := by
      unfold counted
      split
      · exact sharedOk.modLaunch
      · exact sharedOk.modLaunch
    exact countedOk.enterPending.writeUse.writeRcbStatus

theorem execBlockAdmit (h : s.Canonical) : Result.Canonical (execBlockAdmit f core s) := by
  unfold Machine.execBlockAdmit
  dsimp only
  repeat' split
  · exact .next h
  · exact .next h
  · exact .next h.refuseLaunch
  · exact .next h.keepRcbs.refuseLaunch
  · exact .next h.keepRcbs.admitFirst
  · exact .next h
  · exact .next h.admitFirst
  · exact .next h
  · exact .next h.admitFirst
  · exact .next h
  · exact .next h

/-! Time, and the groups that run -/

theorem nextActor (h : s.Canonical) : s.nextActor.2.Canonical := by
  unfold State.nextActor
  split
  · exact h.keep rfl
  · exact h

theorem hostStores {cells : List (Nat × Byte)} (h : s.Canonical) : (s.hostStores cells).Canonical := h.putPhys

theorem tick (h : s.Canonical) : s.tick.Canonical := h.keep rfl

theorem execPendingToActive (h : s.Canonical) : Result.Canonical (execPendingToActive s) := by
  unfold Machine.execPendingToActive
  repeat' split
  · exact .next h
  · exact .next h
  · exact .next h
  · exact .next h.modCore
  · exact .next h

theorem execActiveSetExchange (h : s.Canonical) : Result.Canonical (execActiveSetExchange s) := by
  unfold Machine.execActiveSetExchange
  repeat' split
  · exact .next h
  · exact .next h
  · exact .next h.modCore
  · exact .next h
  · exact .next h

/-! Blocks that leave their core and come back -/

theorem haltBlock (h : s.Canonical) : (s.haltBlock bid b).Canonical := by
  unfold State.haltBlock
  dsimp only
  split
  · exact h.foldl fun _ _ h => h.quiesce
  · exact h.finishChunks.foldl fun _ _ h => h.quiesce

theorem of_swapRoom (h : s.Canonical) (e : s.swapRoom l bid b = some t) : t.Canonical := by
  unfold State.swapRoom at e
  dsimp only at e
  obtain ⟨u, eu, et⟩ := Option.bind_eq_some_iff.mp e
  have first : u.Canonical := by
    split at eu
    · exact h.of_reserve eu
    · cases eu
      exact h
  split at et
  · cases et
    exact first
  · exact first.of_reserve et

theorem stash (h : s.Canonical) : (s.stash bid why).Canonical := h.keep rfl

theorem leaveTiles (h : s.Canonical) : (s.leaveTiles b).Canonical := by
  unfold State.leaveTiles
  dsimp only
  split
  · exact h
  · exact h.modBlock

theorem swapOut (h : s.Canonical) : (s.swapOut bid why).Canonical := by
  unfold State.swapOut
  dsimp only
  split
  · exact h
  · split
    · exact h
    · split
      · split
        · exact h.haltBlock.modBlock
        · split
          · exact h
          next e =>
            have room := h.haltBlock.modBlock.of_swapRoom e
            split
            · exact room.leaveTiles.stash.writeUse
            · exact room.stash.writeUse
      · exact h.haltBlock.modBlock

theorem execBlockSwapOut (h : s.Canonical) : Result.Canonical (execBlockSwapOut s) := by
  unfold Machine.execBlockSwapOut
  repeat' split
  · exact .next h
  · exact .next h.swapOut
  · exact .next h

theorem execParktExpiry (h : s.Canonical) : Result.Canonical (execParktExpiry s) := by
  unfold Machine.execParktExpiry
  repeat' split
  · exact .next h.swapOut
  · exact .next h
  · exact .next h
  · exact .next h

theorem lateCopies (h : s.Canonical) : (s.lateCopies bid).Canonical := h.keep rfl

theorem deliverKept (h : s.Canonical) : (s.deliverKept bid).Canonical := by
  refine h.foldl fun t k h => State.Canonical.modBlock (h.foldl fun t u h => ?_)
  dsimp only
  split
  · exact h.modBlock
  · exact h.useRead.modBlock

theorem replayBlock {which : Pend → Bool} (h : s.Canonical) : (s.replayBlock bid which).Canonical := by
  unfold State.replayBlock
  split
  · exact h
  · exact h.foldl fun _ _ h => h.replay

theorem readmit (h : s.Canonical) : (s.readmit bid core).Canonical := by
  unfold State.readmit
  split
  next old l _ _ slots off _ _ =>
    extract_lets age placed shared cleared freed funded moved delivered replayed ran
    have sharedOk : shared.Canonical := by
      unfold shared
      split
      · exact h.startSlice.modBlock
      · exact h.startSlice.modBlock.restoreShare
    have fundedOk : funded.Canonical := by
      unfold funded
      split
      · exact sharedOk.modBlock.releaseOf
      · exact sharedOk.modBlock.releaseOf.reserve_getD
    have deliveredOk : delivered.Canonical := State.Canonical.deliverKept (State.Canonical.lateCopies (fundedOk.keep (by rfl)))
    exact deliveredOk.replayBlock.modBlock.enterPending.writeUse
  · exact h

theorem execBlockReadmit (h : s.Canonical) : Result.Canonical (execBlockReadmit core s) := by
  unfold Machine.execBlockReadmit
  repeat' split
  · exact .next h
  · exact .next h.readmit
  · exact .next h
  · exact .next h

theorem resolveRange (h : s.Canonical) : (s.resolveRange lid who va len).Canonical := by
  refine h.foldl fun t q h => ?_
  split
  · exact h.mapPage
  · exact h

theorem resolveOp (h : s.Canonical) : (s.resolveOp lid who p).Canonical := h.foldl fun _ _ h => h.resolveRange

theorem resolveSlot (h : s.Canonical) : (s.resolveSlot g x).Canonical := by
  unfold State.resolveSlot
  dsimp only
  repeat' split
  · exact h
  · exact h
  · exact h.resolveRange.foldl fun _ _ h => h.resolveOp
  · exact h.resolveRange
  · exact h

theorem retrySlot (h : s.Canonical) : (s.retrySlot g x).Canonical := by
  unfold State.retrySlot
  dsimp only
  repeat' split
  · exact h
  · exact h
  · exact h
  · exact h
  · exact h.replay
  · exact h
  · exact h
  · exact h.modSlot
  · exact h
  · exact h
  · exact h.modSlot

theorem retryAt {go : State → State} (h : s.Canonical) (hg : ∀ t, t.Canonical → (go t).Canonical) :
    (s.retryAt bid va go).Canonical := by
  unfold State.retryAt
  dsimp only
  split
  · exact h.resolveRange
  · exact h.resolveRange
  · exact hg _ h.resolveRange

theorem retry {r : ParkedRef} (h : s.Canonical) : (s.retry r).Canonical := by
  unfold State.retry
  dsimp only
  repeat' split
  · exact h.resolveSlot.retrySlot
  · exact h.resolveSlot
  · exact h.retryAt fun _ h => h.modBlock
  · exact h
  · exact h.retryAt fun _ h => h.modBlock
  · exact h
  · exact h
  · exact h
  · exact h
  · exact (h.foldl fun _ _ h => h.resolveRange).resumeCopy
  · exact h.resumeCopy
  · exact h
  · exact h
  next e => exact (writeBack_keeps _ _ _ h e).modBound
  · exact h
  · exact h
  · exact h.foldl fun _ _ h => h.resolveRange

theorem pauseBlock (h : s.Canonical) : (s.pauseBlock bid).Canonical := by
  unfold State.pauseBlock
  dsimp only
  repeat' split
  · exact h
  · exact h.haltBlock.modBlock.modBlock.unschedule.clearPages
  · exact h.haltBlock.modBlock

theorem resumeBlock (h : s.Canonical) : (s.resumeBlock bid).Canonical :=
  (h.modBlock.foldl fun _ _ h => h.retrySlot.retrySlot).lateCopies.enterPending

theorem exchangeCore (h : s.Canonical) : (s.exchangeCore core).Canonical :=
  (h.foldl fun _ _ h => h.pauseBlock).modCore.foldl fun _ _ h => h.resumeBlock

theorem preemptCores {cores : List Nat} {into : Option Nat} (h : s.Canonical) : (s.preemptCores cores into).Canonical := by
  have exchanged := h.foldl (l := cores) fun _ core h => h.exchangeCore (core := core)
  unfold State.preemptCores
  dsimp only
  split
  · exact exchanged
  · exact exchanged.modVif

theorem execPreempt {cores : List Nat} (h : s.Canonical) : Result.Canonical (execPreempt cores s) := by
  unfold Machine.execPreempt
  dsimp only
  repeat' split
  · exact .next h
  · exact .next h.preemptCores
  · exact .next h
  · exact .next h.preemptCores
  · exact .next h
  · exact .next h

theorem execQuantumExpiry (h : s.Canonical) : Result.Canonical (execQuantumExpiry s) := by
  unfold Machine.execQuantumExpiry
  dsimp only
  repeat' split
  · exact .next h.preemptCores
  · exact .next h
  · exact .next h

theorem execCoreRetire (h : s.Canonical) : Result.Canonical (execCoreRetire s) := by
  unfold Machine.execCoreRetire
  repeat' split
  · exact .next (h.keep rfl)
  · exact .next h
  · exact .next h

theorem flushAll (h : s.Canonical) : s.flushAll.Canonical := h.foldl fun _ _ h => h.flushFaults

theorem execParkedFaultRetry {r : ParkedRef} (h : s.Canonical) : Result.Canonical (execParkedFaultRetry r s) := by
  unfold Machine.execParkedFaultRetry
  dsimp only
  repeat' split
  · exact .next h.flushAll.retry
  · exact .next h.flushAll
  · exact .next h

theorem resumeRange (h : s.Canonical) : (s.resumeRange asid n len).Canonical := h.foldl fun _ _ h => h.retry

end State.Canonical
end Sys2Proof.Machine

/-!
SUPPORT. The loader.
-/
namespace Sys2Proof.Machine

namespace State.Canonical
variable {s t : State} {k va pa n asid vif base size : Nat} {c d : CodeObj} {bs : List Byte}

/-! The loader -/

theorem of_fwTake {a al : Nat} (h : s.Canonical) (e : s.fwTake size al = some (a, t)) : t.Canonical := by
  obtain ⟨b, -, eb⟩ := Option.map_eq_some_iff.mp e
  cases eb
  exact h.zeroRange.keep rfl

theorem of_mapDown {leaf table : Nat} {ls : List Level} (h : s.Canonical) (e : s.mapDown va leaf ls table = some t) :
    t.Canonical := by
  induction ls generalizing s table with
  | nil => cases e
  | cons l r ih =>
    cases r with
    | nil =>
      unfold State.mapDown at e
      dsimp only at e
      split at e
      · cases e
        exact h.storeNum
      · cases e
    | cons m r =>
      unfold State.mapDown at e
      dsimp only at e
      split at e
      · exact ih h e
      · obtain ⟨⟨a, u⟩, eu, et⟩ := Option.bind_eq_some_iff.mp e
        exact ih (h.of_fwTake eu).storeNum et
      · cases e

theorem of_mapPages {type : Nat} (h : s.Canonical) (e : s.mapPages asid va pa type n = some t) : t.Canonical := by
  induction n generalizing s va pa with
  | zero =>
    cases e
    exact h
  | succ n ih =>
    unfold State.mapPages at e
    split at e
    · cases e
    · obtain ⟨u, eu, et⟩ := Option.bind_eq_some_iff.mp e
      exact ih (h.of_mapDown eu) et

theorem of_relocate {o : ObjHead} {placed : List (Sect × Nat)} {is : List Nat} (h : s.Canonical)
    (e : s.relocate c o placed is = some t) : t.Canonical := by
  induction is generalizing s with
  | nil =>
    cases e
    exact h
  | cons i r ih =>
    unfold State.relocate at e
    dsimp only at e
    split at e
    · exact ih h.storeNum e
    · cases e

theorem of_placeSects {xs : List Sect} {placed : List (Sect × Nat)} (h : s.Canonical)
    (e : s.placeSects bs xs = some (t, placed)) : t.Canonical := by
  induction xs generalizing s t placed with
  | nil =>
    cases e
    exact h
  | cons x r ih =>
    obtain ⟨⟨a, u⟩, eu, et⟩ := Option.bind_eq_some_iff.mp e
    obtain ⟨⟨v, ps⟩, ev, et⟩ := Option.map_eq_some_iff.mp et
    cases et
    exact ih (h.of_fwTake eu).storeBytes ev

theorem of_mapSects {placed : List (Sect × Nat)} (h : s.Canonical) (e : s.mapSects asid base placed = some t) :
    t.Canonical := by
  induction placed generalizing s with
  | nil =>
    cases e
    exact h
  | cons p r ih =>
    obtain ⟨u, eu, et⟩ := Option.bind_eq_some_iff.mp e
    exact ih (h.of_mapPages eu) et

theorem stubLinks {placed : List (Sect × Nat)} (h : s.Canonical) : (s.stubLinks placed).Canonical := by
  refine h.foldl fun t p h => ?_
  split
  · exact h.foldl fun _ _ h => h.storeNum
  · exact h

theorem of_translateKernel {kernel v : Nat} (h : s.Canonical) (e : s.translateKernel k c kernel n v = some (t, d)) :
    t.Canonical := by
  unfold State.translateKernel at e
  dsimp only at e
  repeat' split at e
  all_goals cases e
  · exact h
  · exact h.storeBytes.keep rfl

theorem of_translateAll {is : List Nat} (h : s.Canonical) (e : s.translateAll k c is = some (t, d)) : t.Canonical := by
  induction is generalizing s c with
  | nil =>
    cases e
    exact h
  | cons i r ih =>
    obtain ⟨⟨u, b⟩, eu, et⟩ := Option.bind_eq_some_iff.mp e
    exact ih (h.of_translateKernel eu) et

theorem install (h : s.Canonical) : (s.install k).2.Canonical := by
  unfold State.install
  split
  · exact h
  · split
    · exact h
    · extract_lets o maps free
      split
      · exact h
      · split
        · exact h
        next placed ep =>
          split
          · exact h
          next er =>
            have linked := ((h.of_placeSects ep).of_relocate er).stubLinks (placed := placed)
            extract_lets stubbed
            split
            · exact h
            next u _ et =>
              have translated : u.Canonical := by
                split at et
                · exact linked.of_translateAll et
                · cases et
                  exact linked
              split
              · exact h
              next em => exact (translated.of_mapSects em).keep rfl

theorem loadObject {lazy : Bool} (h : s.Canonical) : (s.loadObject vif asid va size lazy).2.2.Canonical := by
  unfold State.loadObject
  extract_lets bs
  split
  · exact h
  · split
    · exact h
    · extract_lets listed
      have listedOk : listed.Canonical := h.keep rfl
      split
      · exact listedOk
      · split
        next e => exact listedOk.install.snd e
        next => exact h

theorem of_bindEntry {a : Nat} (h : s.Canonical) (e : s.bindEntry asid va = some (a, t)) : t.Canonical := by
  unfold State.bindEntry at e
  split at e
  · cases e
  · split at e
    · cases e
    · split at e
      next ei =>
        obtain ⟨p, -, ep⟩ := Option.map_eq_some_iff.mp e
        cases ep
        exact (h.install.snd ei).keep rfl
      next => cases e

theorem unbindLinks (h : s.Canonical) : (s.unbindLinks c).Canonical := by
  refine h.foldl fun t o h => h.foldl fun t b h => ?_
  repeat' split
  · exact h.storeNum
  · exact h
  · exact h

theorem unmapPages (h : s.Canonical) : (s.unmapPages asid va n).Canonical := by
  induction n generalizing s va with
  | zero => exact h
  | succ n ih =>
    unfold State.unmapPages
    refine ih ?_
    split
    · exact h.storeNum
    · exact h

theorem unloadObject (h : s.Canonical) : (s.unloadObject k).Canonical := by
  unfold State.unloadObject
  split
  · exact h
  · exact State.Canonical.invalidate ((h.unbindLinks.foldl fun _ _ h => h.unmapPages).keep rfl)

end State.Canonical

end Sys2Proof.Machine

/-!
SUPPORT. Queues, commands, launches and communicators.
-/
namespace Sys2Proof.Machine

namespace State.Canonical
variable {s t : State} {i k v w n lid asid ci code aux now q : Nat} {e : Entry} {bs : List Byte}

/-! Queues -/

theorem putQueueState {q : QSlot} (h : s.Canonical) : (s.putQueueState q n).Canonical := h.storeNum

theorem unmapSlot {error : Bool} (h : s.Canonical) : (s.unmapSlot i error).Canonical := by
  unfold State.unmapSlot
  split
  · exact h
  · extract_lets freed written
    have writtenOk : written.Canonical := State.Canonical.putQueueState (State.Canonical.storeNum (h.keep (by rfl)))
    split
    · exact writtenOk.modVif
    · exact writtenOk

theorem ring (h : s.Canonical) : (s.ring i w now).Canonical := by
  unfold State.ring
  repeat' split
  · exact h
  · exact h.unmapSlot
  · exact h.keep rfl

theorem mapSlot (h : s.Canonical) : (s.mapSlot i v q w now).Canonical := by
  unfold State.mapSlot
  split
  · exact h
  · exact State.Canonical.ring (State.Canonical.putQueueState (h.keep (by rfl)))

theorem serveOverflow (fuel : Nat) (h : s.Canonical) : (s.serveOverflow fuel).Canonical := by
  induction fuel generalizing s with
  | zero => exact h
  | succ fuel ih =>
    unfold State.serveOverflow
    split
    · exact ih (State.Canonical.mapSlot (h.keep (by rfl)))
    · exact h

theorem refillSlots (h : s.Canonical) : s.refillSlots.Canonical := h.serveOverflow _

theorem execDoorbell {x : DWord} (h : s.Canonical) : Result.Canonical (execDoorbell q x s) := by
  unfold Machine.execDoorbell
  dsimp only
  repeat' split
  · exact .next h
  · exact .next h.ring.refillSlots
  · exact .next (h.keep rfl)
  · exact .next (State.Canonical.mapSlot (h.keep (by rfl))).refillSlots
  · exact .next (h.keep rfl)
  · exact .next (State.Canonical.unmapSlot (h.keep (by rfl))).mapSlot.refillSlots
  · exact .next h

theorem execQueueIdleUnmap (h : s.Canonical) : Result.Canonical (execQueueIdleUnmap s) := by
  unfold Machine.execQueueIdleUnmap
  repeat' split
  · exact .next h
  · exact .next h.unmapSlot.refillSlots
  · exact .next h
  · exact .next h

/-! Commands -/

theorem startEntry {want : Entry → Bool} {f : State → QSlot → Entry → State} (h : s.Canonical)
    (hf : ∀ t q e, t.Canonical → (f t q e).Canonical) : Result.Canonical (s.startEntry want f) := by
  unfold State.startEntry
  dsimp only
  repeat' split
  · exact .next h
  · exact .next (hf _ _ _ (State.Canonical.boundary (h.keep (by rfl))))
  · exact .next h
  · exact .next h

theorem begin {q : QSlot} (h : s.Canonical) : (s.begin q e).Canonical := h.keep rfl

theorem done (h : s.Canonical) : (s.done e code aux).Canonical := h.complete

theorem endCmd {c : Cmd} (h : s.Canonical) : (s.endCmd c code aux).Canonical := State.Canonical.complete (h.keep (by rfl))

theorem execSignal (h : s.Canonical) : Result.Canonical (execSignal s) := by
  refine h.startEntry fun t q e h => ?_
  split
  · exact h.done
  · exact h.done

theorem execWait (h : s.Canonical) : Result.Canonical (execWait s) := by
  refine h.startEntry fun t q e h => ?_
  split
  · exact h.begin
  · exact h.done

theorem execWaitSatisfied (h : s.Canonical) : Result.Canonical (execWaitSatisfied s) := by
  unfold Machine.execWaitSatisfied
  repeat' split
  · exact .next h
  · exact .next h.endCmd
  · exact .next h

theorem execQuantum (h : s.Canonical) : Result.Canonical (execQuantum s) := h.startEntry fun _ _ _ h => h.modVif.done

theorem execFaultq (h : s.Canonical) : Result.Canonical (execFaultq s) := by
  refine h.startEntry fun t q e h => ?_
  split
  · exact h.done
  · exact h.modVif.flushFaults.done

theorem execResume (h : s.Canonical) : Result.Canonical (execResume s) := h.startEntry fun _ _ _ h => h.resumeRange.done

theorem execRcbsync (h : s.Canonical) : Result.Canonical (execRcbsync s) := by
  refine h.startEntry fun t q e h => ?_
  split
  · exact h.done
  · exact h.keepRcbs.done

theorem execPool (h : s.Canonical) : Result.Canonical (execPool s) := by
  refine h.startEntry fun t q e h => ?_
  repeat' split
  · exact h.done
  · exact h.done
  · exact State.Canonical.done (h.keep (by rfl))

theorem execAsidset (h : s.Canonical) : Result.Canonical (execAsidset s) := by
  unfold Machine.execAsidset
  split
  · split
    · exact .next h
    · exact .next h.invalidate.endCmd
  · refine h.startEntry fun t q e h => ?_
    extract_lets asid mapped
    have mappedOk : mapped.Canonical := h.keep rfl
    repeat' split
    · exact h.done
    · exact h.done
    · exact mappedOk.invalidate.done
    · exact mappedOk.begin

theorem execLoad (h : s.Canonical) : Result.Canonical (execLoad s) := by
  refine h.startEntry fun t q e h => ?_
  dsimp only
  repeat' split
  · exact h.done
  · exact h.done
  · exact h.loadObject.boundary.done

theorem execUnload (h : s.Canonical) : Result.Canonical (execUnload s) := by
  unfold Machine.execUnload
  split
  · repeat' split
    · exact .next h
    · exact .next h.endCmd
    · exact .next h.unloadObject.endCmd
  · refine h.startEntry fun t q e h => ?_
    dsimp only
    repeat' split
    · exact h.done
    · exact h.begin
    · exact h.unloadObject.done

/-! Launches -/

theorem of_prepare {r : Chosen} {pc : Nat} {ms : Option Nat} (h : s.Canonical) (e : s.prepare r = .inr (t, pc, ms)) :
    t.Canonical := by
  unfold State.prepare at e
  split at e
  next ei =>
    have installed := h.install.snd ei
    split at e
    · cases e
    · split at e
      · cases e
        exact installed
      · split at e
        · cases e
        next et =>
          split at e
          · cases e
          · cases e
            exact installed.of_translateKernel et
  · cases e

theorem of_makeNodes {eff : EffRcb} {nodes : Nat} {is : List Nat} {ns : List Node} (h : s.Canonical)
    (e : s.makeNodes asid k eff nodes is = .inr (t, ns)) : t.Canonical := by
  induction is generalizing s t ns with
  | nil =>
    cases e
    exact h
  | cons i r ih =>
    unfold State.makeNodes at e
    dsimp only at e
    split at e
    · cases e
    · split at e
      · cases e
      · split at e
        · cases e
        · split at e
          · cases e
          · split at e
            · cases e
            next ep =>
              split at e
              · cases e
              next en =>
                cases e
                exact ih (h.of_prepare ep) en

theorem of_checkLaunch {q : QSlot} {lpb : Nat} {l : Launch} {path : List Rcb} (h : s.Canonical)
    (e : s.checkLaunch q lpb bs = .inr (t, l, path)) : t.Canonical := by
  unfold State.checkLaunch at e
  extract_lets f at e
  split at e
  · cases e
  · split at e
    · cases e
    · split at e
      · cases e
      · extract_lets contract need at e
        iterate 5
          split at e
          · cases e
        split at e
        · cases e
        next ep =>
          split at e
          · cases e
          next en =>
            cases e
            exact (h.of_prepare ep).of_makeNodes en

theorem execLaunch (h : s.Canonical) : Result.Canonical (execLaunch s) := by
  refine h.startEntry fun t q e h => ?_
  dsimp only
  split
  · exact h.done
  · split
    · split
      · exact h.complete.writeRcbStatus
      · exact h.complete
    next ec => exact (State.Canonical.writeRcbStatus ((h.of_checkLaunch ec).keep (by rfl))).boundary

theorem execTimedLaunchStart (h : s.Canonical) : Result.Canonical (execTimedLaunchStart s) := by
  unfold Machine.execTimedLaunchStart
  repeat' split
  · exact .next h
  · exact .next h.modLaunch
  · exact .next h
  · exact .next h

theorem execLaunchComplete (h : s.Canonical) : Result.Canonical (execLaunchComplete s) := by
  unfold Machine.execLaunchComplete
  repeat' split
  · exact .next h
  · exact .next h
  next ew =>
    exact .next (State.Canonical.modLaunch ((h.writeBackAll.fst ew).keep (by rfl))).complete.writeRcbStatus.writeUse
  next ew => exact .next ((h.writeBackAll.fst ew).foldl fun _ _ h => h.reportWriteBack)
  · exact .next h

theorem execSnapshotUnitCopy (h : s.Canonical) : Result.Canonical (execSnapshotUnitCopy n s) := by
  unfold Machine.execSnapshotUnitCopy
  repeat' split
  · exact .next h.snapUnit
  · exact .next h
  · exact .next h

/-! Communicators -/

theorem commStatus {a b c d : Nat} (h : s.Canonical) : (s.commStatus a b c d).Canonical := h.storeBytes

theorem execCommcreate (h : s.Canonical) : Result.Canonical (execCommcreate s) := by
  refine h.startEntry fun t q e h => ?_
  dsimp only
  repeat' split
  · exact h.done
  · exact h.commStatus.done
  · exact h.commStatus.done
  · exact h.commStatus.done
  · exact h.keep rfl

theorem endSetup {c : Comm} {a b : Nat} (h : s.Canonical) : (s.endSetup ci c a b).Canonical := by
  unfold State.endSetup
  extract_lets ok ended told
  have toldOk : told.Canonical := State.Canonical.commStatus (h.keep (by rfl))
  split
  · exact toldOk
  · exact toldOk.endCmd

theorem execSetupExchange {answers : List PeerAnswer} (h : s.Canonical) : Result.Canonical (execSetupExchange answers s) := by
  unfold Machine.execSetupExchange
  dsimp only
  repeat' split
  · exact .next h
  · exact .next h.endSetup
  · exact .next h
  · exact .next h

theorem execCommcreateTimeout (h : s.Canonical) : Result.Canonical (execCommcreateTimeout s) := by
  unfold Machine.execCommcreateTimeout
  repeat' split
  · exact .next h
  · exact .next h.endSetup
  · exact .next h
  · exact .next h

theorem freeCommAt (h : s.Canonical) : (s.freeCommAt ci).Canonical := h.keep rfl

theorem execCommdestroy (h : s.Canonical) : Result.Canonical (execCommdestroy s) := by
  unfold Machine.execCommdestroy
  split
  · dsimp only
    repeat' split
    · exact .next h
    · exact .next h.endCmd
    · exact .next h.freeCommAt.endCmd
  · refine h.startEntry fun t q e h => ?_
    repeat' split
    · exact h.done
    · exact h.freeCommAt.done
    · exact h.keep rfl

end State.Canonical
end Sys2Proof.Machine

/-!
SUPPORT. The host's accesses, events of the device, and firmware's handlers.
-/
namespace Sys2Proof.Machine

namespace State.Canonical
variable {s t : State} {v n off len celsius port size offset : Nat} {value : DWord} {words : List (Nat × Bool)}

/-! The host's registers and requests -/

theorem answer {a : Answer} (h : s.Canonical) : (s.answer a).Canonical := h.keep rfl

theorem overLink {f : Vif → State} (h : s.Canonical) (hf : ∀ w, (f w).Canonical) : (s.overLink v f).Canonical := by
  unfold State.overLink
  repeat' split
  · exact h
  · exact h
  · exact h.answer
  · exact h
  · exact hf _

theorem hostAccess {f : Nat → Vif → State} (h : s.Canonical) (hf : ∀ v w, (f v w).Canonical) :
    Result.Canonical (s.hostAccess f) := by
  unfold State.hostAccess
  split
  · exact .next (h.overLink (hf _))
  · exact .next h

theorem hostRead (h : s.Canonical) : (s.hostRead n off len).Canonical := by
  refine h.overLink fun w => ?_
  split
  · exact h.answer
  · exact h.answer

theorem readTelemetry (h : s.Canonical) : (s.readTelemetry port).Canonical := by
  unfold State.readTelemetry
  split
  · exact h
  · exact h.answer

theorem execQtbaseWrite (h : s.Canonical) : Result.Canonical (execQtbaseWrite value s) :=
  h.hostAccess fun _ _ => (h.foldl fun _ _ h => h.unmapSlot).modVif.refillSlots

theorem execVistatWrite (h : s.Canonical) : Result.Canonical (execVistatWrite value s) := h.hostAccess fun _ _ => h.modVif

theorem execVireset (h : s.Canonical) : Result.Canonical (execVireset value s) := by
  refine h.hostAccess fun v w => ?_
  split
  · exact h
  · exact h.foldl fun _ _ h => h.killOne

theorem raiseVistat {bit : DWord} (h : s.Canonical) : (s.raiseVistat v bit).Canonical := h.keep rfl

theorem execViRegisterWrite (h : s.Canonical) : Result.Canonical (execViRegisterWrite off size value s) := by
  refine h.hostAccess fun v w => ?_
  repeat' split
  · exact h.raiseVistat
  · exact h
  · exact h.raiseVistat
  · exact h.modVif
  · exact h.modVif
  · exact h

theorem apertureFault (h : s.Canonical) : (s.apertureFault v).Canonical := h.raiseVistat.modVif.answer

theorem aperturePiece {k : ApertureWork} (h : s.Canonical) : (s.aperturePiece v k n).Canonical := by
  unfold State.aperturePiece
  extract_lets left
  split
  next u new e =>
    have moved : u.Canonical := by
      split at e
      · cases e
        exact h
      · cases e
        exact h.putPhys
    split
    · exact h.apertureFault
    · extract_lets got
      split
      · exact moved.modVif.answer
      · exact moved.modVif

theorem apertureBegin {w : Vif} {need : Need} {data : Option (List Byte)} (h : s.Canonical) :
    (s.apertureBegin v w need off len data).Canonical := by
  unfold State.apertureBegin
  dsimp only
  repeat' split
  · exact h.answer
  · exact h.apertureFault
  · exact (h.foldl fun _ _ h => h.markUse).aperturePiece
  · exact (h.foldl fun _ _ h => h.markUse).modVif

theorem execApertureAccess {r : ApertureReq} (h : s.Canonical) : Result.Canonical (execApertureAccess off r s) := by
  unfold Machine.execApertureAccess
  repeat' split
  · exact h.hostAccess fun _ _ => h.apertureBegin
  · exact h.hostAccess fun _ _ => h.apertureBegin
  · exact .next h.aperturePiece
  · exact .next h
  · exact .next h

section
variable {f : Requester → State}

theorem request (h : s.Canonical) (hf : ∀ r, (f r).Canonical) : Result.Canonical (s.request f) := by
  unfold State.request
  repeat' split
  · exact .next (hf _)
  · exact .next h
  · exact .next h

theorem attest (h : s.Canonical) (hf : ∀ r, (f r).Canonical) : Result.Canonical (s.attest f) := by
  unfold State.attest
  repeat' split
  · exact .next (hf _)
  · exact h.request hf
  · exact h.request hf

theorem ownerRequest (h : s.Canonical) (hf : ∀ r, (f r).Canonical) : Result.Canonical (s.ownerRequest f) := by
  refine h.request fun r => ?_
  split
  · exact hf r
  · exact h.answer

end

theorem physicalRead (h : s.Canonical) : (s.physicalRead port off len).Canonical := by
  unfold State.physicalRead
  dsimp only
  split
  · exact h.answer
  · exact h

theorem execSetPowerLimit (h : s.Canonical) : Result.Canonical (execSetPowerLimit n s) := by
  refine h.ownerRequest fun r => ?_
  split
  · exact State.Canonical.answer (h.keep (by rfl))
  · exact h.answer

theorem execFirmwareConfiguration (h : s.Canonical) : Result.Canonical (execFirmwareConfiguration v port s) := by
  refine h.ownerRequest fun r => ?_
  split
  · exact h.modVif.answer
  · exact h.answer

theorem keyRequest {f : Requester → Vif → State} (h : s.Canonical) (hf : ∀ r w, (f r w).Canonical) :
    Result.Canonical (s.keyRequest v f) := by
  refine h.request fun r => ?_
  repeat' split
  · exact hf _ _
  · exact h.answer
  · exact h.answer

theorem execKeyEnroll {key : Word} {body : List Byte} (h : s.Canonical) : Result.Canonical (execKeyEnroll v key body s) := by
  refine h.keyRequest fun r w => ?_
  dsimp only
  split
  · exact h.answer
  · exact h.modVif.answer

theorem execKeyRemove {key : Word} (h : s.Canonical) : Result.Canonical (execKeyRemove v key s) :=
  h.keyRequest fun _ _ => h.modVif.answer

theorem takeOver (h : s.Canonical) : s.takeOver.Canonical := h.keep rfl

theorem execLiveUpdate (h : s.Canonical) : Result.Canonical (execLiveUpdate n size s) := by
  refine h.ownerRequest fun r => ?_
  dsimp only
  repeat' split
  · exact h.answer
  · exact h.answer
  · exact h.answer
  · exact (State.Canonical.takeOver (h.keep (by rfl))).answer
  · exact State.Canonical.answer (h.keep (by rfl))

theorem execGetMeasurements (h : s.Canonical) : Result.Canonical (execGetMeasurements s) := h.attest fun _ => h.answer

theorem execVendorMeasurementBlock (h : s.Canonical) : Result.Canonical (execVendorMeasurementBlock s) :=
  h.attest fun _ => h.answer

theorem execHeartbeatTimeout (h : s.Canonical) : Result.Canonical (execHeartbeatTimeout s) := by
  unfold Machine.execHeartbeatTimeout
  repeat' split
  · exact .next h.takeOver
  · exact .next h
  · exact .next h.takeOver
  · exact .next h
  · exact .next h

/-! Events of the device -/

theorem scrub {f : Nat → Bool} (h : s.Canonical) : (s.scrub words size f).Canonical := by
  refine h.foldl fun t w h => ?_
  split
  · exact h.keep rfl
  · exact h.keep rfl

theorem execDramRefreshScrub (h : s.Canonical) : Result.Canonical (execDramRefreshScrub words s) := by
  unfold Machine.execDramRefreshScrub
  split
  · exact .next h.scrub
  · exact .next h

theorem execSheetScrub (h : s.Canonical) : Result.Canonical (execSheetScrub words s) := by
  unfold Machine.execSheetScrub
  split
  · exact .next h.scrub
  · exact .next h

theorem upset {u : Upset} (h : s.Canonical) : (s.upset u).Canonical := by
  cases u <;> exact h.keep rfl

theorem execPowerWindow (h : s.Canonical) : Result.Canonical (execPowerWindow n s) := by
  unfold Machine.execPowerWindow
  repeat' split
  · exact .next (h.keep rfl)
  · exact .next h
  · exact .next h

theorem loseLaunches (h : s.Canonical) : s.loseLaunches.Canonical := by
  refine h.foldl fun t k h => ?_
  split
  · exact h.removeBlocks.abortSteps.modLaunch
  · exact h

theorem heat (h : s.Canonical) : (s.heat celsius).Canonical := by
  unfold State.heat
  dsimp only
  split
  · exact h.loseLaunches.keep rfl
  · exact h.keep rfl

theorem execThermalThrottle (h : s.Canonical) : Result.Canonical (execThermalThrottle celsius s) := by
  unfold Machine.execThermalThrottle
  split
  · exact .next h.heat
  · exact .next h

theorem execThermalShutdown (h : s.Canonical) : Result.Canonical (execThermalShutdown celsius s) := by
  unfold Machine.execThermalShutdown
  repeat' split
  · exact .next h
  · exact .next h.heat
  · exact .next h

theorem execTetherSyncLost (h : s.Canonical) : Result.Canonical (execTetherSyncLost s) := by
  unfold Machine.execTetherSyncLost
  split
  · exact .next (h.keep rfl)
  · exact .next h

theorem execTetherSyncRegained (h : s.Canonical) : Result.Canonical (execTetherSyncRegained s) := by
  unfold Machine.execTetherSyncRegained
  split
  · exact .next (h.keep rfl)
  · exact .next h

/-- What reset keeps of memory is the host's, and firmware writes the RCBs (R26, R475). -/
theorem execPowerOnReset (h : s.Canonical) : Result.Canonical (execPowerOnReset s) := by
  unfold Machine.execPowerOnReset
  split
  · extract_lets part r rcbs
    clear_value rcbs
    refine .next ?_
    have kept : Memory.wf (s.mem.filter fun p => isSystem p.1) = true := assocWf_filter _ _ h
    exact Memory.wf_putAt (rcbs.flatMap Rcb.cells) _ kept
  · exact .next h

theorem bringUp (h : s.Canonical) : s.bringUp.Canonical := by
  unfold State.bringUp
  split
  · exact h.keep rfl
  · exact h

/-! Firmware's handlers -/

theorem firstTouchHandler {c : Ctx} (h : s.Canonical) : (s.firstTouchHandler c).Canonical := by
  unfold State.firstTouchHandler
  dsimp only
  split
  next e => exact (h.mapPage.fst e).leaveHandler
  next e => exact (h.mapPage.fst e).leaveHandler
  next e => exact (h.mapPage.fst e).leaveHandler

theorem bindService {c : Ctx} (h : s.Canonical) : (s.bindService c).Canonical := by
  unfold State.bindService
  dsimp only
  split
  · exact h.killGroup
  next e => exact (h.of_bindEntry e).modGroup.leaveHandler

theorem firmwareRun {c : Ctx} (h : s.Canonical) : (s.firmwareRun c).Canonical := by
  unfold State.firmwareRun
  dsimp only
  repeat' split
  · exact h
  · exact h.firstTouchHandler
  · exact h.bindService
  · exact h.killGroup

end State.Canonical
end Sys2Proof.Machine

/-!
SUPPORT. Every instruction and event, every actor, and the step: memory stays canonical (O59).
-/
namespace Sys2Proof.Machine

namespace State.Canonical
variable {s : State}

/-- Every instruction and event keeps memory canonical. -/
theorem exec {i : Instr} (h : s.Canonical) : Result.Canonical (exec i s) := by
  unfold Machine.exec
  cases i with dsimp only
  | nop | smov | smovi | smoviB64 | sadd | saddc | saddcC | ssub | ssubb | ssubbC | smul | smulh | sand | sor | sxor
  | sandn | sshl | sshr | ssra | smin | smax | sset | ssel | sclz | sffs | spopc | saddp | slea | ixset | kmov | kand
  | kor | kxor | kandn | knot | kpopc | kffs | vmov | vmovi | vadd | vsub | vmul | vmulh | vmad | vabsd | vmin | vmax
  | vand | vor | vxor | vandn | vshl | vshr | vsra | vrot | vclz | vffs | vpopc | vbrev | vbfe | vbfi | vset | vsel
  | vsat | vpack | vunpk | vshfl | vshfi | vbcast | vcmprs | vlane | vrdln | vwrln | vred | fadd | fsub | fmul | ffma
  | fmin | fmax | fabs | fneg | fcpsn | fset | fclass | frnd | fcvt | fcvti | icvtf | fdot2 | xclr | xadd | xmadd
  | xrnd | xscan | xstat | ex2f | ex2r | lg2f | lg2r | rcpf | rcpr | rsqf | rsqr | sqtf | sqtr | divf | divr | sinf
  | sinr | cosf | cosr | tnhf | tnhr | sigf | sigr | kbunpk | rngk | rngkB64 => exact .issue fun _ => h.regular
  | bra => exact h.execBra
  | brc => exact h.execBrc
  | bsplit => exact h.execBsplit
  | bjoin => exact h.execBjoin
  | call => exact h.execCall
  | calli => exact h.execCalli
  | callt => exact h.execCallt
  | ret => exact h.execRet
  | exit => exact h.execExit
  | yield => exact h.execYield
  | bbar => exact h.execBbar
  | gbar => exact h.execGbar
  | trap | brk => exact h.trapImm
  | eret => exact h.execEret
  | sigset => exact h.execSigset
  | srd | srdTimelo | srdTimehi => exact h.readSpecial
  | swr | swrGstat => exact h.writeSpecial
  | clauseHeader => exact h.execClauseHeader
  | xrd | xwr | qscl | qzp | qcvt | dqcvt | kbpack | rng | rngf => exact h.vectorIf
  | ld | st => exact h.vectorAccess
  | lds | sts => exact h.scalarAccess
  | ldb | stb => exact h.blockAccess
  | atom | acas | atoms | acass => exact h.atomicAccess
  | prfm => exact h.execPrfm
  | sgjoin => exact h.execSgjoin
  | sgleave | sgqry => exact h.sharingOp
  | pfmap => exact h.execPfmap
  | pfpark => exact h.execPfpark
  | tlbi => exact h.execTlbi
  | accessPerform => exact h.execAccessPerform
  | cpys | cpyt | cpye => exact h.issueCopy
  | cpwp | cpqry => exact h.queryCopy
  | cpwait => exact h.execCpwait
  | cpcan => exact h.execCpcan
  | mbar => exact h.execMbar
  | mwait => exact h.execMwait
  | marrw => exact h.execMarrw
  | atov => exact h.execAtov
  | vtoa => exact h.execVtoa
  | mset => exact h.execMset
  | msetHi => exact h.execMsetHi
  | madd => exact h.execMadd
  | mbnz => exact h.execMbnz
  | mbra => exact h.execMbra
  | mwaitb => exact h.execMwaitb
  | marrb => exact h.execMarrb
  | malloc => exact h.execMalloc
  | mfree => exact h.execMfree
  | mzero => exact h.execMzero
  | mma | mmas | mmaz => exact .sequence fun _ => h.beginMma
  | mmag => exact .sequence fun _ => h.beginMmag
  | mdrn | mdrna => exact .sequence fun _ => h.beginDrain
  | illegalMatrixWord => exact .sequence fun _ => h.seqrIllop
  | mend => exact h.execMend
  | tmload => exact h.execTmload
  | tmstep | tmmask | tmqry | tmsave => exact h.recordOp
  | sample | sargmx => exact h.sampling
  | tkbeg | tkend | tkwait | tkpass => exact h.ticketOp
  | cllred => exact h.execCllred
  | reductionStepRun => exact h.execReductionStepRun
  | cllqry => exact h.execCllqry
  | contq => exact h.execContq
  | twait => exact h.execTwait
  | nemit => exact h.execNemit
  | nodeGatherTimer => exact h.execNodeGatherTimer
  | blockAdmit => exact h.execBlockAdmit
  | blockReadmit => exact h.execBlockReadmit
  | parkedFaultRetry => exact h.execParkedFaultRetry
  | preempt => exact h.execPreempt
  | snapshotUnitCopy => exact h.execSnapshotUnitCopy
  | doorbell => exact h.execDoorbell
  | qtbaseWrite => exact h.execQtbaseWrite
  | vistatWrite => exact h.execVistatWrite
  | vireset => exact h.execVireset
  | viRegisterWrite => exact h.execViRegisterWrite
  | apertureAccess => exact h.execApertureAccess
  | setPowerLimit => exact h.execSetPowerLimit
  | powerWindow => exact h.execPowerWindow
  | thermalThrottle => exact h.execThermalThrottle
  | thermalShutdown => exact h.execThermalShutdown
  | keyEnroll => exact h.execKeyEnroll
  | keyRemove => exact h.execKeyRemove
  | liveUpdate => exact h.execLiveUpdate
  | dramRefreshScrub => exact h.execDramRefreshScrub
  | sheetScrub => exact h.execSheetScrub
  | illegalOpcode => exact h.execIllegalOpcode
  | setupExchange => exact h.execSetupExchange
  | stepAbort => exact h.execStepAbort
  | firmwareConfiguration => exact h.execFirmwareConfiguration
  | pageWalk => exact h.execPageWalk
  | copyStart => exact h.execCopyStart
  | copyChunk => exact h.execCopyChunk
  | copyResume => exact h.execCopyResume
  | matrixWordDone => exact h.execMatrixWordDone
  | gangPartRun => exact h.execGangPartRun
  | ticketRelease => exact h.execTicketRelease
  | tetherMemberLost => exact h.execTetherMemberLost
  | twaitExpiry => exact h.execTwaitExpiry
  | pendingToActive => exact h.execPendingToActive
  | activeSetExchange => exact h.execActiveSetExchange
  | blockSwapOut => exact h.execBlockSwapOut
  | parktExpiry => exact h.execParktExpiry
  | coreRetire => exact h.execCoreRetire
  | quantumExpiry => exact h.execQuantumExpiry
  | launchComplete => exact h.execLaunchComplete
  | timedLaunchStart => exact h.execTimedLaunchStart
  | queueIdleUnmap => exact h.execQueueIdleUnmap
  | launch => exact h.execLaunch
  | wait => exact h.execWait
  | waitSatisfied => exact h.execWaitSatisfied
  | signal => exact h.execSignal
  | load => exact h.execLoad
  | unload => exact h.execUnload
  | rcbsync => exact h.execRcbsync
  | asidset => exact h.execAsidset
  | pool => exact h.execPool
  | resume => exact h.execResume
  | commcreate => exact h.execCommcreate
  | commcreateTimeout => exact h.execCommcreateTimeout
  | commdestroy => exact h.execCommdestroy
  | faultq => exact h.execFaultq
  | quantum => exact h.execQuantum
  | getMeasurements => exact h.execGetMeasurements
  | vendorMeasurementBlock => exact h.execVendorMeasurementBlock
  | heartbeatTimeout => exact h.execHeartbeatTimeout
  | tetherSyncLost => exact h.execTetherSyncLost
  | tetherSyncRegained => exact h.execTetherSyncRegained
  | powerOnReset => exact h.execPowerOnReset

theorem runFetched {p : Party} {dec : DWord → Instr} {f : Fetched} (h : f.Canonical) :
    Result.Canonical (runFetched p dec f) := by
  cases f with
  | word w s =>
    show Result.Canonical (Machine.exec (dec w) { s with issuer := p })
    exact State.Canonical.exec (State.Canonical.keep h rfl)
  | header w s =>
    show Result.Canonical (Machine.exec (decodeHeader w) { s with issuer := p })
    exact State.Canonical.exec (State.Canonical.keep h rfl)
  | done s => exact .next h

theorem act {a : Actor} (h : s.Canonical) : Result.Canonical (s.act a) := by
  unfold State.act
  repeat' split
  · exact .next h
  · exact .next h.firmwareRun
  · exact State.Canonical.runFetched h.slotWord
  · exact State.Canonical.runFetched h.seqrWord
  · exact .next h
  · exact State.Canonical.exec (h.keep (by rfl))
  · exact .next h
  · exact .next h.hostStores
  · exact .next (h.keep rfl)
  · exact .next h.hostRead
  · exact .next h.readTelemetry
  · exact .next h.physicalRead
  · exact .next (h.keep rfl)
  · exact .next h.upset
  · exact .next h.bringUp

theorem step (h : s.Canonical) : Result.Canonical (step s) := by
  unfold Machine.step
  split
  next a t e =>
    have chosen : t.Canonical := by
      have := h.nextActor
      rw [e] at this
      exact this
    split
    · exact .fault
    · intro u eu
      unfold tickResult at eu
      split at eu
      next ea =>
        cases eu
        exact (chosen.act _ ea).tick
      next => exact chosen.act _ eu

end State.Canonical

/-- Settles O59: the canonical form of memory is kept by every store, the only writers of memory, and so by every move. -/
theorem memoryStaysCanonical : Obligations.MemoryStaysCanonical := by
  intro s t h e
  exact State.Canonical.step h t e

end Sys2Proof.Machine

/-!
SUPPORT. The blank memory after reset, address by address, and what reset leaves (O58).
-/
namespace Sys2Proof.Machine

theorem Memory.byte_nil (a : Nat) : Memory.byte [] a = Memory.blank a := rfl

theorem Memory.blank_outside {a : Nat} (h : a < 0xFF00 ∨ 0x14000 ≤ a) : Memory.blank a = 0 := by
  simp [Memory.blank, h]

/-- Inside firmware's range, a byte belongs to the RCB of its 256-byte line. -/
theorem Memory.blank_inside {a : Nat} (low : 0xFF00 ≤ a) (high : a < 0x14000) :
    Memory.blank a =
      (if (a - 0xFF00) / 256 = 0 then Rcb.root Part.full else Rcb.interface Part.full ((a - 0xFF00) / 256 - 1)).byteAt
        (a % 256) := by
  unfold Memory.blank
  rw [if_neg (by simp only [Bool.or_eq_true, decide_eq_true_eq]; omega)]

theorem Memory.blank_root {o : Nat} (h : o < 0x40) :
    Memory.blank ((Rcb.root Part.full).addr + o) = (Rcb.root Part.full).byteAt o := by
  have addr : (Rcb.root Part.full).addr = 0xFF00 := rfl
  have line : (0xFF00 + o - 0xFF00) / 256 = 0 := by omega
  have offset : (0xFF00 + o) % 256 = o := by omega
  rw [addr, Memory.blank_inside (by omega) (by omega), line, offset, if_pos rfl]

theorem Memory.blank_interface {n o : Nat} (hn : n < 64) (h : o < 0x40) :
    Memory.blank ((Rcb.interface Part.full n).addr + o) = (Rcb.interface Part.full n).byteAt o := by
  have addr : (Rcb.interface Part.full n).addr = 0x10000 + 256 * n := rfl
  have line : (0x10000 + 256 * n + o - 0xFF00) / 256 = n + 1 := by omega
  have offset : (0x10000 + 256 * n + o) % 256 = o := by omega
  rw [addr, Memory.blank_inside (by omega) (by omega), line, offset, if_neg n.succ_ne_zero, Nat.add_sub_cancel]

/-- The blank memory holds the RCBs that firmware writes (R26). -/
theorem State.reset_byte_rcb {r : Rcb} (hr : r ∈ State.reset.rcbs) {o : Nat} (h : o < 0x40) :
    State.reset.mem.byte (r.addr + o) = r.byteAt o := by
  rw [show State.reset.mem = [] from rfl, Memory.byte_nil]
  rcases List.mem_cons.mp hr with rfl | hr
  · exact Memory.blank_root h
  · obtain ⟨n, hn, rfl⟩ := List.mem_map.mp hr
    exact Memory.blank_interface (List.mem_range.mp hn) h

theorem Vif.reset_registers {v : Vif} (h : v ∈ State.reset.vifs) :
    v.qtbase = 0 ∧ v.apctl = 0 ∧ v.apva = 0 ∧ v.vistat = 0 ∧ v.keys = [] := by
  obtain ⟨n, _, rfl⟩ := List.mem_map.mp h
  exact ⟨rfl, rfl, rfl, rfl, rfl⟩

/-- Settles O58: the fields of the reset state as they are written, and its memory, which is blank, address by address. -/
theorem resetState : Obligations.ResetState :=
  ⟨rfl, rfl, rfl, rfl, rfl, rfl, rfl, rfl, rfl, rfl, rfl, fun _ => Vif.reset_registers, rfl, rfl,
    fun _ => Memory.blank_outside, fun _ hr _ => State.reset_byte_rcb hr⟩

end Sys2Proof.Machine

/-!
SUPPORT. The issue of the instructions of the memory engine: addresses, lanes, and the operation that an instruction becomes.
-/
namespace Sys2Proof.Machine

/-! Addresses -/

theorem wrap_eq_ofInt (x : Int) (n : Nat) : wrap x n = (BitVec.ofInt n x).toNat := (BitVec.toNat_ofInt ..).symm

theorem sext_toNat {n : Nat} (b : BitVec n) : sext b.toNat n = b.toInt := by
  rw [sext, Nat.mod_eq_of_lt b.isLt, BitVec.toInt_eq_toNat_cond]

/-- The address that integers give modulo 2^64 is that of R229 on 64-bit words. -/
theorem wrap_address (b n m : Nat) (off : BitVec 5) :
    wrap ((b : Int) + sext off.toNat 5 * (n : Nat) + (m : Nat)) 64 = addressOf b off n m := by
  rw [wrap_eq_ofInt, sext_toNat, addressOf, BitVec.ofInt_add, BitVec.ofInt_add, BitVec.ofInt_mul, BitVec.ofInt_natCast,
    BitVec.ofInt_natCast, BitVec.ofInt_natCast, BitVec.signExtend]

theorem scalarAddr_eq (c : Ctx) (f : WordM) (a : Opnd) (unit : Nat) :
    scalarAddr c f a unit = addressOf (c.scalar a) f.off unit 0 := by
  rw [← wrap_address, scalarAddr, Int.natCast_zero, Int.add_zero]

/-- How far lane j's address lies above a uniform one, for data of n bytes (R229). -/
def laneOffset (n j : Nat) : Opnd → Nat
  | .s _ _ => n * j
  | _ => 0

theorem laneAddr_eq (c : Ctx) (f : WordM) (a : Opnd) (j : Nat) :
    laneAddr c f a j = addressOf (c.lane a j) f.off (2 ^ f.w.toNat) (laneOffset (2 ^ f.w.toNat) j a) := by
  cases a
  case s =>
    rw [← wrap_address, laneOffset, laneAddr, wBytes, Nat.mul_comm _ j, Int.natCast_mul]
  all_goals
    show _ = addressOf _ _ _ 0
    rw [← wrap_address, Int.natCast_zero, Int.add_zero]
    rfl

/-- A further offset is added modulo 2^64. -/
theorem addressOf_add (b n m : Nat) (off : BitVec 5) : (addressOf b off n 0 + m) % 2 ^ 64 = addressOf b off n m := by
  simp only [addressOf, BitVec.toNat_add, BitVec.toNat_ofNat, Nat.zero_mod, Nat.add_zero, Nat.add_mod_mod, Nat.mod_add_mod,
    Nat.mod_mod]

/-! Lanes -/

theorem laneList_zero : laneList 0 = [] := by simp [laneList]

theorem laneList_ne_nil {m : Lanes} (h : m ≠ 0) : laneList m ≠ [] := by
  intro e
  refine h (BitVec.eq_of_getLsbD_eq fun j hj => ?_)
  have off := List.filter_eq_nil_iff.mp e j (List.mem_range.mpr hj)
  simpa using off

/-! Operations that issue -/

section
variable {s : State} {c : Ctx} {w : DWord} {o : Order} {m : Lanes} {l : List LaneAcc} {b : Body}

theorem op_pend (op : BitVec 10) (bits : BitVec 54) : (c.pend (clauseWord op bits) o m l b).op = op := by
  simp (disch := decide) only [Pend.op, Ctx.pend, clauseWord, BitVec.extractLsb'_append_eq_of_le, BitVec.extractLsb'_eq_self,
    Nat.reduceSub]

theorem stl_pend (op : BitVec 10) (f : WordM) : (c.pend (clauseWord op f.bits) o m l b).stl = f.stl :=
  congrArg WordM.stl (WordM.ofWord_clauseWord op f)

theorem stl_pend_atomic (op : BitVec 10) (f : WordMA) : (c.pend (clauseWord op f.bits) o m l b).stl = f.stl :=
  congrArg WordMA.stl (WordMA.ofWord_clauseWord op f)

/-- An operation of the memory engine has lanes to translate when it has accesses. -/
theorem Pend.walks_of_not_whole {p : Pend} (h : p.body.isWhole = false) : p.walks = !p.accs.isEmpty := by
  unfold Pend.walks
  cases e : p.body with
  | bridle | sample | emit => rw [e] at h; cases h
  | _ => rfl

theorem Body.isWhole_orOrder (h : b.isWhole = false) : (b.orOrder m).isWhole = false := by
  unfold Body.orOrder
  split
  · rfl
  · exact h

/-- While the stream's counter reads 63 the instruction does not issue (R127). -/
theorem startOp_full (h : 63 ≤ c.h.streamCount o.q.toNat) :
    s.startOp c (c.pend w o m l b) = s.holdOn c (.stream o.q.toNat) :=
  if_pos (decide_eq_true h)

theorem stream_has_room (h : c.h.streamCount o.q.toNat < 63) :
    ((c.pend w o m l b).q.any fun n => decide (c.h.streamCount n ≥ 63)) = false :=
  decide_eq_false (Nat.not_le.mpr h)

/-- An operation with accesses is translated first (R230). -/
theorem startOp_walking (h : c.h.streamCount o.q.toNat < 63) (hb : b.isWhole = false) (hl : l ≠ []) :
    s.startOp c (c.pend w o m l b) = s.walking c (c.pend w o m l b) := by
  have walks : (c.pend w o m l b).walks = true := by
    rw [Pend.walks_of_not_whole hb]
    simpa [Ctx.pend] using hl
  rw [State.startOp, stream_has_room h, walks]
  rfl

/-- An operation without accesses is outstanding at once, and the slot past it (R126, R127). -/
theorem startOp_outstanding (q : Quiet s c) (h : c.h.streamCount o.q.toNat < 63) (hb : b.isWhole = false) :
    s.startOp c (c.pend w o m [] b) =
      s.outstandingNow c (c.pend w o m [] b) (c.pend w o m [] b).op (c.pend w o m [] b).stl := by
  have walks : (c.pend w o m [] b).walks = false := Pend.walks_of_not_whole hb
  rw [State.startOp, stream_has_room h, walks]
  simp only [Bool.false_eq_true, if_false, State.modGroup_modGroup]
  exact finish_of_quiet q _ _ _ _ _ rfl q.fpx

theorem startOp_outstanding_formatM (q : Quiet s c) (op : BitVec 10) (f : WordM) (h : c.h.streamCount f.q.toNat < 63)
    (hb : b.isWhole = false) :
    s.startOp c (c.pend (clauseWord op f.bits) (orderM f) m [] b) =
      s.outstandingNow c (c.pend (clauseWord op f.bits) (orderM f) m [] b) op f.stl := by
  rw [startOp_outstanding q h hb, op_pend, stl_pend]

theorem startOp_outstanding_formatMA (q : Quiet s c) (op : BitVec 10) (f : WordMA) (h : c.h.streamCount f.q.toNat < 63)
    (hb : b.isWhole = false) :
    s.startOp c (c.pend (clauseWord op f.bits) (orderMA f) m [] b) =
      s.outstandingNow c (c.pend (clauseWord op f.bits) (orderMA f) m [] b) op f.stl := by
  rw [startOp_outstanding q h hb, op_pend, stl_pend_atomic]

end

end Sys2Proof.Machine

/-!
SUPPORT. What the checks of an instruction that passes say of its operands, and the forms of the memory engine (O21).
-/
namespace Sys2Proof.Machine

section
variable {s : State} {c : Ctx} {p : Plan} {os : List Opnd}

theorem Opnd.shift_zero (o : Opnd) : o.shift 0 = o := by cases o <;> rfl

/-- What a field of scalar registers names. -/
theorem resolve_sreg {ix : Nat → Nat} {n : Nat} {f : BitVec 9} {o : Opnd}
    (h : resolve ix (Want.sreg n) f = some o) : ∃ r, o = .s r n := by
  simp only [resolve, Want.sreg] at h
  split at h
  case h_1 | h_3 =>
    simp only [if_true, Bool.true_and, Option.ite_none_right_eq_some, Option.some.injEq] at h
    exact ⟨_, h.2.symm⟩
  case h_2 | h_4 => simp at h

/-- The operand that a use of a plan names, where the use names its registers directly. -/
theorem Passes.resolved (h : Passes c p os) {u : Use} {o : Opnd} (hm : (u, o) ∈ p.uses.zip os) (h0 : u.above = 0) :
    resolve c.ix u.want u.field = some o := by
  obtain ⟨i, hi, e⟩ := List.mem_iff_getElem.mp hm
  have named := congrArg (·[i]?) h.named
  simp only [List.length_zip, Nat.lt_min] at hi
  simp only [List.getElem_zip, Prod.mk.injEq] at e
  simp only [List.getElem?_map, List.getElem?_eq_getElem hi.1, List.getElem?_eq_getElem hi.2, Option.map_some, e.1, e.2,
    Option.some.injEq, h0] at named
  simpa [Opnd.shift_zero] using named

/-- The scoreboard does not hold back what the instruction reads. -/
theorem Passes.not_busy (h : Passes c p os) {u : Use} {o : Opnd} (hm : (u, o) ∈ p.uses.zip os) (hr : u.reads = true) :
    c.h.busy (o.cells c.h.sup c.x (laneList p.lanes)) = false := by
  have free := h.free
  simp only [Group.busy, List.any_eq_false] at free ⊢
  refine fun x hx => free x ?_
  simp only [Ctx.touchedCells, Ctx.readCells, List.mem_append, List.mem_flatMap, List.mem_filter]
  exact .inl (.inr ⟨(u, o), ⟨hm, hr⟩, hx⟩)

end

/-! Forms with accesses -/

section
variable {s : State} {c : Ctx}

/-- The parts of a form that acts in each active lane: none where no lane is active. -/
theorem laneParts {α : Type} (m : Lanes) (f : List Nat → List α) (hf : f [] = []) :
    f (laneList m) = if m = 0 then [] else f (laneList m) := by
  split
  next e => rw [e, laneList_zero, hf]
  next => rfl

/-- A load or store whose checks pass starts its operation: without a part where no lane is active. -/
theorem exec_accessRow {i : Instr} {r : AccessRow} (hr : accessRow i = some r) {d a : Opnd} (q : Quiet s c)
    (h : Passes c (planM c r.op r.f r.ok false [r.data, r.addr]) [d, a]) :
    exec i s = .next (s.startOp c (c.pend (clauseWord r.op r.f.bits) (orderM r.f) (c.active r.f.km)
      (if c.active r.f.km = 0 then [] else r.accs c d a)
      ((if r.store then Body.store else .load).orOrder (c.active r.f.km)))) := by
  have start {l l' : List LaneAcc} {w : DWord} {o : Order} {m : Lanes} {b : Body} (e : l = l') :
      s.startOp c (c.pend w o m l b) = s.startOp c (c.pend w o m l' b) := by rw [e]
  unfold accessRow at hr
  split at hr <;> cases hr
  all_goals
    refine (State.issue_of_ctx q.issues _).trans (congrArg _ ((checked_of_passes h _).trans (start ?_)))
  -- LD and ST
  case h_1 f | h_2 f =>
    simp only [laneAddr_eq]
    exact laneParts (c.active f.km) (fun l => l.map _) rfl
  -- LDS and STS
  case h_3 f | h_4 f =>
    simp only [scalarAddr_eq]
    rfl
  -- LDB and STB
  case h_5 f | h_6 f =>
    simp only [scalarAddr_eq, Nat.add_assoc, addressOf_add]
    exact laneParts (c.active f.km) (fun l => l.flatMap _) rfl

/-- Where a lane is active, a load or store has parts. -/
theorem accs_ne_nil {i : Instr} {r : AccessRow} (hr : accessRow i = some r) (d a : Opnd) (h : c.active r.f.km ≠ 0) :
    r.accs c d a ≠ [] := by
  unfold accessRow at hr
  split at hr <;> cases hr
  case h_1 | h_2 => exact mt List.map_eq_nil_iff.mp (laneList_ne_nil h)
  case h_3 | h_4 => exact List.cons_ne_nil _ _
  case h_5 | h_6 =>
    obtain ⟨j, r, e⟩ := List.exists_cons_of_ne_nil (laneList_ne_nil h)
    simp [e, List.range_succ]

end

/-! Forms without accesses -/

section
variable {s : State} {c : Ctx} {p : Plan} {os : List Opnd} {u : Use} {o : Opnd} {n : Nat} {f : BitVec 9}

/-- A scalar source of a plan that passes is resolved, exists and awaits no result, so that its value can be read early. -/
theorem Passes.peek (h : Passes c p os) (hm : (Use.src (Want.sreg n) f, o) ∈ p.uses.zip os) :
    c.peek (Use.src (Want.sreg n) f) = some (c.scalar o) ∧ c.awaited (Use.src (Want.sreg n) f) = [] := by
  have named := h.resolved hm rfl
  have exist := h.exist o (List.of_mem_zip hm).2
  have idle := h.not_busy hm rfl
  obtain ⟨r, rfl⟩ := resolve_sreg named
  have free : c.h.busy ((Opnd.s r n).cells c.h.sup c.x []) = false := idle
  rw [Ctx.peek, Ctx.awaited, named]
  simp [exist, free]

/-- An instruction whose early operands await nothing has the ordinary checks. -/
theorem checkedOn_of_idle {early : List Use} (h : ∀ u ∈ early, c.awaited u = []) (k : List Opnd → State) :
    s.checkedOn c early p k = s.checked c p k := by
  have idle : c.earlyWait early p = [] := by
    rw [Ctx.earlyWait, List.flatMap_eq_nil_iff.mpr h, ite_self]
  rw [State.checkedOn, idle]

/-- The checks that SGJOIN makes of the request in A (R261) are that it has no bit from 16 on. -/
theorem request_fits {v : Nat} (h : v < 2 ^ 16) : (some v).any (fun x => decide (bitsOf x 31 16 ≠ 0)) = false := by
  have high : bitsOf v 31 16 = 0 := by rw [bitsOf, Nat.div_eq_of_lt h, Nat.zero_mod]
  simp [high]

end

theorem sgjoin_issues (f : WordM) (s : State) (c : Ctx) (d a : Opnd) (q : Quiet s c)
    (h : Passes c (planM c 0x20C f (bareM f && c.scalar a < 2 ^ 16) false
      [Use.dst (Want.sreg 1) f.d, Use.src (Want.sreg 1) f.a]) [d, a]) (room : c.h.streamCount f.q.toNat < 63) :
    ∃ r, (d.cells c.h.sup c.x [0]) = [r] ∧
      exec (.sgjoin f) s = .next (s.outstandingNow c (c.pend (clauseWord 0x20C f.bits) (orderM f) (c.active f.km) []
        (if c.active f.km = 0 then .order else .sgJoin r (BitVec.ofNat 32 (c.scalar a)))) 0x20C f.stl) := by
  have source : (Use.src (Want.sreg 1) f.a, a) ∈ [(Use.dst (Want.sreg 1) f.d, d), (Use.src (Want.sreg 1) f.a, a)] :=
    .tail _ (.head _)
  obtain ⟨value, idle⟩ := h.peek source
  obtain ⟨r, rfl⟩ := resolve_sreg (h.resolved (.head _) rfl)
  have legal := h.legal
  simp only [planM, Bool.and_eq_true, decide_eq_true_eq] at legal
  have checks : (bareM f && !(c.peek (Use.src (Want.sreg 1) f.a)).any fun v => bitsOf v 31 16 ≠ 0) =
      (bareM f && decide (c.scalar a < 2 ^ 16)) := by
    rw [value, request_fits legal.1.2, decide_eq_true legal.1.2]
    rfl
  refine ⟨_, rfl, (State.issue_of_ctx q.issues _).trans (congrArg _ ?_)⟩
  show s.checkedOn c [Use.src (Want.sreg 1) f.a] (planM c 0x20C f (bareM f && !_) false _) _ = _
  rw [checks, checkedOn_of_idle (by simpa using idle), checked_of_passes h]
  exact startOp_outstanding_formatM q 0x20C f room (Body.isWhole_orOrder rfl)

theorem sharingOp_issues (op : BitVec 10) (f : WordM) (body : RegCell → Body) (s : State) (c : Ctx) (d : Opnd) (q : Quiet s c)
    (h : Passes c ⟨clauseWord op f.bits, bareM f && f.a = 0 && f.ru = 0, false, [Use.dst (Want.sreg 1) f.d],
      c.maskCells f.km.toNat, 0⟩ [d]) (room : c.h.streamCount f.q.toNat < 63) (hb : ∀ r, (body r).isWhole = false) :
    ∃ r, (d.cells c.h.sup c.x [0]) = [r] ∧
      s.sharingOp op f body = .next (s.outstandingNow c (c.pend (clauseWord op f.bits) (orderM f) (c.active f.km) []
        ((body r).orOrder (c.active f.km))) op f.stl) := by
  obtain ⟨r, rfl⟩ := resolve_sreg (h.resolved (.head _) rfl)
  refine ⟨_, rfl, (State.issue_of_ctx q.issues _).trans (congrArg _ ((checked_of_passes h _).trans ?_))⟩
  exact startOp_outstanding_formatM q op f room (Body.isWhole_orOrder (hb _))

theorem pfmap_issues (f : WordM) (s : State) (c : Ctx) (d a : Opnd) (q : Quiet s c)
    (h : Passes c (planM c 0x20F f (bareM f && f.km = 7) true [Use.dst (Want.sreg 2) f.d, Use.src (Want.sreg 2) f.a]) [d, a])
    (room : c.h.streamCount f.q.toNat < 63) :
    ∃ r t, (d.cells c.h.sup c.x [0]) = [r, t] ∧
      exec (.pfmap f) s = .next (s.outstandingNow c (c.pend (clauseWord 0x20F f.bits) (orderM f) (c.active f.km) []
        (if c.active f.km = 0 then .order else .pfmap r t (c.scalar a))) 0x20F f.stl) := by
  obtain ⟨r, rfl⟩ := resolve_sreg (h.resolved (.head _) rfl)
  refine ⟨_, _, rfl, (State.issue_of_ctx q.issues _).trans (congrArg _ ((checked_of_passes h _).trans ?_))⟩
  exact startOp_outstanding_formatM q 0x20F f room (Body.isWhole_orOrder rfl)

theorem exec_atomicRow {i : Instr} {f : WordMA} {op : BitVec 10} {cas one : Bool} (hi : atomicRow i = some (f, op, cas, one))
    (s : State) : exec i s = s.atomicAccess op f cas one := by
  unfold atomicRow at hi
  split at hi <;> cases hi <;> rfl

/-- The value of an operand in its place. -/
theorem scalar_at {c : Ctx} {os : List Opnd} {i : Nat} {o : Opnd} (h : os[i]? = some o) :
    ((os[i]?).map c.scalar).getD 0 = c.scalar o := by rw [h, Option.map_some, Option.getD_some]

/-- Settles O21: a form whose checks pass starts its operation, which is translated first when it has parts and is outstanding
at once when it has none. -/
theorem memoryInstructionsIssue : Obligations.MemoryInstructionsIssue := by
  refine ⟨?accesses, ?atomics, ?prfm, sgjoin_issues, ?sharing, pfmap_issues, ?tlbi⟩
  case accesses =>
    intro i r hr s c d a q h w act op
    have start := exec_accessRow hr q h
    refine ⟨fun full => ?_, fun room lanes => ?_, fun room dark => ?_⟩
    · exact start.trans (congrArg _ (startOp_full full))
    · have body : (if r.store then Body.store else .load).isWhole = false := by cases r.store <;> rfl
      rw [start, if_neg lanes, startOp_walking room (Body.isWhole_orOrder body) (accs_ne_nil hr d a lanes), Body.orOrder,
        if_neg lanes]
    · rw [start, if_pos dark, Body.orOrder, if_pos dark, startOp_outstanding_formatM q r.op r.f room rfl]
  case atomics =>
    intro i f op cas one hi s c d a b n reg t w q h room part
    have start : exec i s = .next (s.startOp c (c.pend w (orderMA f) c.exec
        (if one then (if c.exec = 0 then [] else [part 96 0]) else (laneList c.exec).map fun j => part j j)
        ((Body.atomic f.aop.toNat cas (f.w64 = 1)).orOrder c.exec))) :=
      (exec_atomicRow hi s).trans ((State.issue_of_ctx q.issues _).trans (congrArg _ (checked_of_passes h _)))
    refine ⟨fun lanes => ?_, fun dark => ?_⟩
    · rw [start, if_neg lanes, Body.orOrder, if_neg lanes, startOp_walking room rfl]
      cases one
      · exact mt List.map_eq_nil_iff.mp (laneList_ne_nil lanes)
      · exact List.cons_ne_nil _ _
    · rw [start, if_pos dark, Body.orOrder, if_pos dark, dark, laneList_zero, List.map_nil, ite_self,
        startOp_outstanding_formatMA q op f room rfl]
  case prfm =>
    intro f s c a q h room
    refine (State.issue_of_ctx q.issues _).trans (congrArg _ ((checked_of_passes h _).trans ?_))
    exact startOp_outstanding_formatM q 0x20B f room (Body.isWhole_orOrder rfl)
  case sharing =>
    rintro i op f (⟨rfl, rfl⟩ | ⟨rfl, rfl⟩) s c d q h room
    · exact sharingOp_issues 0x20D f .sgLeave s c d q h room fun _ => rfl
    · exact sharingOp_issues 0x20E f .sgQuery s c d q h room fun _ => rfl
  case tlbi =>
    intro f s c os k usesD usesA q h room
    refine ⟨_, _, (State.issue_of_ctx q.issues _).trans (congrArg _ ((checked_of_passes h _).trans
      (startOp_outstanding_formatM q 0x211 f room rfl))), ?_, ?_, ?_, ?_⟩
    · exact fun d used named => (if_pos used).trans (congrArg (· % 256) (scalar_at named))
    · exact fun unused => if_neg (ne_true_of_eq_false unused)
    · exact fun a used named => (if_pos used).trans (scalar_at named)
    · exact fun unused => if_neg (ne_true_of_eq_false unused)

end Sys2Proof.Machine

/-!
SUPPORT. ACCESS_PERFORM of a load that the host answers with an error status (R463, O24).
-/
namespace Sys2Proof.Machine

section
variable {s : State} {g : GRef} {h : Group} {p : Pend}

/-- ACCESS_PERFORM of a load that may be performed: its accesses, and the operation's end (R124). -/
theorem accessPerform_load (hi : s.issuer = .group g) (hp : Performs s g h p) (hb : p.body = .load) :
    exec (.accessPerform p.ser) s = .next ((s.performAccs g p p.accs).endOp g p) := by
  obtain ⟨b, block, -⟩ := Option.bind_eq_some_iff.mp hp.group
  have engine : p.body.isWhole = false := by rw [hb]; rfl
  have mapped : p.unmapped = false := by
    simp only [Pend.unmapped, engine, Bool.false_or, List.any_eq_false, List.isEmpty_iff]
    intro a ha e
    obtain ⟨-, length, nonempty, -⟩ := hp.plain a ha
    exact nonempty (length.symm.trans (congrArg List.length e))
  have direct : p.accs.any LaneAcc.staged = false := by
    simp only [List.any_eq_false]
    exact fun a ha => ne_true_of_eq_false (hp.plain a ha).1
  have whole : s.perform g p = (s.performAccs g p p.accs).endOp g p := by
    simp only [State.perform, block, hb, direct, Bool.false_and, Bool.false_eq_true, if_false]
  show execAccessPerform p.ser s = _
  simp only [execAccessPerform, hi, State.accessPerform, block, hp.group, Option.bind_some, hp.found, engine,
    Bool.false_eq_true, if_false, hp.ready, Bool.not_true, mapped, whole]

/-- A load one of whose bytes the host answers with an error status kills its launch with ECCUNC (R452, R463): no register
receives a result. -/
theorem performAccs_of_hostErr (hp : Performs s g h p) (hb : p.body = .load) {a : LaneAcc} {x : Nat} (ha : a ∈ p.accs)
    (hx : x ∈ a.pas) (he : x ∈ s.hostErrs) : s.performAccs g p p.accs = s.kill (s.lidOf g.bid) 0x12 := by
  have left : p.left x = true := by rw [Pend.left, hp.whole]; rfl
  have meets : (p.accs.any fun c => s.poisoned (c.pas.filter p.left)) = true := by
    simp only [List.any_eq_true, State.poisoned, Bool.or_eq_true, List.contains_iff_mem]
    exact ⟨a, ha, x, List.mem_filter.mpr ⟨hx, left⟩, .inr he⟩
  simp only [State.performAccs, hb, meets, if_true]

end

/-- LDS of a word of host memory into s4, translated. -/
def hostLoad : Pend where
  ser := 0
  slot := .a
  pc := 0x20008
  iword := clauseWord 0x202 (WordM.bits ⟨0, 0, 7, 4, 6, 2, 0, 0, 0, 0, 0, 0, 0⟩)
  clidx := 0
  q := some 0
  pm := 0
  x := false
  path := .p0
  scope := .block
  sem := .plain
  mask := 1
  accs := [⟨96, 0x20000, 4, span systemBase 4, [.s 4], 0, 0, false, false⟩]
  body := .load
  got := []
  st := .waiting
  behind := []

/-- A group with that load outstanding performs it; s4 holds 1, and the host answers reads of the load's first byte with an
error status. -/
def hostErrorState : State :=
  { (State.reset.placeWord (clauseWord 0x001 0)).modGroup ⟨0, 0⟩ fun h => { h with pend := [hostLoad], s := [(4, 1)] } with
    turn := []
    issuer := .group ⟨0, 0⟩
    hostErrs := [systemBase] }

def hostErrorGroup : Group := (hostErrorState.group? ⟨0, 0⟩).get (by decide +kernel)

theorem hostLoad_performs : Performs hostErrorState ⟨0, 0⟩ hostErrorGroup hostLoad where
  group := (Option.some_get _).symm
  found := by decide +kernel
  ready := by decide +kernel
  clean := by decide +kernel
  sound := by decide +kernel
  snap := by
    have off := (Option.all_eq_true (fun l : Launch => !l.snap) (hostErrorState.launchOf 0)).mp (by decide +kernel)
    exact fun l e => by simpa using off l e
  plain := by decide +kernel
  whole := rfl
  reserve := by
    have empty := (Option.all_eq_true (fun b : Block => b.staged.isEmpty) (hostErrorState.block? 0)).mp (by decide +kernel)
    exact fun b e => List.isEmpty_iff.mp (empty b e)
  links := by
    have unlinked := (Option.all_eq_true (fun b : Block => b.groups.all fun k => (k.pend ++ k.aside).all fun a =>
      a.behind.isEmpty) (hostErrorState.block? 0)).mp (by decide +kernel)
    simp only [List.all_eq_true, List.isEmpty_iff] at unlinked
    exact unlinked

/-- s4 keeps its value when the launch is killed. -/
theorem hostLoad_keeps_register :
    ((((hostErrorState.kill 0 0x12).endOp ⟨0, 0⟩ hostLoad).group? ⟨0, 0⟩).map fun k => k.cell (.s 4)) = some 1 := by
  decide +kernel

/-- Refutes O24: a load of host memory whose read the host answers with an error status may be performed in the statement's
sense, which excludes poison but no host error, and kills the launch where the statement has the byte values in s4. -/
theorem not_accessesPerform : ¬ Obligations.AccessesPerform := by
  rintro ⟨-, loads, -⟩
  obtain ⟨t, k, next, group, -, -, value, -⟩ := loads hostErrorState ⟨0, 0⟩ _ hostLoad rfl hostLoad_performs rfl
  have killed : t = (hostErrorState.kill 0 0x12).endOp ⟨0, 0⟩ hostLoad := by
    have run := accessPerform_load rfl hostLoad_performs rfl
    rw [performAccs_of_hostErr hostLoad_performs rfl (List.mem_singleton_self _) (x := systemBase) (by decide) (by decide)] at run
    exact Host.Outcome.next.inj (next.symm.trans run)
  have kept : k.cell (.s 4) = 1 := by
    have old := hostLoad_keeps_register
    rw [← killed, group] at old
    exact Option.some.inj old
  have loaded := value (by decide +kernel) (by decide) (by decide) _ 0 (.s 4) (List.mem_singleton_self _) rfl nofun nofun
  rw [kept] at loaded
  exact absurd loaded (by decide +kernel)

end Sys2Proof.Machine

/-!
SUPPORT. Queries and time: the end of an instruction that writes results at once or only goes on, the words of a record, and
the wait for a tether time (R182, R423, R424, O37).
-/
namespace Sys2Proof.Machine

/-! The end of an instruction -/

theorem keepsSlots_land (h : Group) (x : SlotId) (l : List (RegCell × Word)) : KeepsSlots h (h.land x l) := by
  refine KeepsSlots.trans ?_ (keepsSlots_setCells _ l)
  intro y
  cases x <;> cases y <;> rfl

section
variable {s : State} {c : Ctx} {p : Plan} {os : List Opnd}

/-- An instruction whose result lands as it ends quietly leaves its slot past it. -/
theorem finishNext_land (q : Quiet s c) (op : BitVec 10) (stl : BitVec 4) (w : DWord) (l : List (RegCell × Word)) :
    (s.land c.g c.x l).finishNext c op stl w = (s.land c.g c.x l).onward c op stl (c.sl.pc + 8) :=
  have k := keepsSlots_land c.h c.x l
  finish_of_quiet q w op stl _ _ (k.clause c.x) ((k.fpx c.x).trans q.fpx)

theorem State.modGroup_id (s : State) (g : GRef) : s.modGroup g id = s := by
  have blocks : (fun b : Block => b.modGroup g.gid id) = id := by
    funext b
    rw [Block.modGroup, List.modify_id]
    rfl
  rw [State.modGroup, State.modBlock, blocks, List.modify_id]

/-- An instruction without results that ends quietly leaves its slot past it. -/
theorem finishNext_of_quiet (q : Quiet s c) (op : BitVec 10) (stl : BitVec 4) (w : DWord) :
    s.finishNext c op stl w = s.onward c op stl (c.sl.pc + 8) := by
  have e := finish_of_quiet q w op stl (c.sl.pc + 8) id rfl q.fpx
  rwa [State.modGroup_id] at e

/-- The passing of the checks does not depend on how the plan says that the instruction is legal. -/
theorem Passes.of_legal (h : Passes c p os) {b : Bool} (hb : b = true) : Passes c { p with legal := b } os where
  legal := hb
  named := h.named
  mode := h.mode
  exist := h.exist
  free := h.free
  fresh := h.fresh
  sound := h.sound

/-- Registers that start below the allotment are named below it (R423). -/
theorem belowAllotment_of_resolved {u : Use} {r n : Nat} (h : resolve c.ix u.want u.field = some (.s r n)) (hr : r < c.nS) :
    c.belowAllotment u = true := by
  simp [Ctx.belowAllotment, h, hr]

end

/-! Bytes and words -/

theorem leNat_drop (l : List Byte) (k : Nat) : leNat (l.drop k) = leNat l / 256 ^ k := by
  induction k generalizing l with
  | zero => simp
  | succ k ih =>
    cases l with
    | nil => simp [leNat]
    | cons b r =>
      have low := b.isLt
      have rest : (b.toNat + 256 * leNat r) / 256 = leNat r := by omega
      rw [List.drop_succ_cons, ih, leNat, Nat.pow_succ', ← Nat.div_div_eq_div_mul, rest]

theorem leNat_take (l : List Byte) (k : Nat) : leNat (l.take k) = leNat l % 256 ^ k := by
  induction k generalizing l with
  | zero => simp [leNat, Nat.mod_one]
  | succ k ih =>
    cases l with
    | nil => simp [leNat]
    | cons b r =>
      have low := b.isLt
      have rest : (b.toNat + 256 * leNat r) / 256 = leNat r := by omega
      rw [List.take_succ_cons, leNat, ih, leNat, Nat.pow_succ', Nat.mod_mul, rest]
      omega

/-- A word of the number that bytes denote is the number of its four bytes (R4). -/
theorem wordsOf_leNat (n : Nat) (l : List Byte) :
    wordsOf n (leNat l) = (List.range n).map fun w => BitVec.ofNat 32 (leNat ((l.drop (4 * w)).take 4)) := by
  refine List.map_congr_left fun w _ => BitVec.eq_of_toNat_eq ?_
  rw [leNat_take, leNat_drop, BitVec.toNat_ofNat, BitVec.toNat_ofNat, Nat.pow_mul, Nat.pow_mul 256]
  exact (Nat.mod_mod _ _).symm

theorem wordsOf_zero (n : Nat) : wordsOf n 0 = (List.range n).map fun _ => 0 := by
  simp [wordsOf]

theorem clauseWord_op (op : BitVec 10) (b : BitVec 54) : (clauseWord op b).extractLsb' 54 10 = op := by
  simp (disch := decide) only [clauseWord, BitVec.extractLsb'_append_eq_of_le, BitVec.extractLsb'_eq_self, Nat.reduceSub]

theorem stl_clauseWord (op : BitVec 10) (f : WordY) : (clauseWord op f.bits).extractLsb' 50 4 = f.stl :=
  congrArg WordY.stl (WordY.ofWord_clauseWord op f)

/-! The wait for a tether time -/

/-- A wait for a tether time is over at the first tick at or after it (R424). -/
theorem waitOver_time {s : State} {c : Ctx} (h : s.ctx? = some c) (t : Nat) :
    s.waitOver c.g c.x (.time t) = decide (t ≤ s.time) := by
  obtain ⟨b, block, -⟩ := Option.bind_eq_some_iff.mp (State.group?_of_ctx h)
  rw [State.waitOver, block]

/-- A context is that of the slot that issues. -/
theorem State.issuer_of_ctx {s : State} {c : Ctx} (h : s.ctx? = some c) :
    s.issuer = .slot c.g c.x ∧ s.ctxOf c.g c.x = some c := by
  rw [State.ctx?] at h
  split at h
  · rename_i issuer
    obtain ⟨rfl, rfl, -⟩ := State.group?_of_ctxOf h
    exact ⟨issuer, h⟩
  · cases h

/-! The instructions -/

section
variable {s : State} {c : Ctx} {f : WordY}

theorem contq_writes {r : Nat} {a b : Opnd} (q : Quiet s c) (hr : r < c.nS)
    (h : Passes c ⟨clauseWord 0x38E f.bits, f.c = 0 && f.q = 0 && f.pm = 0 && ruOk f.ru 0b110, false,
      [Use.dst (Want.sreg 8) f.d, Use.src (Want.ssrc tB32) f.a, Use.src (Want.ssrc tB32) f.b], [], 0⟩ [.s r 8, a, b]) :
    exec (.contq f) s = .next ((s.land c.g c.x (((Opnd.s r 8).cells c.h.sup c.x []).zip ((List.range 8).map fun w =>
      if 1 ≤ c.scalar a ∧ c.scalar a ≤ 6 ∧ c.scalar b ≤ 12 then
        BitVec.ofNat 32 (leNat (((recordBytes (c.scalar a) (c.scalar b)).drop (4 * w)).take 4))
      else 0))).onward c 0x38E f.stl (c.sl.pc + 8)) := by
  have below := belowAllotment_of_resolved (h.resolved List.mem_cons_self rfl) hr
  have legal := h.legal
  refine (State.issue_of_ctx q.issues _).trans (congrArg _ ?_)
  refine (checked_of_passes (h.of_legal (by rw [below]; exact legal)) _).trans ((finishNext_land q _ _ _ _).trans ?_)
  congr 3
  by_cases carried : 1 ≤ c.scalar a ∧ c.scalar a ≤ 6 ∧ c.scalar b ≤ 12
  · simp only [carried, contractOk, and_self, if_true, decide_true, Bool.and_self, wordsOf_leNat]
  · have none_carried : (contractOk (c.scalar a) && decide (c.scalar b ≤ 12)) = false := by
      simpa [contractOk, and_assoc] using carried
    simp only [none_carried, carried, if_false, Bool.false_eq_true, wordsOf_zero]

theorem twait_starts {a : Opnd} (q : Quiet s c) (run : c.sl.st = .running)
    (h : Passes c ⟨clauseWord 0x38F f.bits, f.d = 0 && f.b = 0 && f.c = 0 && f.q = 0 && f.pm = 0 && ruOk f.ru 0b100, false,
      [Use.src (Want.sreg 2) f.a], [], 0⟩ [a]) :
    exec (.twait f) s = .next (if c.scalar a ≤ s.time then s.onward c 0x38F f.stl (c.sl.pc + 8)
      else s.modSlot c.g c.x fun sl => { sl with st := .atEvent (.time (c.scalar a)), since := s.fresh }) := by
  refine (State.issue_of_ctx q.issues _).trans (congrArg _ ?_)
  simp only [run]
  refine (checked_of_passes h _).trans ?_
  show s.waitOrGo c 0x38F f.stl _ (.time (c.scalar a)) = _
  rw [State.waitOrGo, waitOver_time q.issues, finishNext_of_quiet q, State.wait, endStep_of_off q.step]
  simp only [decide_eq_true_eq]

theorem twait_ends {t : Nat} (q : Quiet s c) (wait : c.sl.st = .atEvent (.time t)) (past : t ≤ s.time) :
    exec (.twait f) s = .next (s.onward c 0x38F f.stl (c.sl.pc + 8)) := by
  refine (State.issue_of_ctx q.issues _).trans (congrArg _ ?_)
  simp only [wait]
  rw [waitOver_time q.issues, decide_eq_true past, if_pos rfl, finishNext_of_quiet q]

theorem twaitExpiry_ends {t : Nat} {k : Clause} (q : Quiet s c) (wait : c.sl.st = .atEvent (.time t)) (past : t ≤ s.time)
    (resident : c.b.place = .resident) (run : c.l.st = .running) (clause : c.sl.clause = some k)
    (word : k.words[k.pos]? = some (clauseWord 0x38F (WordY.bits f))) :
    exec .twaitExpiry s = .next (s.onward c 0x38F f.stl (c.sl.pc + 8)) := by
  obtain ⟨issuer, ctx⟩ := State.issuer_of_ctx q.issues
  have current : (c.sl.clause.bind fun k => k.words[k.pos]?) = some (clauseWord 0x38F (WordY.bits f)) := by
    rw [clause, Option.bind_some, word]
  show execTwaitExpiry s = _
  simp only [execTwaitExpiry, issuer, ctx, wait, current, past, resident, run, decide_true, Bool.and_self, if_true, clauseWord_op,
    stl_clauseWord, finishNext_of_quiet q]

end

/-! The records -/

theorem leBytes_one (v : Nat) : leBytes 1 v = [BitVec.ofNat 8 v] := by
  rw [leBytes, List.range_one, List.map_singleton, Nat.pow_zero, Nat.div_one]

/-- The kinds of the format codes: 7 to 10 are integers, 0 to 6 align, 11 and 12 are f32 and f64 (R182). -/
theorem recKind_ofCode {m : Nat} (h : m ≤ 15) : (MFmt.ofCode m).map MFmt.recKind =
    if 12 < m then none else if 7 ≤ m && m ≤ 10 then some .integer else if m ≤ 6 then some .aligned else some .wide := by
  decide +revert

/-- Settles O37: the instructions by the cases of the wait, the records by the kind of the format and the six contracts. -/
theorem queriesAndTime : Obligations.QueriesAndTime := by
  refine ⟨fun f s c r a b q hr h => contq_writes q hr h, fun f s c a q run h => twait_starts q run h,
    fun f s c t q => twait_ends q, fun f s c t k q => twaitExpiry_ends q, fun k m low high code => ?_⟩
  dsimp only
  rw [recordBytes, recKind_ofCode code]
  have contracts : k = 1 ∨ k = 2 ∨ k = 3 ∨ k = 4 ∨ k = 5 ∨ k = 6 := by omega
  have kinds : 12 < m ∨ (7 ≤ m ∧ m ≤ 10) ∨ m ≤ 6 ∨ m = 11 ∨ m = 12 := by omega
  rcases kinds with absent | ⟨from7, to10⟩ | to6 | rfl | rfl
  · simp only [absent, if_true, behaviourRecord]
  · have ne12 : m ≠ 12 := by omega
    have not6 : ¬ m ≤ 6 := by omega
    have not13 : ¬ 12 < m := by omega
    simp only [from7, to10, ne12, not6, not13, if_true, if_false, decide_true, decide_false, Bool.and_self, Bool.false_eq_true,
      behaviourRecord, leBytes_one]
    rcases contracts with rfl | rfl | rfl | rfl | rfl | rfl <;> rfl
  · have ne12 : m ≠ 12 := by omega
    have not7 : ¬ 7 ≤ m := by omega
    have not13 : ¬ 12 < m := by omega
    simp only [to6, ne12, not7, not13, if_true, if_false, decide_true, decide_false, Bool.false_and, Bool.false_eq_true,
      behaviourRecord, leBytes_one]
    rcases contracts with rfl | rfl | rfl | rfl | rfl | rfl <;> rfl
  · rcases contracts with rfl | rfl | rfl | rfl | rfl | rfl <;> rfl
  · rcases contracts with rfl | rfl | rfl | rfl | rfl | rfl <;> rfl

end Sys2Proof.Machine

/-!
SUPPORT. Rounding to nearest even (R169, O8): exact numbers on a common grid, the rounding at a given spacing, and the finite
magnitudes of a format in units of its smallest subnormal.
-/
namespace Sys2Proof.Machine

/-! Exact numbers on a grid -/

/-- A multiple of 2^e: x.at e is its number of units. -/
def Dy.OnGrid (x : Dy) (e : Int) : Prop := x.num = 0 ∨ e ≤ x.exp

section
variable {x y : Dy} {e : Int}

theorem Dy.at_of_num_eq_zero (h : x.num = 0) : x.at e = 0 := by rw [Dy.at, h, Int.zero_mul]

theorem Dy.at_neg : x.neg.at e = -x.at e := Int.neg_mul ..

theorem Dy.at_abs : x.abs.at e = (x.at e).natAbs := by
  rw [Dy.at, Dy.at, Dy.abs, Int.natAbs_mul, Int.natAbs_natCast, Int.natCast_mul]

theorem Dy.OnGrid.neg (h : x.OnGrid e) : x.neg.OnGrid e := h.imp_left fun h => by rw [Dy.neg, h, Int.neg_zero]

theorem Dy.OnGrid.abs (h : x.OnGrid e) : x.abs.OnGrid e := h.imp_left fun h => by rw [Dy.abs, h]; rfl

/-- A finer grid holds 2^d times as many units. -/
theorem Dy.at_finer {m : Int} (coarse : m ≤ x.exp) (fine : e ≤ m) : x.at e = x.at m * (2 ^ (m - e).toNat : Nat) := by
  have steps : (x.exp - e).toNat = (x.exp - m).toNat + (m - e).toNat := by omega
  rw [Dy.at, Dy.at, steps, Nat.pow_add, Int.natCast_mul, Int.mul_assoc]

theorem Dy.OnGrid.add (hx : x.OnGrid e) (hy : y.OnGrid e) : (x.add y).OnGrid e ∧ (x.add y).at e = x.at e + y.at e := by
  rw [Dy.add]
  by_cases x0 : x.num = 0
  · rw [if_pos x0, Dy.at_of_num_eq_zero x0, Int.zero_add]
    exact ⟨hy, rfl⟩
  by_cases y0 : y.num = 0
  · rw [if_neg x0, if_pos y0, Dy.at_of_num_eq_zero y0, Int.add_zero]
    exact ⟨hx, rfl⟩
  have least : e ≤ min x.exp y.exp := Int.le_min.mpr ⟨hx.resolve_left x0, hy.resolve_left y0⟩
  rw [if_neg x0, if_neg y0, Dy.at_finer (Int.min_le_left ..) least, Dy.at_finer (Int.min_le_right ..) least, ← Int.add_mul]
  exact ⟨.inr least, rfl⟩

theorem Dy.OnGrid.sub (hx : x.OnGrid e) (hy : y.OnGrid e) : (x.sub y).OnGrid e ∧ (x.sub y).at e = x.at e - y.at e := by
  rw [Int.sub_eq_add_neg, ← Dy.at_neg]
  exact hx.add hy.neg

theorem Dy.num_eq_zero_iff : x.num = 0 ↔ x.at e = 0 := by
  have pos : ((2 ^ (x.exp - e).toNat : Nat) : Int) ≠ 0 := Int.natCast_ne_zero.mpr (Nat.ne_of_gt (Nat.two_pow_pos _))
  simp only [Dy.at, Int.mul_eq_zero, pos, or_false]

theorem Dy.num_nonpos_iff : x.num ≤ 0 ↔ x.at e ≤ 0 := by
  have pos : 0 < ((2 ^ (x.exp - e).toNat : Nat) : Int) := Int.natCast_pos.mpr (Nat.two_pow_pos _)
  rw [Dy.at]
  exact ⟨fun h => Int.mul_nonpos_of_nonpos_of_nonneg h (Int.le_of_lt pos), fun h => Int.nonpos_of_mul_nonpos_left h pos⟩

theorem Dy.OnGrid.le_iff (hx : x.OnGrid e) (hy : y.OnGrid e) : Dy.le x y = true ↔ x.at e ≤ y.at e := by
  rw [Dy.le, decide_eq_true_iff, Dy.num_nonpos_iff (e := e), (hx.sub hy).2]
  omega

theorem Dy.OnGrid.sub_num_eq_zero_iff (hx : x.OnGrid e) (hy : y.OnGrid e) : (x.sub y).num = 0 ↔ x.at e = y.at e := by
  rw [Dy.num_eq_zero_iff (e := e), (hx.sub hy).2]
  omega

/-- How far a number of b units lies from one whose magnitude has a units. -/
theorem Dy.OnGrid.gap {a b : Nat} (hx : x.OnGrid e) (hy : y.OnGrid e) (ha : (x.at e).natAbs = a) (hb : y.at e = b) :
    (x.abs.sub y).abs.OnGrid e ∧ (x.abs.sub y).abs.at e = ((a : Int) - b).natAbs := by
  obtain ⟨grid, units⟩ := hx.abs.sub hy
  rw [Dy.at_abs, units, Dy.at_abs, ha, hb]
  exact ⟨grid.abs, rfl⟩

end

/-! Rounding to a whole number -/

/-- The whole number r is nearest to N / D, and even when another one is as near. -/
def NearestEven (N D r : Nat) : Prop :=
  2 * ((N : Int) - (D * r : Nat)).natAbs ≤ D ∧ (2 * ((N : Int) - (D * r : Nat)).natAbs = D → r % 2 = 0)

section
variable {N D r c : Nat}

/-- No other whole number is nearer, and none is as near unless the chosen one is even. -/
theorem NearestEven.nearest (h : NearestEven N D r) (j : Nat) :
    ((N : Int) - (D * r : Nat)).natAbs ≤ ((N : Int) - (D * j : Nat)).natAbs ∧
      (((N : Int) - (D * r : Nat)).natAbs = ((N : Int) - (D * j : Nat)).natAbs → j = r ∨ r % 2 = 0) := by
  obtain ⟨near, even⟩ := h
  have apart : j = r ∨ D * r + D ≤ D * j ∨ D * j + D ≤ D * r := by
    rcases Nat.lt_trichotomy j r with below | same | above
    · exact .inr (.inr (Nat.mul_le_mul_left D below))
    · exact .inl same
    · exact .inr (.inl (Nat.mul_le_mul_left D above))
  rcases apart with rfl | apart
  · exact ⟨Nat.le_refl _, fun _ => .inl rfl⟩
  generalize D * j = J at *
  generalize D * r = R at *
  rcases apart with above | below
  · exact ⟨by omega, fun tie => .inr (even (by omega))⟩
  · exact ⟨by omega, fun tie => .inr (even (by omega))⟩

theorem NearestEven.scale (h : NearestEven N D r) (pos : 0 < c) : NearestEven (N * c) (D * c) r := by
  have scaled : (((N * c : Nat) : Int) - (D * c * r : Nat)).natAbs = ((N : Int) - (D * r : Nat)).natAbs * c := by
    rw [Nat.mul_right_comm, Int.natCast_mul, Int.natCast_mul _ c, ← Int.sub_mul, Int.natAbs_mul, Int.natAbs_natCast]
  rw [NearestEven, scaled, ← Nat.mul_assoc]
  exact ⟨Nat.mul_le_mul_right c h.1, fun tie => h.2 (Nat.eq_of_mul_eq_mul_right pos tie)⟩

/-- A number that reaches a whole number of units rounds to no less, and one that stays below rounds to no more. -/
theorem NearestEven.ge_of_mul_le (pos : 0 < D) (h : NearestEven N D r) {j : Nat} (reached : D * j ≤ N) : j ≤ r := by
  refine Nat.le_of_not_lt fun less => ?_
  have apart : D * r + D ≤ D * j := Nat.mul_le_mul_left D less
  have near := h.1
  omega

theorem NearestEven.le_of_lt_mul (h : NearestEven N D r) {j : Nat} (below : N < D * j) : r ≤ j := by
  refine Nat.le_of_not_lt fun more => ?_
  have apart : D * j + D ≤ D * r := Nat.mul_le_mul_left D more
  have near := h.1
  omega

theorem nearestEven_mul (r D : Nat) (pos : 0 < D) : NearestEven (r * D) D r := by
  rw [NearestEven, Nat.mul_comm r D]
  omega

/-- The rounding of N / D by quotient and remainder. -/
theorem nearestEven_div (N : Nat) (pos : 0 < D) :
    NearestEven N D (if D < 2 * (N % D) ∨ (2 * (N % D) = D ∧ N / D % 2 = 1) then N / D + 1 else N / D) := by
  have parts := Nat.div_add_mod N D
  have below := Nat.mod_lt N pos
  split
  case isTrue up =>
    rw [NearestEven, Nat.mul_add, Nat.mul_one]
    generalize D * (N / D) = m at *
    omega
  case isFalse down =>
    rw [NearestEven]
    generalize D * (N / D) = m at *
    omega

end

/-- Rounding to nearest even goes up past half of the spacing, and at half of it from an odd quotient (R169). -/
theorem roundsUp_rne_rest {x : Dy} {q : Int} (coarse : ¬ q ≤ x.exp) (neg : Bool) (m : Nat) :
    let D := 2 ^ (q - x.exp).toNat
    let t := x.num.natAbs % D
    roundsUp .rne neg m (x.rest q) = true ↔ D < 2 * t ∨ (2 * t = D ∧ m % 2 = 1) := by
  intro D t
  have pos : 0 < D := Nat.two_pow_pos _
  have rest : x.rest q = if t = 0 then 0 else if 2 * t < D then 1 else if 2 * t = D then 2 else 3 := if_neg coarse
  simp only [roundsUp, rest, Bool.or_eq_true, Bool.and_eq_true, decide_eq_true_eq]
  by_cases none : t = 0
  · rw [if_pos none]
    omega
  by_cases less : 2 * t < D
  · rw [if_neg none, if_pos less]
    omega
  by_cases half : 2 * t = D
  · rw [if_neg none, if_neg less, if_pos half]
    omega
  · rw [if_neg none, if_neg less, if_neg half]
    omega

/-- Rounding at a spacing is to nearest even, in units of a grid that holds the number and the spacing. -/
theorem Dy.roundAt_rne {x : Dy} {q e : Int} (hx : e ≤ x.exp) (hq : e ≤ q) :
    NearestEven (x.num.natAbs * 2 ^ (x.exp - e).toNat) (2 ^ (q - e).toNat) (x.roundAt q .rne) := by
  by_cases fine : q ≤ x.exp
  · have steps : (x.exp - e).toNat = (x.exp - q).toNat + (q - e).toNat := by omega
    have whole : x.roundAt q .rne = x.num.natAbs * 2 ^ (x.exp - q).toNat := by
      simp [Dy.roundAt, Dy.quo, Dy.rest, fine, roundsUp]
    rw [whole, steps, Nat.pow_add, ← Nat.mul_assoc]
    exact nearestEven_mul _ _ (Nat.two_pow_pos _)
  · have steps : (q - e).toNat = (q - x.exp).toNat + (x.exp - e).toNat := by omega
    rw [steps, Nat.pow_add]
    refine NearestEven.scale ?_ (Nat.two_pow_pos _)
    have rounded := nearestEven_div x.num.natAbs (Nat.two_pow_pos (q - x.exp).toNat)
    simpa only [Dy.roundAt, roundsUp_rne_rest fine, Dy.quo, ge_iff_le, fine, if_false] using rounded

/-! The finite magnitudes of a format -/

/-- The magnitude of an encoding without sign, in units of the smallest subnormal: its significand times 2 to the power of
its binade, counted from the subnormals. -/
def FF.units (k : FF) (n : Nat) : Nat := 2 ^ (n / 2 ^ k.frac - 1) * (n - (n / 2 ^ k.frac - 1) * 2 ^ k.frac)

section
variable {k : FF} {n s r : Nat}

/-- An encoding without sign of a finite value: no sign, its exponent field, and no infinity or NaN (R162, R163). -/
theorem FF.fields_of_le_maxFin (h : n ≤ k.maxFin) :
    k.sign n = false ∧ k.expField n = n / 2 ^ k.frac ∧
      (k.expField n = 2 ^ k.expBits - 1 → k = .e4m3 ∧ k.fracField n ≠ 7) := by
  cases k <;>
    simp only [FF.maxFin, FF.sign, FF.expField, FF.fracField, FF.frac, FF.expBits, FF.bits, bitOf,
      reduceCtorEq, true_and, false_and, Nat.reducePow, Nat.reduceSub] at h ⊢ <;>
    exact ⟨decide_eq_false (by omega), by omega, by omega⟩

/-- A finite encoding without sign denotes its magnitude. -/
theorem FF.value_at (h : n ≤ k.maxFin) {e : Int} (he : e ≤ k.qmin) :
    (k.value n).dy.OnGrid e ∧ (k.value n).dy.at e = (k.units n * 2 ^ (k.qmin - e).toNat : Nat) := by
  obtain ⟨sign, exponent, finite⟩ := FF.fields_of_le_maxFin h
  have no_nan : (k = .e4m3 && k.expField n = 2 ^ k.expBits - 1 && k.fracField n = 7) = false := by
    simp only [Bool.and_eq_false_iff, decide_eq_false_iff_not]
    exact Classical.byContradiction fun c => by
      simp only [not_or, Classical.not_not] at c
      exact (finite c.1.2).2 c.2
  have no_top : (k ≠ .e4m3 && k.expField n = 2 ^ k.expBits - 1) = false := by
    simp only [Bool.and_eq_false_iff, decide_eq_false_iff_not, Classical.not_not]
    exact Classical.byContradiction fun c => by
      simp only [not_or, Classical.not_not] at c
      exact c.1 (finite c.2).1
  have parts := Nat.div_add_mod n (2 ^ k.frac)
  simp only [FF.value, sign, no_nan, no_top, Bool.false_eq_true, if_false]
  rw [FF.units, exponent, FF.fracField]
  rcases binade : n / 2 ^ k.frac with _ | s
  · have same : n % 2 ^ k.frac = n := by rwa [binade, Nat.mul_zero, Nat.zero_add] at parts
    rw [if_pos rfl, same, Nat.zero_sub, Nat.pow_zero, Nat.zero_mul, Nat.sub_zero, Nat.one_mul]
    split
    case isTrue zero => exact ⟨.inl rfl, by rw [zero, Nat.zero_mul]; exact Dy.at_of_num_eq_zero rfl⟩
    case isFalse => exact ⟨.inr he, (Int.natCast_mul ..).symm⟩
  · have significand : n - s * 2 ^ k.frac = 2 ^ k.frac + n % 2 ^ k.frac := by
      rw [binade, Nat.mul_add, Nat.mul_one, Nat.mul_comm] at parts
      omega
    have spacing : ((s + 1 : Nat) : Int) - k.bias - k.frac = s + k.qmin := by
      rw [FF.qmin, FF.emin]
      omega
    have steps : ((s : Int) + k.qmin - e).toNat = s + (k.qmin - e).toNat := by omega
    rw [if_neg s.succ_ne_zero, Nat.add_sub_cancel, significand, spacing, Val.dy]
    refine ⟨.inr (show e ≤ s + k.qmin by omega), ?_⟩
    rw [Dy.at, steps, Nat.pow_add, ← Int.natCast_mul, Nat.mul_left_comm, Nat.mul_assoc]

theorem FF.qmin_le_spacing (k : FF) (x : Dy) : k.qmin ≤ k.spacing x := Int.sub_le_sub_right (Int.le_max_right ..) _

/-- A significand at s binades above the subnormals, which may reach the next binade. -/
theorem FF.units_of_binade (low : s = 0 ∨ 2 ^ k.frac ≤ r) (high : r ≤ 2 ^ (k.frac + 1)) :
    k.units (s * 2 ^ k.frac + r) = 2 ^ s * r := by
  have pos : 0 < 2 ^ k.frac := Nat.two_pow_pos _
  have quotient : (s * 2 ^ k.frac + r) / 2 ^ k.frac = s + r / 2 ^ k.frac := by
    rw [Nat.add_comm, Nat.add_mul_div_right _ _ pos, Nat.add_comm]
  rw [Nat.pow_succ'] at high
  rw [FF.units]
  generalize 2 ^ k.frac = P at *
  have cases : r < P ∨ (P ≤ r ∧ r < 2 * P) ∨ r = 2 * P := by omega
  rcases cases with below | ⟨ge, lt⟩ | rfl
  · obtain rfl : s = 0 := by omega
    simp [Nat.div_eq_of_lt below]
  · have one : r / P = 1 := Nat.div_eq_of_lt_le (by omega) (by omega)
    rw [quotient, one, Nat.add_sub_cancel, Nat.add_sub_cancel_left]
  · have significand : s * P + 2 * P - (s + 1) * P = P := by rw [Nat.add_mul]; omega
    rw [quotient, Nat.mul_div_cancel _ pos, show s + 2 - 1 = s + 1 from rfl, significand, Nat.pow_succ, Nat.mul_assoc]

/-- Every encoding without sign is a significand at some binade. -/
theorem FF.exists_binade (k : FF) (n : Nat) :
    ∃ s r, n = s * 2 ^ k.frac + r ∧ (s = 0 ∨ 2 ^ k.frac ≤ r) ∧ r < 2 ^ (k.frac + 1) := by
  have parts := Nat.div_add_mod n (2 ^ k.frac)
  have below := Nat.mod_lt n (Nat.two_pow_pos k.frac)
  rw [Nat.pow_succ']
  generalize 2 ^ k.frac = P at *
  rcases binade : n / P with _ | s
  · rw [binade, Nat.mul_zero] at parts
    exact ⟨0, n, by omega, .inl rfl, by omega⟩
  · rw [binade, Nat.mul_add, Nat.mul_comm] at parts
    exact ⟨s, P + n % P, by omega, .inr (by omega), by omega⟩

theorem FF.units_lt_succ (k : FF) (n : Nat) : k.units n < k.units (n + 1) := by
  obtain ⟨s, r, rfl, low, high⟩ := k.exists_binade n
  rw [Nat.add_assoc, FF.units_of_binade low (Nat.le_of_lt high), FF.units_of_binade (by omega) high]
  exact Nat.mul_lt_mul_of_pos_left r.lt_succ_self (Nat.two_pow_pos s)

theorem FF.units_lt {m n : Nat} (h : m < n) : k.units m < k.units n := by
  induction n with
  | zero => omega
  | succ n ih =>
    rcases Nat.lt_succ_iff_lt_or_eq.mp h with below | rfl
    · exact Nat.lt_trans (ih below) (k.units_lt_succ n)
    · exact k.units_lt_succ m

theorem FF.units_injective {m n : Nat} (h : k.units m = k.units n) : m = n := by
  rcases Nat.lt_trichotomy m n with below | same | above
  · exact absurd h (Nat.ne_of_lt (FF.units_lt below))
  · exact same
  · exact absurd h.symm (Nat.ne_of_lt (FF.units_lt above))

/-- A magnitude is a multiple of the spacing of a binade, or lies below that binade. -/
theorem FF.units_dvd_or_lt (k : FF) (s n : Nat) : 2 ^ s ∣ k.units n ∨ s ≠ 0 ∧ k.units n < 2 ^ s * 2 ^ k.frac := by
  obtain ⟨t, r, rfl, low, high⟩ := k.exists_binade n
  rw [FF.units_of_binade low (Nat.le_of_lt high)]
  by_cases above : s ≤ t
  · exact .inl (Nat.dvd_mul_right_of_dvd (Nat.pow_dvd_pow 2 above) r)
  · refine .inr ⟨by omega, ?_⟩
    calc 2 ^ t * r < 2 ^ t * 2 ^ (k.frac + 1) := Nat.mul_lt_mul_of_pos_left high (Nat.two_pow_pos t)
      _ = 2 ^ (t + 1) * 2 ^ k.frac := by rw [Nat.pow_succ', ← Nat.mul_assoc, ← Nat.pow_succ]
      _ ≤ 2 ^ s * 2 ^ k.frac := Nat.mul_le_mul_right _ (Nat.pow_le_pow_right (by decide) (by omega))

/-- N counts a number on a grid of U to the smallest subnormal. The magnitude of the encoding that rounding it s binades above
the subnormals gives is nearest to it, and the encoding is even on a tie. -/
theorem FF.units_nearest {N U : Nat} (pos : 0 < U) (h : NearestEven N (2 ^ s * U) r)
    (low : s = 0 ∨ 2 ^ k.frac * (2 ^ s * U) ≤ N) (high : N < 2 ^ (k.frac + 1) * (2 ^ s * U)) (n : Nat) :
    let m := s * 2 ^ k.frac + r
    let gap (i : Nat) : Nat := ((N : Int) - (k.units i * U : Nat)).natAbs
    gap m ≤ gap n ∧ (gap m = gap n → n = m ∨ m % 2 = 0) := by
  intro m gap
  have unit : 0 < 2 ^ s * U := Nat.mul_pos (Nat.two_pow_pos s) pos
  have sig_low : s = 0 ∨ 2 ^ k.frac ≤ r := low.imp_right fun low => h.ge_of_mul_le unit (by rwa [Nat.mul_comm])
  have sig_high : r ≤ 2 ^ (k.frac + 1) := h.le_of_lt_mul (by rwa [Nat.mul_comm])
  have in_units (j : Nat) : 2 ^ s * j * U = 2 ^ s * U * j := Nat.mul_right_comm ..
  have units : k.units m * U = 2 ^ s * U * r := by rw [FF.units_of_binade sig_low sig_high, in_units]
  have parity : m % 2 = r % 2 := by
    have frac : 1 ≤ k.frac := by cases k <;> decide
    have even : 2 ^ 1 ∣ s * 2 ^ k.frac := Nat.dvd_mul_left_of_dvd (Nat.pow_dvd_pow 2 frac) s
    omega
  simp only [gap, units, parity]
  rcases k.units_dvd_or_lt s n with ⟨j, multiple⟩ | ⟨above, lower⟩
  · obtain ⟨near, tie⟩ := h.nearest j
    rw [multiple, in_units]
    refine ⟨near, fun e => (tie e).imp_left fun same => FF.units_injective (k := k) ?_⟩
    rw [multiple, same, FF.units_of_binade sig_low sig_high]
  · have near := (h.nearest (2 ^ k.frac)).1
    have in_binade := low.resolve_left above
    have lowerU : k.units n * U < 2 ^ s * U * 2 ^ k.frac := by
      rw [← in_units]
      exact Nat.mul_lt_mul_of_pos_right lower pos
    rw [Nat.mul_comm] at in_binade
    omega

/-- Where rounding stands: the encoding lies at the binade of the spacing, with the rounded number as its significand. -/
theorem FF.roundMag_mag (k : FF) (mode : Mode) (x : Dy) :
    (k.roundMag mode x).mag = (k.spacing x - k.qmin).toNat * 2 ^ k.frac + x.roundAt (k.spacing x) mode := by
  have above := k.qmin_le_spacing x
  have field : k.spacing x + k.frac + k.bias = ((k.spacing x - k.qmin).toNat + 1 : Nat) := by
    rw [FF.qmin, FF.emin] at above ⊢
    omega
  simp only [FF.roundMag]
  rw [field, ← Int.natCast_mul, Int.toNat_natCast, Nat.add_mul]
  omega

/-- A nonzero number in units of its spacing, on a grid that holds it: below twice 2^frac, and from 2^frac on above the
subnormals. -/
theorem FF.spacing_bounds (k : FF) {x : Dy} {e : Int} (h : x.num ≠ 0) (hx : e ≤ x.exp) (he : e ≤ k.qmin) :
    ((k.spacing x - k.qmin).toNat = 0 ∨ 2 ^ k.frac * 2 ^ (k.spacing x - e).toNat ≤ x.num.natAbs * 2 ^ (x.exp - e).toNat) ∧
      x.num.natAbs * 2 ^ (x.exp - e).toNat < 2 ^ (k.frac + 1) * 2 ^ (k.spacing x - e).toNat := by
  have low := Nat.log2_self_le (Int.natAbs_ne_zero.mpr h)
  have high := Nat.lt_log2_self (n := x.num.natAbs)
  have above := k.qmin_le_spacing x
  have spacing : k.spacing x = max (x.num.natAbs.log2 + x.exp) k.emin - k.frac := rfl
  have bottom : k.qmin = k.emin - k.frac := rfl
  rw [← Nat.pow_add, ← Nat.pow_add]
  constructor
  · by_cases normal : k.emin ≤ x.num.natAbs.log2 + x.exp
    · have steps : k.frac + (k.spacing x - e).toNat = x.num.natAbs.log2 + (x.exp - e).toNat := by omega
      rw [steps, Nat.pow_add]
      exact .inr (Nat.mul_le_mul_right _ low)
    · exact .inl (by omega)
  · have steps : x.num.natAbs.log2 + 1 + (x.exp - e).toNat ≤ k.frac + 1 + (k.spacing x - e).toNat := by omega
    calc x.num.natAbs * 2 ^ (x.exp - e).toNat
        < 2 ^ (x.num.natAbs.log2 + 1) * 2 ^ (x.exp - e).toNat := Nat.mul_lt_mul_of_pos_right high (Nat.two_pow_pos _)
      _ = 2 ^ (x.num.natAbs.log2 + 1 + (x.exp - e).toNat) := (Nat.pow_add ..).symm
      _ ≤ _ := Nat.pow_le_pow_right (by decide) steps

end

/-- Settles O8: in units of the spacing at the number the rounded significand is nearest, and every finite magnitude is a
multiple of that spacing or lies below the number's binade. -/
theorem roundsToNearest : Obligations.RoundsToNearest := by
  intro k x nonzero fits n finite gap r
  have kept : r ≤ k.maxFin := Nat.not_lt.mp (of_decide_eq_false fits)
  let e := min x.exp k.qmin
  have hx : e ≤ x.exp := Int.min_le_left ..
  have he : e ≤ k.qmin := Int.min_le_right ..
  have above := k.qmin_le_spacing x
  have rounded := Dy.roundAt_rne hx (Int.le_trans he above)
  obtain ⟨low, high⟩ := k.spacing_bounds nonzero hx he
  have unit : 2 ^ (k.spacing x - e).toNat = 2 ^ (k.spacing x - k.qmin).toNat * 2 ^ (k.qmin - e).toNat := by
    rw [← Nat.pow_add]
    congr 1
    omega
  rw [unit] at rounded low high
  have nearest := FF.units_nearest (Nat.two_pow_pos _) rounded low high n
  rw [← FF.roundMag_mag] at nearest
  have size : (x.at e).natAbs = x.num.natAbs * 2 ^ (x.exp - e).toNat := by rw [Dy.at, Int.natAbs_mul, Int.natAbs_natCast]
  have gap_at {m : Nat} (h : m ≤ k.maxFin) := 
    Dy.OnGrid.gap (.inr hx) (FF.value_at h he).1 size (FF.value_at h he).2
  obtain ⟨grid_r, at_r⟩ := gap_at kept
  obtain ⟨grid_n, at_n⟩ := gap_at finite
  rw [grid_r.le_iff grid_n, grid_r.sub_num_eq_zero_iff grid_n, at_r, at_n, Int.ofNat_le, Int.ofNat_inj]
  exact nearest

end Sys2Proof.Machine

/-!
SUPPORT. The fault that an instruction takes of those its lanes raise (R231, R255, O22).
-/
namespace Sys2Proof.Machine

/-- A number with a bit set below n has its lowest one at `firstSet`. -/
theorem firstSet_lowest {n x i : Nat} (hi : i < n) (bit : x.testBit i = true) :
    x.testBit (firstSet n x) = true ∧ ∀ j < firstSet n x, x.testBit j = false := by
  induction n generalizing x i with
  | zero => exact absurd hi (Nat.not_lt_zero i)
  | succ n ih =>
    by_cases odd : x % 2 = 1
    · rw [firstSet, if_pos odd]
      exact ⟨by simp [Nat.testBit_zero, odd], fun j hj => absurd hj (Nat.not_lt_zero j)⟩
    · have even : x.testBit 0 = false := by simp [Nat.testBit_zero, odd]
      rw [firstSet, if_neg odd, Nat.add_comm 1, Nat.testBit_succ]
      cases i with
      | zero => rw [even] at bit; cases bit
      | succ i =>
        rw [Nat.testBit_succ] at bit
        obtain ⟨set, below⟩ := ih (Nat.lt_of_succ_lt_succ hi) bit
        refine ⟨set, fun j hj => ?_⟩
        cases j with
        | zero => exact even
        | succ j => rw [Nat.testBit_succ]; exact below j (Nat.lt_of_succ_lt_succ hj)

theorem lowLane_lowest {m : Lanes} (h : m ≠ 0) :
    m.getLsbD (lowLane m) = true ∧ ∀ j < lowLane m, m.getLsbD j = false := by
  obtain ⟨i, hi, bit⟩ : ∃ i < 96, m.getLsbD i = true := Classical.byContradiction fun dark =>
    h (BitVec.eq_of_getLsbD_eq fun i hi =>
      (Bool.eq_false_iff.mpr fun bit => dark ⟨i, hi, bit⟩).trans BitVec.getLsbD_zero.symm)
  exact firstSet_lowest hi bit

/-- The faults of one place in the order of R231. -/
def faultsOfRank (l : List LaneFault) (n : Nat) : List LaneFault := l.filter fun x => x.fault.rank = n

/-- The lanes of several faults. -/
def faultLanes (l : List LaneFault) : Lanes := l.foldl (fun m x => m ||| x.lanes) 0

section
variable {l : List LaneFault} {r f : LaneFault} {n : Nat}

theorem mem_faultsOfRank : f ∈ faultsOfRank l n ↔ f ∈ l ∧ f.fault.rank = n := by
  rw [faultsOfRank, List.mem_filter, decide_eq_true_eq]

theorem getLsbD_foldl_lanes (m : Lanes) (j : Nat) :
    (l.foldl (fun m x => m ||| x.lanes) m).getLsbD j = true ↔ m.getLsbD j = true ∨ ∃ f ∈ l, f.lanes.getLsbD j = true := by
  induction l generalizing m with
  | nil => simp
  | cons f l ih => simp [ih, or_assoc]

theorem getLsbD_faultLanes (j : Nat) : (faultLanes l).getLsbD j = true ↔ ∃ f ∈ l, f.lanes.getLsbD j = true := by
  rw [faultLanes, getLsbD_foldl_lanes]
  simp

/-- What `takeFault` takes: the faults of the least rank, with one of their kinds, a parking one where there is one, all of their
lanes, and the address that the lowest lane gives. -/
theorem takeFault_takes (h : takeFault l = some r) : ∃ n,
    (∀ f ∈ l, n ≤ f.fault.rank) ∧ (∃ f ∈ faultsOfRank l n, r.fault = f.fault) ∧
    (∀ f ∈ faultsOfRank l n, f.fault = .absent → r.fault = .absent) ∧ r.lanes = faultLanes (faultsOfRank l n) ∧
    (∀ f, (faultsOfRank l n).find? (fun x => x.lanes.getLsbD (lowLane r.lanes)) = some f → r.va = f.va) := by
  cases l with
  | nil => cases h
  | cons f l =>
    have least := List.min?_eq_some_iff.mp
      (List.min?_cons' (x := f.fault.rank) (xs := (f :: l).map fun x => x.fault.rank))
    cases h
    generalize ((f :: l).map fun x => x.fault.rank).foldl min f.fault.rank = n at least
    obtain ⟨attained, below⟩ := least
    have taken : ∃ k, k ∈ faultsOfRank (f :: l) n := by
      rcases List.mem_cons.mp attained with rfl | attained
      · exact ⟨f, mem_faultsOfRank.mpr ⟨List.mem_cons_self, rfl⟩⟩
      · obtain ⟨k, hk, rank⟩ := List.mem_map.mp attained
        exact ⟨k, mem_faultsOfRank.mpr ⟨hk, rank⟩⟩
    refine ⟨n, fun k hk => below _ (List.mem_cons_of_mem _ (List.mem_map_of_mem hk)), ?_, ?_, rfl, ?_⟩
    · show ∃ k ∈ faultsOfRank (f :: l) n, (if (faultsOfRank (f :: l) n).any fun x => x.fault = .absent then AFault.absent
        else (((faultsOfRank (f :: l) n).head?).map LaneFault.fault).getD f.fault) = k.fault
      split
      next parks =>
        obtain ⟨k, hk, absent⟩ := List.any_eq_true.mp parks
        exact ⟨k, hk, (of_decide_eq_true absent).symm⟩
      next =>
        obtain ⟨k, hk⟩ := taken
        obtain ⟨a, r, e⟩ := List.exists_cons_of_ne_nil (List.ne_nil_of_mem hk)
        rw [e]
        exact ⟨a, List.mem_cons_self, rfl⟩
    · exact fun k hk absent => if_pos (List.any_eq_true.mpr ⟨k, hk, decide_eq_true absent⟩)
    · intro k hk
      show (((faultsOfRank (f :: l) n).find? _).map LaneFault.va).getD f.va = k.va
      exact congrArg (fun o => (o.map LaneFault.va).getD f.va) hk

/-- The clause of O22 on the fault that an instruction takes (R231). -/
theorem takeFault_first (h : takeFault l = some r) :
    (∃ f ∈ l, f.fault.rank = r.fault.rank) ∧ (∀ f ∈ l, r.fault.rank ≤ f.fault.rank) ∧
    (∀ j, r.lanes.getLsbD j = true ↔ ∃ f ∈ l, f.fault.rank = r.fault.rank ∧ f.lanes.getLsbD j = true) ∧
    (∀ f ∈ l, f.fault = .absent → f.fault.rank = r.fault.rank → r.fault = .absent) ∧
    ((∀ f ∈ l, f.lanes ≠ 0) → ∃ f ∈ l, f.fault.rank = r.fault.rank ∧ f.va = r.va ∧
      ∃ j, f.lanes.getLsbD j = true ∧ ∀ i < j, r.lanes.getLsbD i = false) := by
  obtain ⟨n, least, ⟨k, hk, kind⟩, parks, lanes, va⟩ := takeFault_takes h
  obtain ⟨inList, rank⟩ := mem_faultsOfRank.mp hk
  obtain rfl : r.fault.rank = n := by rw [kind, rank]
  have lit (j : Nat) : r.lanes.getLsbD j = true ↔ ∃ f ∈ l, f.fault.rank = r.fault.rank ∧ f.lanes.getLsbD j = true := by
    rw [lanes, getLsbD_faultLanes]
    simp only [mem_faultsOfRank, and_assoc]
  refine ⟨⟨k, inList, rank⟩, least, lit, fun f hf absent same => parks f (mem_faultsOfRank.mpr ⟨hf, same⟩) absent,
    fun some_lane => ?_⟩
  have nonzero : r.lanes ≠ 0 := by
    obtain ⟨lane, -⟩ := lowLane_lowest (some_lane k inList)
    intro none
    have dark := (lit _).mpr ⟨k, inList, rank, lane⟩
    rw [none] at dark
    simp at dark
  obtain ⟨low, below⟩ := lowLane_lowest nonzero
  obtain ⟨e, he, same, bit⟩ := (lit _).mp low
  obtain ⟨f, found⟩ := Option.isSome_iff_exists.mp
    (List.find?_isSome.mpr ⟨e, mem_faultsOfRank.mpr ⟨he, same⟩, bit⟩ :
      ((faultsOfRank l r.fault.rank).find? fun x => x.lanes.getLsbD (lowLane r.lanes)).isSome)
  obtain ⟨hf, sameRank⟩ := mem_faultsOfRank.mp (List.mem_of_find?_eq_some found)
  exact ⟨f, hf, sameRank, (va f found).symm, _, (List.find?_some found :), below⟩

end

end Sys2Proof.Machine

/-!
SUPPORT. PAGE_WALK: translations put to use and faults reported leave the groups and slots as they are, and an operation that has
its walk behind it is outstanding, with its slot past it (R217, R230, R247, O22).
-/
namespace Sys2Proof.Machine

/-- The two states have the same party issuing, and the same blocks and launches. -/
structure KeepsBlocks (s t : State) : Prop where
  issuer : t.issuer = s.issuer
  blocks : t.blocks = s.blocks
  launches : t.launches = s.launches

namespace KeepsBlocks
variable {s t u : State}

theorem refl (s : State) : KeepsBlocks s s := ⟨rfl, rfl, rfl⟩

theorem trans (h : KeepsBlocks s t) (k : KeepsBlocks t u) : KeepsBlocks s u :=
  ⟨k.issuer.trans h.issuer, k.blocks.trans h.blocks, k.launches.trans h.launches⟩

theorem foldl {α : Type} {f : State → α → State} (l : List α) (hf : ∀ t a, KeepsBlocks t (f t a)) (s : State) :
    KeepsBlocks s (l.foldl f s) :=
  List.foldlRecOn (motive := KeepsBlocks s) l f (refl s) fun t ht a _ => ht.trans (hf t a)

theorem storeBytes (s : State) (a : Nat) (bs : List Byte) : KeepsBlocks s (s.storeBytes a bs) := ⟨rfl, rfl, rfl⟩

theorem markUse (s : State) (w : Bool) (tr : Trans) : KeepsBlocks s (s.markUse w tr) := by
  unfold State.markUse
  split
  · exact refl s
  · split
    · exact refl s
    · exact storeBytes s _ _

theorem cache (s : State) (e : TlbEntry) : KeepsBlocks s (s.cache e) := ⟨rfl, rfl, rfl⟩

theorem useTrans (s : State) (who : Who) (w : Bool) (ts : List Trans) : KeepsBlocks s (s.useTrans who w ts) :=
  foldl ts (fun t tr => (markUse t w tr).trans (foldl _ cache _)) s

theorem drainRing (fuel : Nat) (v : Vif) (s : State) : KeepsBlocks s (drainRing fuel v s).2 := by
  induction fuel generalizing v s with
  | zero => exact refl s
  | succ fuel ih =>
    unfold Machine.drainRing
    split
    · dsimp only
      split
      · exact (storeBytes s _ _).trans (ih _ _)
      · exact refl s
    · exact refl s

theorem report (s : State) (r : FaultRec) : KeepsBlocks s (s.report r) := by
  unfold State.report State.flushFaults
  split
  · exact refl s
  · split
    · exact ⟨rfl, rfl, rfl⟩
    · obtain ⟨issuer, blocks, launches⟩ := drainRing _ _ _
      exact ⟨issuer, blocks, launches⟩

theorem group? (h : KeepsBlocks s t) (g : GRef) : t.group? g = s.group? g := by
  simp only [State.group?, State.block?, h.blocks]

theorem ctx? (h : KeepsBlocks s t) : t.ctx? = s.ctx? := by
  simp only [State.ctx?, State.ctxOf, State.block?, h.issuer, h.blocks, h.launches]

theorem quiet {c : Ctx} (h : KeepsBlocks s t) (q : Quiet s c) : Quiet t c := ⟨h.ctx?.trans q.issues, q.fpx, q.step, q.sck⟩

end KeepsBlocks

/-! The group and its slot after the walk -/

section
variable (h : Group) (x : SlotId) (f : Slot → Slot)

@[simp] theorem Group.pend_modSlot : (h.modSlot x f).pend = h.pend := by cases x <;> rfl
@[simp] theorem Group.s_modSlot : (h.modSlot x f).s = h.s := by cases x <;> rfl
@[simp] theorem Group.v_modSlot : (h.modSlot x f).v = h.v := by cases x <;> rfl
@[simp] theorem Group.ix_modSlot : (h.modSlot x f).ix = h.ix := by cases x <;> rfl
@[simp] theorem Group.gstat_modSlot : (h.modSlot x f).gstat = h.gstat := by cases x <;> rfl
@[simp] theorem Group.exited_modSlot : (h.modSlot x f).exited = h.exited := by cases x <;> rfl
@[simp] theorem Group.tcode_modSlot : (h.modSlot x f).tcode = h.tcode := by cases x <;> rfl

end

@[simp] theorem Slot.walk_retire (sl : Slot) (r : Retire) : (sl.retire r).1.walk = sl.walk := by
  unfold Slot.retire
  split
  · rfl
  · dsimp only
    split <;> rfl

@[simp] theorem Slot.pc_retire (sl : Slot) (r : Retire) : (sl.retire r).1.pc = r.next := by
  unfold Slot.retire
  split
  · rfl
  · dsimp only
    split <;> rfl

theorem mem_insertPend (p : Pend) (l : List Pend) : p ∈ insertPend p l := by
  induction l with
  | nil => exact List.mem_singleton_self p
  | cons a l ih =>
    rw [insertPend]
    split
    · exact List.mem_cons_self
    · exact List.mem_cons_of_mem a ih

/-- The group after the walk of slot x: the operation is outstanding as p, and `bits` are raised. -/
def Group.walked (x : SlotId) (p : Pend) (bits : Nat) (h : Group) : Group :=
  let k := h.modSlot x fun sl => { sl with walk := none }
  { k.raise bits with pend := insertPend p k.pend }

theorem Group.slot_walked (h : Group) (x : SlotId) (p : Pend) (bits : Nat) :
    (h.walked x p bits).slot x = { h.slot x with walk := none } := by cases x <;> rfl

/-- The walked group with its slot past the operation. -/
def Ctx.walked (c : Ctx) (p : Pend) (bits : Nat) : Group :=
  (c.h.walked c.x p bits).modSlot c.x fun sl => (sl.retire ⟨p.op, p.stl, false, c.sl.pc + 8, none⟩).1

section
variable {s : State} {c : Ctx} {p : Pend}

/-- Where the group stands after the walk: its registers are as they were. -/
theorem Ctx.walked_fields (c : Ctx) (p : Pend) (bits : Nat) :
    p ∈ (c.walked p bits).pend ∧ ((c.walked p bits).slot c.x).walk = none ∧ ((c.walked p bits).slot c.x).pc = c.sl.pc + 8 ∧
    (c.walked p bits).gstat = c.h.gstat ||| BitVec.ofNat 32 bits ∧ (c.walked p bits).s = c.h.s ∧ (c.walked p bits).v = c.h.v ∧
    (c.walked p bits).ix = c.h.ix ∧ (c.walked p bits).exited = c.h.exited ∧ (c.walked p bits).sup = c.h.sup := by
  simp only [Ctx.walked, Group.slot_modSlot, Slot.walk_retire, Slot.pc_retire, Group.slot_walked]
  simp [Group.walked, Group.raise, Group.sup, mem_insertPend]

/-- An operation that has its walk behind it ends quietly, and its slot is past it. -/
theorem finishNext_walked (q : Quiet s c) (bits : Nat) :
    (s.modGroup c.g (Group.walked c.x p bits)).finishNext c p.op p.stl p.iword =
      (s.modGroup c.g (Group.walked c.x p bits)).ended c p.op p.stl (c.sl.pc + 8) := by
  have slot := c.h.slot_walked c.x p bits
  exact finish_of_quiet q p.iword p.op p.stl _ _ (congrArg Slot.clause slot :) ((congrArg Slot.fpx slot).trans q.fpx)

theorem group?_walked (q : Quiet s c) (bits : Nat) :
    ((s.modGroup c.g (Group.walked c.x p bits)).ended c p.op p.stl (c.sl.pc + 8)).group? c.g = some (c.walked p bits) := by
  show ((s.modGroup c.g _).modGroup c.g _).group? c.g = _
  rw [State.modGroup_modGroup, q.group]
  rfl

theorem walkDone_of_quiet (q : Quiet s c) (mism : Bool) :
    s.walkDone c p mism =
      (s.modGroup c.g (Group.walked c.x p (if mism then gsCMIXS else 0))).ended c p.op p.stl (c.sl.pc + 8) := by
  rw [← finishNext_walked q, State.walkDone, State.modSlot, State.modGroup_modGroup]
  rfl


theorem Group.raise_zero (h : Group) : h.raise 0 = h := by simp [Group.raise]

/-- On a page that is not present the operation is a faulted access, and the slot past it is parked (R232). -/
theorem takeAccessFault_absent (q : Quiet s c) (running : c.h.exited = false) (lanes : Lanes) (va : Nat) :
    ∃ t : State, s.takeAccessFault c p .absent lanes va = t.park c.g c.x (.access p.ser) va p.body.kind ∧
      t.group? c.g = some (c.walked { p with st := .faulted } 0) ∧ t.time = s.time := by
  let f : Pend := { p with st := .faulted }
  let t := (s.modGroup c.g (Group.walked c.x f 0)).ended c p.op p.stl (c.sl.pc + 8)
  have faulted : (s.modSlot c.g c.x fun sl => { sl with walk := none }).modGroup c.g
      (fun h => { h with pend := insertPend f h.pend }) = s.modGroup c.g (Group.walked c.x f 0) := by
    rw [State.modSlot, State.modGroup_modGroup]
    exact congrArg (s.modGroup c.g) (funext fun h => by rw [Group.walked, Group.raise_zero])
  have ends : (s.modGroup c.g (Group.walked c.x f 0)).finishNext c p.op p.stl p.iword = t := finishNext_walked (p := f) q 0
  have after : t.group? c.g = some (c.walked f 0) := group?_walked q 0
  obtain ⟨-, -, -, -, -, -, -, exited, sup⟩ := c.walked_fields f 0
  have stays : (some (c.walked f 0)).any (fun h => !h.exited && h.sup = c.h.sup) = true := by simp [exited, sup, running]
  refine ⟨t, ?_, after, rfl⟩
  rw [State.takeAccessFault, faulted, ends, after, if_pos stays]

/-! The walk of the lanes -/

theorem walkFaults_eq (s : State) (c : Ctx) (p : Pend) :
    ((p.accs.map fun a => (a, s.walkAcc (s.whoLane c.g a.lane) p c.l.contract c.h.miss a)).filterMap fun r =>
      match r.2 with | .inl f => some f | .inr _ => none) = walkFaults s c p := by
  rw [walkFaults, List.filterMap_map, List.filterMap_map]
  rfl

theorem walkLanes_fault {r : LaneFault} (h : takeFault (walkFaults s c p) = some r) :
    s.walkLanes c p = .fault r.fault r.lanes r.va := by
  have taken := (congrArg takeFault (walkFaults_eq s c p)).trans h
  unfold State.walkLanes
  dsimp only
  split
  next e => cases e.symm.trans taken; rfl
  next e => cases e.symm.trans taken

/-- Where every part is aligned and translates, the walk gives each part the addresses of its bytes (R230). -/
theorem walkLanes_ok {spans : List Span}
    (h : (p.accs.map fun a => s.walkAcc (s.whoLane c.g a.lane) p c.l.contract c.h.miss a) = spans.map Sum.inr) :
    ∃ t accs, s.walkLanes c p = .ok t accs (spans.any Span.mism) ∧ KeepsBlocks s t ∧ accs.map LaneAcc.pas = spans.map Span.pas ∧
      accs.map (fun a => (a.lane, a.va, a.len, a.dst, a.data, a.cmp)) =
        p.accs.map (fun a => (a.lane, a.va, a.len, a.dst, a.data, a.cmp)) := by
  have length : p.accs.length = spans.length := by simpa using congrArg List.length h
  have pairs : (p.accs.map fun a => (a, s.walkAcc (s.whoLane c.g a.lane) p c.l.contract c.h.miss a)) =
      (p.accs.zip spans).map fun r => (r.1, .inr r.2) := by
    rw [List.map_prod_left_eq_zip, h, List.zip_map_right]
    rfl
  have parts : (p.accs.zip spans).map Prod.fst = p.accs := List.map_fst_zip (Nat.le_of_eq length)
  have found : (p.accs.zip spans).map Prod.snd = spans := List.map_snd_zip (Nat.le_of_eq length.symm)
  generalize p.accs.zip spans = rs at pairs parts found
  subst found
  refine ⟨rs.foldl (fun t r => t.useTrans (s.whoLane c.g r.1.lane) p.body.writes r.2.uses) s,
    rs.map fun r => { r.1 with pas := r.2.pas, staged := (c.l.detOf c.b && p.body.writes) && !unstagedWindow r.1.va },
    ?_, KeepsBlocks.foldl rs (fun t r => KeepsBlocks.useTrans t _ _ _) s, ?_, ?_⟩
  · have no_fault : rs.filterMap (fun _ => (none : Option LaneFault)) = [] := List.filterMap_eq_nil_iff.mpr fun _ _ => rfl
    have every_span : rs.filterMap (fun r => some (r.1, r.2)) = rs := List.filterMap_some
    unfold State.walkLanes
    rw [pairs]
    simp only [List.filterMap_map, Function.comp_def, no_fault, every_span, takeFault, List.any_map]
  · simp only [List.map_map]
    rfl
  · rw [← parts]
    simp only [List.map_map]
    rfl

end

/-! PAGE_WALK -/

section
variable {s : State} {c : Ctx} {p : Pend}

/-- PAGE_WALK of a load, store or atomic of a group that runs. -/
theorem exec_pageWalk (q : Quiet s c) (walk : c.sl.walk = some p) (engine : p.body.isWhole = false)
    (resident : c.b.place = .resident) (run : c.l.st = .running) (running : c.h.exited = false) :
    exec .pageWalk s = .next (s.walkMemory c p) := by
  obtain ⟨issuer, ctx⟩ := State.issuer_of_ctx q.issues
  show execPageWalk s = _
  simp [execPageWalk, issuer, ctx, walk, State.pageWalk, resident, run, running, engine]

theorem walkMemory_fault {r : LaneFault} (h : takeFault (walkFaults s c p) = some r) (first : c.h.tlbiAhead p = false)
    (met : c.b.edgesMet c.g.gid c.h p = true) : s.walkMemory c p = s.takeAccessFault c p r.fault r.lanes r.va := by
  rw [State.walkMemory, if_neg (ne_true_of_eq_false first), walkLanes_fault h]
  exact if_pos met

theorem walkMemory_waits {r : LaneFault} (h : takeFault (walkFaults s c p) = some r)
    (behind : c.h.tlbiAhead p = true ∨ c.b.edgesMet c.g.gid c.h p = false) : s.walkMemory c p = s := by
  rw [State.walkMemory]
  split
  · rfl
  next first =>
    rw [walkLanes_fault h]
    exact if_neg (ne_true_of_eq_false (behind.resolve_left first))

/-- Parking reports the fault, and leaves the group but for the slot's park. -/
theorem group?_park (s : State) (g : GRef) (x : SlotId) (why : ParkWhy) (va kind : Nat) :
    (s.park g x why va kind).group? g =
      (s.group? g).map fun h => h.modSlot x fun sl => { sl with park := some ⟨why, va, s.time⟩ } := by
  rw [← State.group?_modGroup]
  exact (KeepsBlocks.report _ _).group? g

end

/-- Settles O22: a walk without a fault leaves the operation outstanding with its slot past it; one with faults takes the first of
them, or waits. -/
theorem pageWalks : Obligations.PageWalks := by
  refine ⟨?translated, ?faults, fun l r => takeFault_first⟩
  case translated =>
    intro s c p spans q walk engine resident run running first translates
    obtain ⟨t, accs, walked, keeps, pas, parts⟩ := walkLanes_ok translates
    have done : s.walkMemory c p = t.walkDone c { p with accs := accs } (spans.any Span.mism) := by
      rw [State.walkMemory, if_neg (ne_true_of_eq_false first), walked]
    let m : Pend := { p with accs := accs }
    let bits := if spans.any Span.mism then gsCMIXS else 0
    have quiet := keeps.quiet q
    obtain ⟨pend, idle, pc, gstat, hs, hv, hix, -, -⟩ := c.walked_fields m bits
    refine ⟨_, c.walked m bits, m, (exec_pageWalk q walk engine resident run running).trans (congrArg _ (done.trans
      (walkDone_of_quiet quiet _))), group?_walked quiet bits, pend, pas, parts, rfl, rfl, idle, pc, gstat.trans ?_, hs, hv, hix⟩
    simp only [bits]
    split
    · rfl
    · exact BitVec.or_zero
  case faults =>
    intro s c p r q walk engine resident run running taken gone info
    have start := exec_pageWalk q walk engine resident run running
    refine ⟨fun behind => start.trans (congrArg _ (walkMemory_waits taken behind)), fun first met => ?_⟩
    have faulted := start.trans (congrArg _ (walkMemory_fault taken first met))
    refine ⟨fun code pair => faulted.trans ?_, fun touch => faulted.trans (by rw [touch]; rfl), fun absent => ?_⟩
    · simp only [List.mem_cons, List.not_mem_nil, or_false, Prod.mk.injEq] at pair
      rcases pair with ⟨kind, rfl⟩ | ⟨kind, rfl⟩ | ⟨kind, rfl⟩ | ⟨kind, rfl⟩
      all_goals
        rw [kind]
        rfl
    · obtain ⟨t, parks, after, time⟩ := takeAccessFault_absent (p := p) q running r.lanes r.va
      obtain ⟨pend, idle, pc, -, hs, hv, hix, -, -⟩ := c.walked_fields { p with st := .faulted } 0
      have group := group?_park t c.g c.x (.access p.ser) r.va p.body.kind
      rw [after, time] at group
      refine ⟨_, _, faulted.trans (congrArg _ (absent ▸ parks)), group, ?_⟩
      simp [pend, idle, pc, hs, hv, hix]

end Sys2Proof.Machine

/-!
SUPPORT. The walk of the tables: the entries it meets on the way down, and what it finds at the last one (R242 to R248, O23).
-/
namespace Sys2Proof.Machine

/-! The outcome of a translation -/

/-- What an access takes from the outcome of a walk (R247). -/
def walkOutcome (need : Need) (va : Nat) : WalkRes → TransRes
  | .malformed => .inl .prot
  | .absent => .inl .absent
  | .placeholder _ _ _ => .inl .firstTouch
  | .leaf e ptr size =>
    if leafAllows need e then .inr ⟨va / size * size, size, leafPA e, some (e, ptr), false⟩ else .inl .prot

section
variable {s : State} {who : Who} {need : Need} {va : Nat}

theorem translate_beyond (h : 2 ^ 48 ≤ va) : s.translate who need va = .inl .prot := if_pos h

theorem translate_of_window {r : TransRes} (h : va < 2 ^ 48) (hw : s.window who need va = some r) :
    s.translate who need va = r := by
  rw [State.translate, if_neg (Nat.not_le.mpr h), hw]

/-- Outside the windows and with nothing cached, the walk decides (R247). -/
theorem translate_of_walk (h : va < 2 ^ 48) (hw : s.window who need va = none) (hl : s.lanePage who va = none)
    (hc : s.cachedFor who va = none) : s.translate who need va = walkOutcome need va (s.walkTree who.asid va) := by
  rw [State.translate, if_neg (Nat.not_le.mpr h), hw, hl, hc]
  dsimp only [Option.filter_none]
  cases s.walkTree who.asid va <;> rfl

end

/-! The levels -/

/-- The level `n` below the root's. -/
def levelAt : Nat → Level
  | 0 => .root
  | 1 => .l3
  | 2 => .l2
  | 3 => .l1
  | _ => .l0

/-- The levels from below that one on. -/
def levelsBelow : Nat → List Level
  | 0 => [.l3, .l2, .l1, .l0]
  | 1 => [.l2, .l1, .l0]
  | 2 => [.l1, .l0]
  | 3 => [.l0]
  | _ => []

theorem levelsBelow_succ : {n : Nat} → n < 4 → levelsBelow n = levelAt (n + 1) :: levelsBelow (n + 1)
  | 0, _ | 1, _ | 2, _ | 3, _ => rfl
  | _ + 4, h => absurd h (Nat.not_lt.mpr (Nat.le_add_left ..))

theorem size_levelAt (n : Nat) : (levelAt n).size = leafBytes n := by
  rcases n with _ | _ | _ | _ | n <;> rfl

theorem tableSize_levelAt : {n : Nat} → n < 4 → (levelAt (n + 1)).tableSize = tableBytes (n + 1)
  | 0, _ | 1, _ | 2, _ | 3, _ => rfl
  | _ + 4, h => absurd h (Nat.not_lt.mpr (Nat.le_add_left ..))

theorem index_levelAt (va : Nat) : {n : Nat} → n < 4 →
    (levelAt (n + 1)).index va = va / leafBytes (n + 1) % (tableBytes (n + 1) / 8)
  | 0, _ | 1, _ | 2, _ | 3, _ => rfl
  | _ + 4, h => absurd h (Nat.not_lt.mpr (Nat.le_add_left ..))

theorem levelAt_ne_root {n : Nat} (h : 1 ≤ n) : levelAt n ≠ .root := by
  rcases n with _ | _ | _ | _ | n
  · cases h
  all_goals exact nofun

theorem dvd_tableBytes (n : Nat) : 128 ∣ tableBytes n := by
  unfold tableBytes
  split <;> decide

/-! An entry by its bits (R244 to R247) -/

section
variable {s : State} {l : Level} {next : Option Level} {ptr size : Nat} {e : DWord}

theorem entry_of_numAt (he : s.numAt ptr 8 = e.toNat) : BitVec.ofNat 64 (s.numAt ptr 8) = e := by
  rw [he, BitVec.ofNat_toNat, BitVec.setWidth_eq]

theorem entryAt_absent (he : s.numAt ptr 8 = e.toNat) (sound : s.poisoned [ptr] = false) (v : leafV e = false)
    (ft : leafFT e = false) : s.entryAt l next ptr = .inl .absent := by
  simp [State.entryAt, entry_of_numAt he, sound, v, ft]

theorem entryAt_placeholder (he : s.numAt ptr 8 = e.toNat) (sound : s.poisoned [ptr] = false) (v : leafV e = false)
    (ft : leafFT e = true) (leaf : leafLeaf e = true) (rsvd : e.extractLsb' 9 3 = 0 ∧ e.extractLsb' 61 3 = 0)
    (below : l ≠ .root) : s.entryAt l next ptr = .inl (.placeholder e ptr l.size) := by
  simp [State.entryAt, entry_of_numAt he, sound, v, ft, leaf, rsvd, below]

theorem entryAt_leaf (hl : l.size = size) (he : s.numAt ptr 8 = e.toNat) (sound : s.poisoned [ptr] = false) (v : leafV e = true)
    (leaf : leafLeaf e = true) (rsvd : e.extractLsb' 9 3 = 0 ∧ e.extractLsb' 61 3 = 0) (below : l ≠ .root)
    (aligned : leafPA e % size = 0) (kind : s.kindOk (leafKind e) (leafPA e) size = true) :
    s.entryAt l next ptr = .inl (.leaf e ptr size) := by
  subst hl
  simp [State.entryAt, entry_of_numAt he, sound, v, leaf, rsvd, below, aligned, kind]

theorem entryAt_bad_leaf (hl : l.size = size) (he : s.numAt ptr 8 = e.toNat) (sound : s.poisoned [ptr] = false) (v : leafV e = true)
    (leaf : leafLeaf e = true) (bad : l = .root ∨ ¬ (e.extractLsb' 9 3 = 0 ∧ e.extractLsb' 61 3 = 0) ∨ leafPA e % size ≠ 0 ∨
      s.kindOk (leafKind e) (leafPA e) size = false) : s.entryAt l next ptr = .inl .malformed := by
  subst hl
  simp only [State.entryAt, entry_of_numAt he, sound, v, leaf, Bool.not_true, Bool.false_eq_true, if_false, if_true]
  refine if_pos ?_
  rw [Decidable.not_and_iff_not_or_not] at bad
  rcases bad with root | (low | high) | misaligned | kind
  · simp [root]
  · simp only [ne_eq, low, not_false_eq_true, decide_true, Bool.true_or]
  · simp only [ne_eq, high, not_false_eq_true, decide_true, Bool.or_true, Bool.true_or]
  · simp [misaligned]
  · simp [kind]

theorem entryAt_low_pointer (he : s.numAt ptr 8 = e.toNat) (sound : s.poisoned [ptr] = false) (v : leafV e = true)
    (leaf : leafLeaf e = false) : s.entryAt l none ptr = .inl .malformed := by
  simp [State.entryAt, entry_of_numAt he, sound, v, leaf]

/-- The fields of a valid pointer to the table at 128 m. -/
theorem pointer_fields {m : Nat} (he : e.toNat = 128 * m + 1) (low : 128 * m < 2 ^ 52) :
    leafV e = true ∧ leafLeaf e = false ∧ e.extractLsb' 2 5 = 0 ∧ e.extractLsb' 52 12 = 0 ∧
      (e.extractLsb' 7 45).toNat * 128 = 128 * m := by
  have bit (i : Nat) : e.getLsbD i = (128 * m + 1).testBit i := congrArg (Nat.testBit · i) he
  have field (a n : Nat) : (e.extractLsb' a n).toNat = (128 * m + 1) / 2 ^ a % 2 ^ n := by
    rw [BitVec.extractLsb'_toNat, he, Nat.shiftRight_eq_div_pow]
  refine ⟨(bit 0).trans ?_, (bit 1).trans ?_, BitVec.eq_of_toNat_eq ((field 2 5).trans ?_),
    BitVec.eq_of_toNat_eq ((field 52 12).trans ?_), ?_⟩
  · rw [Nat.testBit_zero, decide_eq_true_eq]
    omega
  · rw [Nat.testBit_succ, Nat.testBit_zero, decide_eq_false_iff_not]
    omega
  · show _ = 0
    omega
  · show _ = 0
    omega
  · rw [field]
    omega

/-- A valid pointer leads to its table (R244). -/
theorem entryAt_pointer {k : Level} {t : Nat} (h : tablePointer s ptr t size) (hk : k.tableSize = size) (unit : 128 ∣ size) :
    s.entryAt l (some k) ptr = .inr t := by
  obtain ⟨entry, aligned, inside, low, sound⟩ := h
  subst hk
  obtain ⟨m, rfl⟩ := Nat.dvd_trans unit (Nat.dvd_of_mod_eq_zero aligned)
  have he : (BitVec.ofNat 64 (128 * m + 1)).toNat = 128 * m + 1 := by
    rw [BitVec.toNat_ofNat]
    omega
  obtain ⟨v, leaf, low_bits, high_bits, table⟩ := pointer_fields he low
  have inside : ¬ s.part.dcap < 128 * m + k.tableSize := Nat.not_lt.mpr inside
  simp only [State.entryAt, entry, sound, v, leaf, low_bits, high_bits, table, aligned, inside, ne_eq, not_true_eq_false,
    decide_false, Bool.or_self, Bool.not_true, Bool.false_eq_true, if_false]

end

/-! The way down -/

section
variable {s : State} {root va n ptr : Nat}

/-- A walk that comes to an entry goes on as one that starts at its table (R243). -/
theorem walkFrom_of_reaches (h : walkReaches s root va n ptr) (hn : n ≤ 4) (hva : va < 2 ^ 48) :
    ∃ table, ptr = table + 8 * (levelAt n).index va ∧
      s.walkFrom va (.root :: levelsBelow 0) root = s.walkFrom va (levelAt n :: levelsBelow n) table := by
  induction n generalizing ptr with
  | zero =>
    obtain rfl : ptr = root + 8 * (va / 2 ^ 39) := h
    refine ⟨root, ?_, rfl⟩
    show _ = root + 8 * (va / 2 ^ 39 % 512)
    omega
  | succ n ih =>
    obtain ⟨up, t, above, pointer, rfl⟩ := h
    obtain ⟨table, rfl, walk⟩ := ih above (Nat.le_of_succ_le hn)
    refine ⟨t, by rw [index_levelAt va hn], walk.trans ?_⟩
    rw [levelsBelow_succ hn, State.walkFrom, List.head?_cons, entryAt_pointer pointer (tableSize_levelAt hn) (dvd_tableBytes _)]

/-- The outcome of a walk is what it finds at the entry to which it comes. -/
theorem walkTree_of_entry {asid : Nat} {w : WalkRes} (ha : s.asids.find? (fun p => p.1 = asid) = some (asid, root))
    (h : walkReaches s root va n ptr) (hn : n ≤ 4) (hva : va < 2 ^ 48)
    (entry : s.entryAt (levelAt n) (levelsBelow n).head? ptr = .inl w) : s.walkTree asid va = w := by
  obtain ⟨table, rfl, walk⟩ := walkFrom_of_reaches h hn hva
  rw [State.walkTree, ha]
  refine walk.trans ?_
  rw [State.walkFrom, entry]

end
end Sys2Proof.Machine

/-!
SUPPORT. The stamp check of an access within one page (R184), and firmware's windows (R118, R446, O23).
-/
namespace Sys2Proof.Machine

section
variable {s : State} {who : Who} {need : Need} {va len : Nat} {t : Trans}

/-- An access within one 4 KiB page is one piece. -/
theorem pieces_within_page (fuel : Nat) (h : 0 < len) (page : len ≤ 4096 - va % 4096) : pieces (fuel + 2) va len = [(va, len)] := by
  rw [pieces, if_neg (Nat.ne_of_gt h), Nat.min_eq_left page]
  simp only [Nat.sub_self]
  rfl

/-- The stamp of the page decides an access within it that translates (R184). -/
theorem translateSpan_within_page (h : s.translate who need va = .inr t) (some_len : 0 < len) (page : len ≤ 4096 - va % 4096)
    (contract : Option Nat) (miss : Bool) : s.translateSpan who need contract miss va len =
      if (contract.map t.mismatch).getD false && !miss then .inl ⟨.cmix, va⟩
      else .inr ⟨span (t.pa + (va - t.base)) len, [t], (contract.map t.mismatch).getD false⟩ := by
  rw [State.translateSpan, pieces_within_page _ some_len page]
  simp only [State.spanPieces, h, List.append_nil, Bool.or_false]

theorem mismatch_of_leaf {e : DWord} {ptr : Nat} (h : t.leaf = some (e, ptr)) (contract : Nat) :
    t.mismatch contract = true ↔ (e.extractLsb' 52 6).toNat ≠ 0 ∧ (e.extractLsb' 52 6).toNat ≠ contract := by
  simp [Trans.mismatch, Trans.stamp, h, leafStamp]

end

/-! The windows, in the order in which they are tried -/

theorem between {a b v : Nat} (low : a ≤ v) (high : v < b) : (decide (a ≤ v) && decide (v < b)) = true := by simp [low, high]

theorem not_between {a b v : Nat} (h : v < a ∨ b ≤ v) : ¬ (decide (a ≤ v) && decide (v < b)) = true := by
  simp only [Bool.and_eq_true, decide_eq_true_eq]
  omega

section
variable {s : State} {who : Who} {need : Need} {va : Nat}

theorem window_own_group (g : GRef) (hw : who.grp = some g) (low : 0x7E0000000000 ≤ va) (high : va < 0x7E0100000000) :
    s.window who need va =
      some (if need.x then .inl .prot else .inr ⟨0x7E0000000000, 2 ^ 32, privateKey g 0, none, false⟩) := by
  rw [State.window, if_pos (between low high), hw]

theorem window_own_share {bid : Nat} {b : Block} (hw : who.bid = some bid) (hb : s.block? bid = some b)
    (low : 0x7F0000000000 ≤ va) (high : va < 0x7F0000600000) :
    s.window who need va =
      some (if need.x || va - 0x7F0000000000 ≥ s.ownExtent b then .inl .prot else shareTrans b 0x7F0000000000 va) := by
  rw [State.window, if_neg (not_between (by omega)), if_pos (between low high), hw, Option.bind_some, hb]

theorem window_sharing {bid : Nat} (hw : who.bid = some bid) (low : 0x7F1000000000 ≤ va) (high : va < 0x7F1004000000) :
    s.window who need va =
      some (if need.x then .inl .prot else s.windowTrans bid ((va - 0x7F1000000000) / 0x800000) va) := by
  rw [State.window, if_neg (not_between (by omega)), if_neg (not_between (by omega)), if_pos (between low high), hw]

theorem window_capability (low : 0x7F2000000000 ≤ va) (high : va < 0x7F2000010000) :
    s.window who need va =
      some (if need.w || need.x then .inl .prot else .inr ⟨0x7F2000000000, 0x10000, capBase, none, false⟩) := by
  rw [State.window, if_neg (not_between (by omega)), if_neg (not_between (by omega)), if_neg (not_between (by omega)), if_pos (between low high)]

theorem window_translated (low : 0x7F3000000000 ≤ va) (high : va < 0x7F4000000000) :
    s.window who need va =
      some (if need.r || need.w then .inl .prot
        else if (s.translatedRanges who.asid).any fun r => r.1 ≤ va && va < r.1 + r.2 then
          .inr ⟨0x7F3000000000, 2 ^ 36, translatedKey who.asid 0, none, false⟩
        else .inl .prot) := by
  rw [State.window, if_neg (not_between (by omega)), if_neg (not_between (by omega)), if_neg (not_between (by omega)), if_neg (not_between (by omega)),
    if_pos (between low high)]

theorem window_firmware (low : 0x0F000000 ≤ va) (high : va < 0x0F020000) :
    s.window who need va =
      some (if need.r || need.w then .inl .prot else .inr ⟨0x0F000000, 0x20000, firmwareKey 0, none, false⟩) := by
  rw [State.window, if_neg (not_between (by omega)), if_neg (not_between (by omega)), if_neg (not_between (by omega)), if_neg (not_between (by omega)),
    if_neg (not_between (by omega)), if_pos (between low high)]

/-- A block's share from `base` on (R61, R118). -/
theorem shareTrans_at (b : Block) (base off : Nat) :
    shareTrans b base (base + off) =
      if b.shareLen ≤ off then .inl .prot
      else if b.onCore then .inr ⟨base, b.shareLen, 0x8000000000 + 0x600000 * b.core + b.shareOff, none, false⟩
      else .inl .absent := by
  rw [shareTrans, Nat.add_sub_cancel_left, shareAddr, Nat.mul_comm b.core]
  rfl

/-- No translation of the ASID holds an address that none of its objects' translations hold. -/
theorem translatedRanges_miss (h : ∀ c ∈ s.codes, c.asid = who.asid → ∀ t ∈ c.translations, ¬ (t.addr ≤ va ∧ va < t.addr + t.len)) :
    ((s.translatedRanges who.asid).any fun r => r.1 ≤ va && va < r.1 + r.2) = false := by
  simp only [State.translatedRanges, List.any_eq_false, List.mem_flatMap, List.mem_filter, List.mem_map, Bool.and_eq_true,
    decide_eq_true_eq]
  rintro r ⟨c, ⟨hc, asid⟩, t, ht, rfl⟩
  exact h c hc asid t ht

end

/-! The sharing-group window (R118, R262) -/

section
variable {s : State} {bid m va : Nat} {me : Block}

theorem windowTrans_alone (hb : s.block? bid = some me) (h : s.sharing.find? (fun r => r.members.any fun p => p.2 = bid) = none) :
    s.windowTrans bid m va = .inl (if m ∈ me.revoked then .revoke else .prot) := by
  rw [State.windowTrans, hb]
  simp only [State.sharingOf, h, List.contains_iff_mem]

theorem windowTrans_left {r : Sharing} (hb : s.block? bid = some me)
    (h : s.sharing.find? (fun r => r.members.any fun p => p.2 = bid) = some r) (out : r.members.find? (fun p => p.1 = m) = none) :
    s.windowTrans bid m va = .inl (if m ∈ me.revoked then .revoke else .prot) := by
  rw [State.windowTrans, hb]
  simp only [State.sharingOf, h, out, List.contains_iff_mem]

theorem windowTrans_member {r : Sharing} {k : Nat} {o : Block} (hb : s.block? bid = some me)
    (h : s.sharing.find? (fun r => r.members.any fun p => p.2 = bid) = some r)
    (member : r.members.find? (fun p => p.1 = m) = some (m, k)) (ho : s.block? k = some o) :
    s.windowTrans bid m va = shareTrans o (0x7F1000000000 + m * 0x800000) va := by
  rw [State.windowTrans, hb]
  simp only [State.sharingOf, h, member, ho]

end

/-- Settles O23: the walk comes to its entry, whose bits decide; the stamp decides within a page; each window answers before the
walk. -/
theorem addressTranslation : Obligations.AddressTranslation := by
  refine ⟨?walk, ?stamp, fun _ _ _ _ => translate_beyond, ?noAsid, ?ownGroup, ?ownShare, ?sharing, ?capability, ?translated,
    ?firmware⟩
  case walk =>
    intro s who need va root n ptr e hva hw hl hc ha hn reaches he sound size noRsvd
    have outcome {w : WalkRes} (entry : s.entryAt (levelAt n) (levelsBelow n).head? ptr = .inl w) :
        s.translate who need va = walkOutcome need va w := by
      rw [translate_of_walk hva hw hl hc, walkTree_of_entry ha reaches hn hva entry]
    refine ⟨fun v leaf below rsvd aligned kind => ?_, fun v leaf bad => ?_, fun v pointer last => ?_, fun v ft => ?_,
      fun v ft leaf below rsvd => ?_⟩
    · rw [outcome (entryAt_leaf (size_levelAt n) he sound v leaf rsvd (levelAt_ne_root below) aligned kind)]
      exact ⟨fun allows => if_pos allows, fun denies => if_neg (ne_true_of_eq_false denies)⟩
    · exact outcome (entryAt_bad_leaf (size_levelAt n) he sound v leaf (bad.imp_left fun top => by rw [top]; rfl))
    · subst last
      exact outcome (entryAt_low_pointer he sound v pointer)
    · exact outcome (entryAt_absent he sound v ft)
    · exact outcome (entryAt_placeholder he sound v ft leaf rsvd (levelAt_ne_root below))
  case stamp =>
    intro s who need va len contract ptr t e h leaf some_len page stamp sp
    have check := translateSpan_within_page h some_len page
    have mismatch := mismatch_of_leaf leaf contract
    refine ⟨fun stamped other => ?_, fun agrees miss => ?_, fun miss => check none miss⟩
    · have bad : t.mismatch contract = true := mismatch.mpr ⟨stamped, other⟩
      simp only [check, Option.map_some, Option.getD_some, bad]
      exact ⟨rfl, rfl⟩
    · have good : t.mismatch contract = false := by
        rw [← Bool.not_eq_true, mismatch, Decidable.not_and_iff_not_or_not, Decidable.not_not, Decidable.not_not]
        exact agrees
      simp only [check, Option.map_some, Option.getD_some, good]
      rfl
  case noAsid =>
    intro s who need va hw hl hc ha
    rcases Nat.lt_or_ge va (2 ^ 48) with hva | beyond
    · rw [translate_of_walk hva hw hl hc, State.walkTree, ha]
      rfl
    · exact translate_beyond beyond
  case ownGroup => exact fun s g need va low high => translate_of_window (by omega) (window_own_group g rfl low high)
  case ownShare =>
    intro s who need bid off b l hw hb hl inside share
    have extent : s.ownExtent b = share := by rw [State.ownExtent, hl]; rfl
    rw [translate_of_window (by omega) (window_own_share hw hb (by omega) (by omega)), shareTrans_at, extent,
      Nat.add_sub_cancel_left]
    by_cases beyond : (need.x || decide (share ≤ off)) = true
    · rw [if_pos beyond]
      exact (if_pos beyond).symm
    · have within : ¬ b.shareLen ≤ off := by
        simp only [Bool.or_eq_true, decide_eq_true_eq, not_or] at beyond
        omega
      rw [if_neg beyond, if_neg within]
      exact (if_neg beyond).symm
  case sharing =>
    intro s who need bid m off me hw hb slot inside va gone
    have window := window_sharing (s := s) (need := need) (va := va) hw (by omega) (by omega)
    have number : (va - 0x7F1000000000) / 0x800000 = m := by omega
    have answer := translate_of_window (by omega) (number ▸ window)
    refine ⟨fun fetch => answer.trans (if_pos fetch), fun data alone => ?_,
      fun r data found => ⟨fun left => ?_, fun k o member ho => ?_⟩⟩
    all_goals rw [answer, if_neg (ne_true_of_eq_false data)]
    · exact windowTrans_alone hb alone
    · exact windowTrans_left hb found left
    · rw [windowTrans_member hb found member ho, Nat.mul_comm m]
      exact shareTrans_at ..
  case capability => exact fun s who need va low high => translate_of_window (by omega) (window_capability low high)
  case translated =>
    intro s who need va low high
    rw [translate_of_window (by omega) (window_translated low high)]
    refine ⟨fun data => if_pos (by simpa using data), fun miss => ?_⟩
    rw [translatedRanges_miss miss]
    exact ite_self _
  case firmware =>
    intro s who need va low high data
    rw [translate_of_window (by omega) (window_firmware low high)]
    exact if_pos (by simpa using data)

end Sys2Proof.Machine
